-- ==== Sys2Proof/Word.lean ====
section
/-! DEFINITION. The words of the Marpen 4800 and their plainest readings (R5, R10, R38). -/

namespace Sys2Proof

/-- A 64-bit word: scalar registers, system registers, syllables (R30, R105). -/
abbrev Word := BitVec 64

/-- A row or vector register of 128 bytes (R5, R17, R213). -/
abbrev Row := BitVec 1024

/-- The number of a scalar register s0 to s63 (R38). -/
abbrev Reg := BitVec 6

/-- The number of a predicate p0 to p15 (R38). -/
abbrev Prd := BitVec 4

/-- The number of a vector register v0 to v2047 (R38). -/
abbrev VReg := BitVec 11

/-- The number of a mask m0 to m15 (R38). -/
abbrev MReg := BitVec 4

/-- The number of a handle h0 to h31 (R38). -/
abbrev HReg := BitVec 5

/-- The number of a ring register ring0 to ring15 (R38). -/
abbrev Ring := BitVec 4

/-- Bits `lo` to `lo + len - 1` of a word (R5). -/
abbrev bits {w : Nat} (x : BitVec w) (lo len : Nat) : BitVec len := x.extractLsb' lo len

/-- The number of 1-bits of a natural number, by at most `fuel` binary digits. -/
def popNat : Nat → Nat → Nat
  | 0, _ => 0
  | f + 1, n => if n = 0 then 0 else n % 2 + popNat f (n / 2)

/-- The number of 1-bits of a word (R114, R85). -/
def pop {w : Nat} (x : BitVec w) : Nat := popNat w x.toNat

end Sys2Proof
end

