-- ==== Sys2Proof/Config.lean ====
section
/-! DEFINITION. What the specification leaves open (R2, R6, R7): free values, which have no body, so no proof can
rest on what they are (log 1, 16). -/

namespace Sys2Proof

/-- Every time the manual calls nominal, in ticks: the n-th draw (R2, log 1). -/
opaque Config.nominal : Nat → Nat

/-- Every value the manual leaves to the part and states no figure for: the n-th draw (log 16). -/
opaque Config.freeWord : Nat → Word

/-- Whether a write of bundle q with scope 0, which has performed for its own strand, is not waited for by what its strand orders
behind it: R426 lets the part wait or not (R170, R172, R174, R183, log 92). -/
opaque Config.relaxed : Nat → Bool

/-- The hops on dies of a path that leaves the package, in ticks, from atoll (x, y) to atoll (x', y'), with the ports that give the
largest bound: the manual does not place the ports on their dies (R373, log 26). -/
opaque Config.farPath : Nat → Nat → Nat → Nat → Nat

end Sys2Proof
end

