-- ==== Sys2Proof/Machine/Data.lean ====
section
/-! DEFINITION. Sparse memories: lists of keys and values with rising keys and no value equal to zero, which an
unlisted key reads as (R151, R213, R417: cleared memory reads zero). -/

namespace Sys2Proof.Machine

/-- A sparse map from a key to `w` bits; an unlisted key reads 0. -/
abbrev SMap (w : Nat) := List (Nat × BitVec w)

/-- The value at key `k`. -/
def SMap.get {w : Nat} (m : SMap w) (k : Nat) : BitVec w :=
  match m.find? (fun c => c.1 == k) with
  | some c => c.2
  | none => 0

/-- The map with key `k` set to `v`; setting zero removes the entry. -/
def SMap.set {w : Nat} (m : SMap w) (k : Nat) (v : BitVec w) : SMap w :=
  m.filter (fun c => decide (c.1 < k)) ++ ((if v = 0 then [] else [(k, v)]) ++ m.filter (fun c => decide (k < c.1)))

/-- The canonical form: keys rise and no entry holds zero. -/
def SMap.wf {w : Nat} : SMap w → Bool
  | [] => true
  | [c] => c.2 != 0
  | c :: d :: r => c.2 != 0 && decide (c.1 < d.1) && SMap.wf (d :: r)

/-- A memory of bytes. -/
abbrev Mem := SMap 8

/-- The canonical form of a memory. -/
abbrev Memory.wf (m : Mem) : Bool := SMap.wf m

/-- The bytes of `v`, the least significant first, at rising addresses from `a`, zero bytes left out (R5). -/
def cellsOf : Nat → Nat → Nat → Mem
  | 0, _, _ => []
  | n + 1, a, v => (if v % 256 = 0 then [] else [(a, BitVec.ofNat 8 (v % 256))]) ++ cellsOf n (a + 1) (v / 256)

/-- The memory with `n` bytes of `v` written from address `a` up, little-endian (R5). -/
def Mem.write (m : Mem) (a n v : Nat) : Mem :=
  m.filter (fun c => decide (c.1 < a)) ++ (cellsOf n a v ++ m.filter (fun c => decide (a + n ≤ c.1)))

/-- The `n` bytes from address `a` up as a number, little-endian (R5). -/
def Mem.read (m : Mem) : Nat → Nat → Nat
  | _, 0 => 0
  | a, n + 1 => (SMap.get m a).toNat + 256 * Mem.read m (a + 1) n

/-- The bytes of a window of memory; reading the window or the memory gives the same value. -/
def Mem.window (m : Mem) (a n : Nat) : Mem := m.filter (fun c => decide (a ≤ c.1) && decide (c.1 < a + n))

/-- Row `r` of 128 bytes (R17, R22). -/
def Mem.row (m : Mem) (r : Nat) : Row := BitVec.ofNat 1024 (Mem.read (Mem.window m (128 * r) 128) (128 * r) 128)

/-- The memory with row `r` written. -/
def Mem.setRow (m : Mem) (r : Nat) (v : Row) : Mem := Mem.write m (128 * r) 128 v.toNat

/-- The 64-bit word at byte address `a`, whose low three bits are ignored (R149, R162). -/
def Mem.word (m : Mem) (a : Nat) : Word := BitVec.ofNat 64 (Mem.read (Mem.window m (a / 8 * 8) 8) (a / 8 * 8) 8)

/-- The memory with the 64-bit word at byte address `a` written. -/
def Mem.setWord (m : Mem) (a : Nat) (v : Word) : Mem := Mem.write m (a / 8 * 8) 8 v.toNat

end Sys2Proof.Machine
end

