-- ==== Sys2Proof/Syntax.lean ====
section
/-! DEFINITION. The syntax: one constructor for each row of the opcode table (R58 to R69, and the steps of
the device, the front end, the host and the environment), with the operands of each.  The operand fields of
a syllable keep the names of the formats of R47 to R52.  The guard of classes 0x0 to 0x4 is no operand: it
stands beside the instruction in `Syl`, since it decides only whether the syllable takes effect (R39). -/

namespace Sys2Proof

/-- The system registers of R63. -/
inductive SysReg where
  | aclass | sbmode | enmeterLo | enmeterHi | enquotaLo | enquotaHi | tvec | qsw | domain | gtc | atc
  | laglvl | idlemx | grottoBase | grottoRows | hovf | lc | trpc | trcause | trinfo
deriving DecidableEq, Repr

/-! ## Operands of scalar, system and memory syllables (R47, R48) -/

structure R3 where
  (d a b : Reg)
deriving DecidableEq, Repr

structure R2 where
  (d a : Reg)
deriving DecidableEq, Repr

structure RSel where
  (d : Reg) (c : Prd) (a b : Reg)
deriving DecidableEq, Repr

structure RCmp where
  (p : Prd) (a b : Reg)
deriving DecidableEq, Repr

structure P3 where
  (d a b : Prd)
deriving DecidableEq, Repr

structure P2 where
  (d a : Prd)
deriving DecidableEq, Repr

structure I3 where
  (d a : Reg) (imm : BitVec 32)
deriving DecidableEq, Repr

structure ISh where
  (d a : Reg) (n : BitVec 6)
deriving DecidableEq, Repr

structure ILi where
  (d : Reg) (imm : BitVec 32)
deriving DecidableEq, Repr

/-- br: `n` is the field N, which negates the condition (R48). -/
structure BrOp where
  (c : Prd) (n : Bool) (off : BitVec 32)
deriving DecidableEq, Repr

structure JOp where
  (off : BitVec 32)
deriving DecidableEq, Repr

structure CallOp where
  (c : Reg) (off : BitVec 32)
deriving DecidableEq, Repr

structure RetOp where
  (c : Reg)
deriving DecidableEq, Repr

structure SyImm where
  (imm : BitVec 16)
deriving DecidableEq, Repr

structure MfsrOp where
  (d : Reg) (sr : SysReg)
deriving DecidableEq, Repr

structure MtsrOp where
  (sr : SysReg) (a : Reg)
deriving DecidableEq, Repr

structure SyA where
  (a : Reg)
deriving DecidableEq, Repr

structure SyD where
  (d : Reg)
deriving DecidableEq, Repr

structure MLd where
  (d a : Reg) (off : BitVec 16)
deriving DecidableEq, Repr

structure MSt where
  (b a : Reg) (off : BitVec 16)
deriving DecidableEq, Repr

structure GLdOp where
  (d : Reg) (h : HReg) (a : Reg) (off : BitVec 16)
deriving DecidableEq, Repr

structure GStOp where
  (b : Reg) (h : HReg) (a : Reg) (off : BitVec 16)
deriving DecidableEq, Repr

structure XlatOp where
  (h : HReg) (a : Reg)
deriving DecidableEq, Repr

structure HinvOp where
  (h : HReg)
deriving DecidableEq, Repr

structure FenceOp where
  (mask : BitVec 16)
deriving DecidableEq, Repr

structure MAd where
  (a : Reg) (off : BitVec 16)
deriving DecidableEq, Repr

structure MTest where
  (p : Prd) (a : Reg) (off : BitVec 16)
deriving DecidableEq, Repr

structure MAwait where
  (d b a : Reg) (off : BitVec 16)
deriving DecidableEq, Repr

/-- An atomic: `G` selects the handle form, and `h` is 0 in the scratchpad form (R48, R64). -/
structure Amo where
  (d b : Reg) (h : HReg) (a : Reg) (off : BitVec 16) (G : Bool)
deriving DecidableEq, Repr

/-- The modifier prefix (R52). -/
structure PfxOp where
  (kv : Bool) (k : BitVec 4) (lvv : Bool) (lv : BitVec 3) (sp : BitVec 2) (cv : Bool) (cp : BitVec 3)
deriving DecidableEq, Repr

/-! ## Operands of vector syllables (R49) -/

structure V3 where
  (d a b : VReg) (smod : BitVec 12) (et : BitVec 4) (ramp : BitVec 2)
deriving DecidableEq, Repr

structure V2 where
  (d a : VReg) (et : BitVec 4) (ramp : BitVec 2)
deriving DecidableEq, Repr

structure VSw where
  (d a : VReg) (ramp : BitVec 2)
deriving DecidableEq, Repr

structure VCSw where
  (d a : VReg) (m : MReg) (et : BitVec 4) (ramp : BitVec 2)
deriving DecidableEq, Repr

structure V3M where
  (md : MReg) (a b : VReg) (smod : BitVec 12) (et : BitVec 4) (ramp : BitVec 2)
deriving DecidableEq, Repr

structure VMOp where
  (d a b : VReg) (m : MReg) (et : BitVec 4) (ramp : BitVec 2)
deriving DecidableEq, Repr

structure VA where
  (a : VReg) (ramp : BitVec 2)
deriving DecidableEq, Repr

structure VZm where
  (md : MReg) (a : VReg) (ramp : BitVec 2)
deriving DecidableEq, Repr

structure V4 where
  (d a b c : VReg) (et : BitVec 4) (ramp : BitVec 2)
deriving DecidableEq, Repr

structure VFc where
  (md : MReg) (a b : VReg) (x et : BitVec 4) (ramp : BitVec 2)
deriving DecidableEq, Repr

structure VC where
  (d a b : VReg) (x y i et : BitVec 4) (ramp : BitVec 2)
deriving DecidableEq, Repr

structure VLd where
  (d : VReg) (s : Reg) (imm : BitVec 17) (ramp : BitVec 2)
deriving DecidableEq, Repr

structure VSt where
  (a : VReg) (s : Reg) (imm : BitVec 17) (ramp : BitVec 2)
deriving DecidableEq, Repr

structure VR where
  (d a b : VReg) (s : Reg) (ramp : BitVec 2)
deriving DecidableEq, Repr

structure VBc where
  (d : VReg) (s : Reg) (et : BitVec 4) (ramp : BitVec 2)
deriving DecidableEq, Repr

structure VExt where
  (s : Reg) (a : VReg) (imm : BitVec 17) (et : BitVec 4) (ramp : BitVec 2)
deriving DecidableEq, Repr

structure VIns where
  (d : VReg) (s : Reg) (imm : BitVec 17) (et : BitVec 4) (ramp : BitVec 2)
deriving DecidableEq, Repr

structure VK where
  (md ma mb : MReg) (ramp : BitVec 2)
deriving DecidableEq, Repr

structure VK2 where
  (md ma : MReg) (ramp : BitVec 2)
deriving DecidableEq, Repr

/-! ## Operands of matrix and rotator syllables (R50, R253, R279); `stamp` is the field st when sv = 1 -/

structure MRing2 where
  (x : Ring) (a b : Reg)
deriving DecidableEq, Repr

structure MRing1 where
  (x : Ring) (a : Reg)
deriving DecidableEq, Repr

structure FmtqOp where
  (a : Reg)
deriving DecidableEq, Repr

structure MwldOp where
  (y : Ring) (stamp : Option (BitVec 10)) (ramp : BitVec 2)
deriving DecidableEq, Repr

structure ProdOp where
  (x : Ring) (a : Reg) (stamp : Option (BitVec 10)) (ramp : BitVec 2)
deriving DecidableEq, Repr

structure StOp where
  (stamp : Option (BitVec 10))
deriving DecidableEq, Repr

structure RtqrOp where
  (x y : Ring) (b : Reg) (p : BitVec 5) (stamp : Option (BitVec 10)) (ramp : BitVec 2)
deriving DecidableEq, Repr

structure RtaplOp where
  (x y : Ring) (a b : Reg) (p c : BitVec 5) (stamp : Option (BitVec 10)) (ramp : BitVec 2)
deriving DecidableEq, Repr

structure RtinvQOp where
  (y : Ring) (a b : Reg) (p : BitVec 5) (stamp : Option (BitVec 10)) (ramp : BitVec 2)
deriving DecidableEq, Repr

structure RtsolveOp where
  (a b : Reg) (n c : BitVec 5) (stamp : Option (BitVec 10)) (ramp : BitVec 2)
deriving DecidableEq, Repr

structure RtrwOp where
  (a : Reg) (i c : BitVec 5) (stamp : Option (BitVec 10))
deriving DecidableEq, Repr

structure RtgainOp where
  (n : BitVec 5) (gs : BitVec 4) (cm : BitVec 2)
deriving DecidableEq, Repr

/-! ## Operands of engine syllables (R51, R296, R330, R360, R379) -/

structure COp where
  (ds : BitVec 2) (dh : HReg) (da : Reg) (ss : BitVec 2) (sh : HReg) (sa n bar : Reg)
deriving DecidableEq, Repr

structure CcOp where
  (c : COp) (gran : BitVec 2)
deriving DecidableEq, Repr

structure CgOp where
  (c : COp) (slot : BitVec 3)
deriving DecidableEq, Repr

structure CsOp where
  (c : COp) (y z : BitVec 4) (f : Bool) (x : BitVec 2)
deriving DecidableEq, Repr

structure CzOp where
  (ds : BitVec 2) (dh : HReg) (da n bar : Reg)
deriving DecidableEq, Repr

structure CvOp where
  (c : COp) (x y : BitVec 4)
deriving DecidableEq, Repr

structure PpOp where
  (ds : BitVec 2) (dh : HReg) (da sa n bar : Reg) (y : BitVec 4) (x : Bool) (f : BitVec 6)
deriving DecidableEq, Repr

/-- lsend: `p` is the field P − 1. -/
structure LsendOp where
  (a b c : Reg) (tile u : BitVec 8) (p : BitVec 5)
deriving DecidableEq, Repr

/-- lrecv: `n` is the field C − 1. -/
structure LrecvOp where
  (a c : Reg) (tile : BitVec 8) (n : BitVec 5) (f : Bool)
deriving DecidableEq, Repr

structure LraddOp where
  (a b c d : Reg) (tile u : BitVec 8) (s2 loc fwd : Bool)
deriving DecidableEq, Repr

structure LTile where
  (tile : BitVec 8)
deriving DecidableEq, Repr

structure LprecOp where
  (a : Reg) (tile : BitVec 8)
deriving DecidableEq, Repr

structure LwprecOp where
  (a : Reg) (tile : BitVec 8) (n : BitVec 5)
deriving DecidableEq, Repr

structure NmcOp where
  (a b c d : Reg) (h : HReg) (slot : BitVec 3)
deriving DecidableEq, Repr

/-- wake and gate: bit 0 vx, bit 1 mx, bit 2 rt, bit 3 cp (R100). -/
structure EngOp where
  (mask : BitVec 4)
deriving DecidableEq, Repr

/-- clkdiv: `dom` is the field sel, `n` the field div (R101). -/
structure ClkOp where
  (a : Reg) (dom : BitVec 3) (n : BitVec 6)
deriving DecidableEq, Repr

structure RdmOp where
  (a : Reg) (drain : Bool)
deriving DecidableEq, Repr

structure DsyncOp where
  (a : Reg) (lvl : BitVec 3)
deriving DecidableEq, Repr

structure XsendOp where
  (a b : Reg) (lvl : BitVec 3) (t : BitVec 20)
deriving DecidableEq, Repr

structure XrecvOp where
  (a b : Reg) (lvl : BitVec 3) (c : Reg) (t : BitVec 20)
deriving DecidableEq, Repr


/-- Every instruction and every step of the part: one constructor per row of the opcode table.
The first 249 are syllables (R58 to R69), with their operands; the others are the steps of the device, the
front end, the host and the environment, which the table gives no field: what such a step acts on stands
beside it in the agenda (Machine/State.lean).  Each docstring names the rule of the row. -/
inductive Instr where
  /-- R114. -/
  | add (o : R3)
  /-- R114. -/
  | sub (o : R3)
  /-- R114. -/
  | and (o : R3)
  /-- R114. -/
  | or (o : R3)
  /-- R114. -/
  | xor (o : R3)
  /-- R114. -/
  | andn (o : R3)
  /-- R114. -/
  | shl (o : R3)
  /-- R114. -/
  | shr (o : R3)
  /-- R114. -/
  | sra (o : R3)
  /-- R114. -/
  | mul (o : R3)
  /-- R114. -/
  | mulh (o : R3)
  /-- R114. -/
  | mulhu (o : R3)
  /-- R114. -/
  | div (o : R3)
  /-- R114. -/
  | divu (o : R3)
  /-- R114. -/
  | rem (o : R3)
  /-- R114. -/
  | min (o : R3)
  /-- R114. -/
  | max (o : R3)
  /-- R114. -/
  | minu (o : R3)
  /-- R114. -/
  | maxu (o : R3)
  /-- R114. -/
  | clz (o : R2)
  /-- R114. -/
  | popc (o : R2)
  /-- R114. -/
  | sel (o : RSel)
  /-- R116. -/
  | cmpeq (o : RCmp)
  /-- R116. -/
  | cmpne (o : RCmp)
  /-- R116. -/
  | cmplt (o : RCmp)
  /-- R116. -/
  | cmpltu (o : RCmp)
  /-- R116. -/
  | cmple (o : RCmp)
  /-- R116. -/
  | cmpleu (o : RCmp)
  /-- R116. -/
  | pand (o : P3)
  /-- R116. -/
  | por (o : P3)
  /-- R116. -/
  | pnot (o : P2)
  /-- R115. -/
  | addi (o : I3)
  /-- R115. -/
  | andi (o : I3)
  /-- R115. -/
  | ori (o : I3)
  /-- R115. -/
  | xori (o : I3)
  /-- R115. -/
  | shli (o : ISh)
  /-- R115. -/
  | shri (o : ISh)
  /-- R115. -/
  | srai (o : ISh)
  /-- R115. -/
  | li (o : ILi)
  /-- R115. -/
  | lih (o : ILi)
  /-- R117. -/
  | br (o : BrOp)
  /-- R117. -/
  | jmp (o : JOp)
  /-- R117. -/
  | call (o : CallOp)
  /-- R117. -/
  | ret (o : RetOp)
  /-- R118. -/
  | loop (o : JOp)
  /-- R126. -/
  | rgn (o : SyImm)
  /-- R120. -/
  | mfsr (o : MfsrOp)
  /-- R120. -/
  | mtsr (o : MtsrOp)
  /-- R142. -/
  | trap (o : SyImm)
  /-- R147. -/
  | iinvLine (o : SyA)
  /-- R147. -/
  | iinvPage (o : SyA)
  /-- R144. -/
  | rdgtc (o : SyD)
  /-- R143. -/
  | brk (o : SyImm)
  /-- R167. -/
  | lds (o : MLd)
  /-- R167. -/
  | sts (o : MSt)
  /-- R168. -/
  | gld (o : GLdOp)
  /-- R168. -/
  | gst (o : GStOp)
  /-- R163. -/
  | xlat (o : XlatOp)
  /-- R165. -/
  | hinv (o : HinvOp)
  /-- R174. -/
  | fence (o : FenceOp)
  /-- R182. -/
  | binit (o : MSt)
  /-- R183. -/
  | arrive (o : MAd)
  /-- R184. -/
  | bwait (o : MAd)
  /-- R185. -/
  | btest (o : MTest)
  /-- R188. -/
  | await (o : MAwait)
  /-- R177. -/
  | amoadd (o : Amo)
  /-- R177. -/
  | amoxor (o : Amo)
  /-- R177. -/
  | amomin (o : Amo)
  /-- R177. -/
  | amomax (o : Amo)
  /-- R177. -/
  | amoswp (o : Amo)
  /-- R177. -/
  | amocas (o : Amo)
  /-- R54. -/
  | pfx (o : PfxOp)
  /-- R222. -/
  | vadd (o : V3)
  /-- R222. -/
  | evadd (o : V3)
  /-- R222. -/
  | vsub (o : V3)
  /-- R222. -/
  | evsub (o : V3)
  /-- R223. -/
  | vmac (o : V3)
  /-- R223. -/
  | evmac (o : V3)
  /-- R223. -/
  | vmas (o : V3)
  /-- R223. -/
  | evmas (o : V3)
  /-- R222. -/
  | vneg (o : V2)
  /-- R222. -/
  | evneg (o : V2)
  /-- R222. -/
  | vnot (o : V2)
  /-- R222. -/
  | evnot (o : V2)
  /-- R222. -/
  | vxor (o : V3)
  /-- R222. -/
  | evxor (o : V3)
  /-- R222. -/
  | vxand (o : V3)
  /-- R222. -/
  | evxand (o : V3)
  /-- R225. -/
  | vswap (o : VSw)
  /-- R225. -/
  | vcswap (o : VCSw)
  /-- R222. -/
  | vshl (o : V3)
  /-- R222. -/
  | evshl (o : V3)
  /-- R222. -/
  | vshr (o : V3)
  /-- R222. -/
  | evshr (o : V3)
  /-- R222. -/
  | vsra (o : V3)
  /-- R222. -/
  | evsra (o : V3)
  /-- R222. -/
  | vrotl (o : V3)
  /-- R222. -/
  | evrotl (o : V3)
  /-- R222. -/
  | vand (o : V3)
  /-- R222. -/
  | evand (o : V3)
  /-- R222. -/
  | vor (o : V3)
  /-- R222. -/
  | evor (o : V3)
  /-- R222. -/
  | vmin (o : V3)
  /-- R222. -/
  | evmin (o : V3)
  /-- R222. -/
  | vmax (o : V3)
  /-- R222. -/
  | evmax (o : V3)
  /-- R222. -/
  | vabs (o : V2)
  /-- R222. -/
  | evabs (o : V2)
  /-- R222. -/
  | vmul (o : V3)
  /-- R222. -/
  | evmul (o : V3)
  /-- R222. -/
  | vpopc (o : V2)
  /-- R222. -/
  | evpopc (o : V2)
  /-- R222. -/
  | vclz (o : V2)
  /-- R222. -/
  | evclz (o : V2)
  /-- R224. -/
  | vcmpeq (o : V3M)
  /-- R224. -/
  | evcmpeq (o : V3M)
  /-- R224. -/
  | vcmplt (o : V3M)
  /-- R224. -/
  | evcmplt (o : V3M)
  /-- R224. -/
  | vcmple (o : V3M)
  /-- R224. -/
  | evcmple (o : V3M)
  /-- R224. -/
  | vsel (o : VMOp)
  /-- R224. -/
  | evsel (o : VMOp)
  /-- R226. -/
  | vassz (o : VA)
  /-- R227. -/
  | vzmask (o : VZm)
  /-- R227. -/
  | evzmask (o : VZm)
  /-- R228. -/
  | vfadd (o : V3)
  /-- R228. -/
  | evfadd (o : V3)
  /-- R228. -/
  | vfsub (o : V3)
  /-- R228. -/
  | evfsub (o : V3)
  /-- R228. -/
  | vfmul (o : V3)
  /-- R228. -/
  | evfmul (o : V3)
  /-- R228. -/
  | vfma (o : V4)
  /-- R228. -/
  | evfma (o : V4)
  /-- R228. -/
  | vfmin (o : V3)
  /-- R228. -/
  | evfmin (o : V3)
  /-- R228. -/
  | vfmax (o : V3)
  /-- R228. -/
  | evfmax (o : V3)
  /-- R228. -/
  | vfneg (o : V2)
  /-- R228. -/
  | evfneg (o : V2)
  /-- R228. -/
  | vfabs (o : V2)
  /-- R228. -/
  | evfabs (o : V2)
  /-- R229. -/
  | vfrcp (o : V2)
  /-- R229. -/
  | evfrcp (o : V2)
  /-- R229. -/
  | vfrsq (o : V2)
  /-- R229. -/
  | evfrsq (o : V2)
  /-- R229. -/
  | vfexp2 (o : V2)
  /-- R229. -/
  | evfexp2 (o : V2)
  /-- R229. -/
  | vflog2 (o : V2)
  /-- R229. -/
  | evflog2 (o : V2)
  /-- R229. -/
  | vftanh (o : V2)
  /-- R229. -/
  | evftanh (o : V2)
  /-- R230. -/
  | vfcmp (o : VFc)
  /-- R230. -/
  | evfcmp (o : VFc)
  /-- R231. -/
  | vcvt (o : VC)
  /-- R231. -/
  | evcvt (o : VC)
  /-- R232. -/
  | vcvr (o : VC)
  /-- R232. -/
  | evcvr (o : VC)
  /-- R233. -/
  | vmerge (o : VC)
  /-- R233. -/
  | evmerge (o : VC)
  /-- R234. -/
  | vshoal (o : VC)
  /-- R234. -/
  | evshoal (o : VC)
  /-- R235. -/
  | vscale (o : VC)
  /-- R235. -/
  | evscale (o : VC)
  /-- R236. -/
  | vbpenc (o : VC)
  /-- R236. -/
  | evbpenc (o : VC)
  /-- R237. -/
  | vbpdec (o : VC)
  /-- R237. -/
  | evbpdec (o : VC)
  /-- R238. -/
  | vredadd (o : VC)
  /-- R238. -/
  | evredadd (o : VC)
  /-- R238. -/
  | vredmax (o : VC)
  /-- R238. -/
  | evredmax (o : VC)
  /-- R238. -/
  | vredmin (o : VC)
  /-- R238. -/
  | evredmin (o : VC)
  /-- R239. -/
  | vscan (o : VC)
  /-- R239. -/
  | evscan (o : VC)
  /-- R242. -/
  | vld (o : VLd)
  /-- R242. -/
  | evld (o : VLd)
  /-- R242. -/
  | vst (o : VSt)
  /-- R242. -/
  | evst (o : VSt)
  /-- R244. -/
  | vldx (o : V2)
  /-- R244. -/
  | evldx (o : V2)
  /-- R240. -/
  | vperm (o : V3)
  /-- R240. -/
  | evperm (o : V3)
  /-- R240. -/
  | vrmg (o : VR)
  /-- R240. -/
  | evrmg (o : VR)
  /-- R240. -/
  | vbcast (o : VBc)
  /-- R240. -/
  | evbcast (o : VBc)
  /-- R240. -/
  | vext (o : VExt)
  /-- R240. -/
  | vins (o : VIns)
  /-- R240. -/
  | evins (o : VIns)
  /-- R94. -/
  | hpush (o : VA)
  /-- R94. -/
  | hpop (o : VA)
  /-- R241. -/
  | mand (o : VK)
  /-- R241. -/
  | emand (o : VK)
  /-- R241. -/
  | mor (o : VK)
  /-- R241. -/
  | emor (o : VK)
  /-- R241. -/
  | mnot (o : VK2)
  /-- R241. -/
  | emnot (o : VK2)
  /-- R254. -/
  | mringSet (o : MRing2)
  /-- R254. -/
  | mringRead (o : MRing1)
  /-- R254. -/
  | mringLoad (o : MRing1)
  /-- R255. -/
  | mtail (o : MRing1)
  /-- R256. -/
  | fmtq (o : FmtqOp)
  /-- R258. -/
  | mwld (o : MwldOp)
  /-- R261. -/
  | mmacr (o : ProdOp)
  /-- R261. -/
  | mmasr (o : ProdOp)
  /-- R261. -/
  | emmul (o : ProdOp)
  /-- R261. -/
  | emfma (o : ProdOp)
  /-- R259. -/
  | emclr (o : StOp)
  /-- R281. -/
  | rtqr (o : RtqrOp)
  /-- R282. -/
  | rtapl (o : RtaplOp)
  /-- R283. -/
  | rtinvQr (o : RtinvQOp)
  /-- R283. -/
  | rtinvApl (o : RtaplOp)
  /-- R285. -/
  | rtsolve (o : RtsolveOp)
  /-- R286. -/
  | rtrd (o : RtrwOp)
  /-- R286. -/
  | rtwr (o : RtrwOp)
  /-- R286. -/
  | rtgainSet (o : RtgainOp)
  /-- R286. -/
  | rtgainRead (o : FmtqOp)
  /-- R286. -/
  | ertclr (o : StOp)
  /-- R299. -/
  | cpy (o : COp)
  /-- R299. -/
  | cpyx (o : COp)
  /-- R305. -/
  | cpycPack (o : CcOp)
  /-- R305. -/
  | cpycUnpack (o : CcOp)
  /-- R302. -/
  | cpyg (o : CgOp)
  /-- R301. -/
  | cpys (o : CsOp)
  /-- R299. -/
  | cpyz (o : CzOp)
  /-- R300. -/
  | cpyv (o : CvOp)
  /-- R306. -/
  | ppcmp (o : PpOp)
  /-- R332. -/
  | lsend (o : LsendOp)
  /-- R333. -/
  | lrecv (o : LrecvOp)
  /-- R334. -/
  | lradd (o : LraddOp)
  /-- R335. -/
  | lcancel (o : LTile)
  /-- R336. -/
  | lprec (o : LprecOp)
  /-- R337. -/
  | lwprec (o : LwprecOp)
  /-- R360. -/
  | nmc (o : NmcOp)
  /-- R100. -/
  | wake (o : EngOp)
  /-- R100. -/
  | gate (o : EngOp)
  /-- R101. -/
  | clkdiv (o : ClkOp)
  /-- R91. -/
  | rdmeterUsed (o : RdmOp)
  /-- R91. -/
  | rdmeterBal (o : RdmOp)
  /-- R378. -/
  | dsync (o : DsyncOp)
  /-- R379. -/
  | xsend (o : XsendOp)
  /-- R379. -/
  | xrecv (o : XrecvOp)
  /-- R119. -/
  | idle
  /-- R127. -/
  | rgnend
  /-- R141. -/
  | rti
  /-- R146. -/
  | halt
  /-- R147. -/
  | iinvAll
  /-- R145. -/
  | realign
  /-- R32. -/
  | bundleFetch
  /-- R110. -/
  | scalarResultLand
  /-- R217. -/
  | vectorResultLand
  /-- R128. -/
  | regionOverrun
  /-- R196. -/
  | pendingDataTrap
  /-- R134. -/
  | strandEvent
  /-- R119. -/
  | idleTimeout
  /-- R188. -/
  | awaitTimeout
  /-- R158. -/
  | scalarStationAccess
  /-- R158. -/
  | scalarRowReturn
  /-- R167. -/
  | remoteAccessArrival
  /-- R167. -/
  | remoteReply
  /-- R181. -/
  | barrierArrival
  /-- R183. -/
  | arriveOutcome
  /-- R174. -/
  | fenceComplete
  /-- R163. -/
  | xlatWalkDone
  /-- R91. -/
  | rdmeterDrainDone
  /-- R146. -/
  | strandStop
  /-- R109. -/
  | istoreFill
  /-- R95. -/
  | historyTransferDone
  /-- R102. -/
  | clockHandover
  /-- R98. -/
  | engineGate
  /-- R99. -/
  | engineWakeDone
  /-- R97. -/
  | lagoonHoldBegin
  /-- R97. -/
  | lagoonHoldEnd
  /-- R27. -/
  | railChange
  /-- R145. -/
  | realignRelease
  /-- R378. -/
  | dsyncRelease
  /-- R381. -/
  | xsendDepart
  /-- R381. -/
  | xrecvArrival
  /-- R382. -/
  | exchangeReceiveTimeout
  /-- R382. -/
  | exchangeFaultTaken
  /-- R243. -/
  | vldRowRead
  /-- R243. -/
  | vldDeposit
  /-- R243. -/
  | vstRowWrite
  /-- R264. -/
  | matrixActivationRead
  /-- R264. -/
  | matrixAccumulatorRead
  /-- R264. -/
  | matrixWeightCapture
  /-- R264. -/
  | weightLoadChange
  /-- R264. -/
  | matrixWriteback
  /-- R265. -/
  | matrixRetire
  /-- R289. -/
  | rotatorRowRead
  /-- R289. -/
  | rotatorRowWrite
  /-- R290. -/
  | rotatorQuietEvent
  /-- R289. -/
  | rotatorRetire
  /-- R308. -/
  | copyStart
  /-- R309. -/
  | copyBurst
  /-- R299. -/
  | copyRow
  /-- R359. -/
  | reefStreamRow
  /-- R168. -/
  | gmAccess
  /-- R363. -/
  | reefAtomic
  /-- R361. -/
  | nmcReefCheck
  /-- R361. -/
  | nmcRowUpdate
  /-- R365. -/
  | accessCounterNotify
  /-- R353. -/
  | patrolScrub
  /-- R348. -/
  | refreshInterval
  /-- R348. -/
  | layerTempSample
  /-- R350. -/
  | scriptWord
  /-- R350. -/
  | dynWindowEnd
  /-- R347. -/
  | channelFail
  /-- R317. -/
  | straitFrameReceive
  /-- R317. -/
  | replayRequest
  /-- R318. -/
  | rclkLockLoss
  /-- R328. -/
  | tileHeaderArrival
  /-- R324. -/
  | planeLanded
  /-- R326. -/
  | relayPlaneSend
  /-- R327. -/
  | cancelMessage
  /-- R327. -/
  | endMessage
  /-- R339. -/
  | linkCommandArrive
  /-- R166. -/
  | revokePage
  /-- R166. -/
  | revocationComplete
  /-- R394. -/
  | pasidTeardown
  /-- R29. -/
  | junctionTempReport
  /-- R384. -/
  | preemptRequest
  /-- R385. -/
  | drainComplete
  /-- R385. -/
  | ladderT1Expiry
  /-- R388. -/
  | saveComplete
  /-- R385. -/
  | ladderT2Expiry
  /-- R372. -/
  | schedulerPlace
  /-- R372. -/
  | blockerTimeout
  /-- R398. -/
  | placementClaim
  /-- R398. -/
  | claimWithdraw
  /-- R399. -/
  | memberReport
  /-- R398. -/
  | memberReportTimeout
  /-- R390. -/
  | launchEnd
  /-- R391. -/
  | strandFaultEnd
  /-- R405. -/
  | qtailDoorbell
  /-- R406. -/
  | nop
  /-- R406. -/
  | launch
  /-- R409. -/
  | launchResume
  /-- R407. -/
  | harvest
  /-- R407. -/
  | migdone
  /-- R408. -/
  | ccadd
  /-- R408. -/
  | ccdel
  /-- R404. -/
  | qcfgWrite
  /-- R411. -/
  | cheadWrite
  /-- R410. -/
  | qctlPreempt
  /-- R410. -/
  | qctlRelease
  /-- R410. -/
  | qctlGrant
  /-- R410. -/
  | qctlReenable
  /-- R401. -/
  | qmapWrite
  /-- R417. -/
  | devctlCold
  /-- R417. -/
  | devctlWarm
  /-- R417. -/
  | powerOn
  /-- R417. -/
  | startDone
  /-- R416. -/
  | fwupdGo
  /-- R416. -/
  | firmwareUpdateDone
  /-- R418. -/
  | dbgctlStop
  /-- R418. -/
  | dbgctlBrken
  /-- R418. -/
  | dbgctlResume
  /-- R418. -/
  | dbgdataRead
  /-- R418. -/
  | dbgdataWrite
  /-- R8. -/
  | readClear
  /-- R8. -/
  | registerWrite
  /-- R420. -/
  | ageUpdate
  /-- R414. -/
  | pairMismatch
  /-- R414. -/
  | workerFault
  /-- R424. -/
  | supplyFault
  /-- R416. -/
  | powerLoss
  /-- R25. -/
  | sparePortBind
  /-- R332. -/
  | planeSent
  /-- R393. -/
  | pageRequestResponse
  /-- R311. -/
  | atsTranslationResponse
  /-- R403. -/
  | hostLinkRetrain
  /-- R415. -/
  | spdmRequest
  /-- R415. -/
  | tdispRequest
  /-- R358. -/
  | graphImageLoad
  /-- R397. -/
  | memberLoad
  /-- R415. -/
  | memoryAssignment
  /-- R400. -/
  | pasidAssignment
  /-- R347. -/
  | retirementRecordWrite
deriving DecidableEq, Repr

/-- A syllable as the bundle holds it: its guard and its instruction.  A class without guards has g = 0 (R39). -/
structure Syl where
  g : Prd
  i : Instr
deriving DecidableEq, Repr

end Sys2Proof
end

