-- ==== Sys2Proof/Machine/State.lean ====
section
/-! DEFINITION. The state of one package: every register, memory, queue and table the manual gives it, and the
agenda of the steps that its rules have scheduled.  Time is counted in ticks of RCLK (R6, R19). -/

namespace Sys2Proof.Machine

/-! ## What the steps act on -/

/-- Where a scalar result lands: nowhere, a scalar, a scalar by XOR (R240), a predicate, a handle, or a system
register written by an instruction that issued at tick `t` (R120); or the history depth, a ring register, published
rows, a format word or RTM (R94, R254 to R256, R286). -/
inductive Dst where
  | none | s (r : Reg) | sx (r : Reg) | p (r : Prd) | h (r : HReg) | sys (r : SysReg) (t : Nat) | depth (up : Bool)
  | ring (x : Ring) | tail (x : Ring) | fq | rtm
deriving DecidableEq, Repr

/-- The update of an atomic (R177); `cas` carries the comparand. -/
inductive AmoOp where
  | add | xor | min | max | swp | cas (c : Word)
deriving DecidableEq, Repr

/-- What an access does at its word.  An arrival carries its phase, whether an engine makes it, and the
engine's completion code (R181); a test or a wait carries the phase of its address (R184, R185). -/
inductive AccOp where
  | read | write (v : Word) | amo (k : AmoOp) (v : Word) | wait (ph : Bool)
  | arrive (ph engine : Bool) (code : Nat)
  | test (ph : Bool)
deriving DecidableEq, Repr

/-- An access to one word of a scratchpad (`byte` is its byte address) for atoll `src`: its effect,
destination, charge, ordering class and scope (R54). -/
structure Acc where
  op : AccOp
  byte : Nat
  dst : Dst
  chg : Nat
  cls : BitVec 4
  src : Nat
  lv : BitVec 3
deriving DecidableEq, Repr

/-- An access to one word of device or host memory for the strand of atoll `src`; `frame` is the handle's FRAME
(R162, R166). -/
structure GAcc where
  host : Bool
  byte : Nat
  op : AccOp
  dst : Dst
  chg : Nat
  cls : BitVec 4
  src : Nat
  frame : Nat
  lv : BitVec 3
deriving DecidableEq, Repr

/-- One write into the registers of VX: XOR, overwrite of the bits of `part`, add or subtract by elements of `w`
bits, exchange of the bits of `part`, and the two writes of a mask (R217, R218, R223, R225). -/
inductive VPut where
  | xor (d : Nat) (x : Row) | ovr (d : Nat) (part x : Row) | add (d w : Nat) (x : Row) | sub (d w : Nat) (x : Row)
  | swap (d a : Nat) (part : Row) | mxor (d : MReg) (x : BitVec 128) | movr (d : MReg) (x : BitVec 128)
deriving DecidableEq, Repr

/-- Where a row that a station reads for VX goes: into a register by XOR or over it, into the latch of a gather, or
into a clean register with its own row cleared (R94, R242, R244). -/
inductive VDest where
  | xor | ovr | gather (id : Nat) | pop
deriving DecidableEq, Repr

/-- The key of an exchange: sender, receiver, level and offset (R379); atolls by package-local number, or
1000 + an index of the environment for one outside the package. -/
structure XKey where
  snd : Nat
  rcv : Nat
  lvl : Nat
  t : Nat
deriving DecidableEq, Repr

/-- What a strait carries between this package and another: an access and its reply, rows and words of copies, tile headers,
rows of planes, acknowledgements, cancels, ends and refusals, exchange rows, the front ends' own messages, and the acknowledgement of
frames (R315, R317, R320, R327, R328, R381, R397). -/
inductive Msg where
  | access (dst : Nat) (x : Acc)
  | reply (dst : Nat) (d : Dst) (v : Word) (chg byte : Nat) (arr : Bool)
  | copyRow (dst row : Nat) (v mask : Row) (xor : Bool) (id : Nat)
  | copied (dst row id erased : Nat)
  | header (dst tile src stile : Nat) (row : Row)
  | plane (dst tile src stile p k : Nat) (row : Row)
  | ack (dst tile : Nat)
  | cancel (dst tile : Nat)
  | endStream (dst tile src stile : Nat)
  | row (dst : Nat) (k : XKey) (r : Row)
  | refusal (dst amount : Nat)
  | frontEnd (pkg : Nat) (n : List Nat)
  | acked (vc seq : Nat)
deriving DecidableEq, Repr

/-- A message as a strait carries it: with the global name of the atoll that sends it, which with the receiver's gives the pair hash
at every package on the way (R315, R316). -/
structure Frame where
  src : Nat
  m : Msg
deriving DecidableEq, Repr

/-- What a step acts on, beside the step itself. -/
inductive Arg where
  | none
  | restart (cap : Word) (t : Nat)
  | land (d : Dst) (v : Word)
  | puts (l : List VPut) (chg : Nat) (flag : Option Nat)
  | acc (x : Acc)
  | gacc (x : GAcc)
  | reply (d : Dst) (v : Word) (flag : Option Nat) (chg : Nat)
  | outcome (ovr : Bool) (info : Nat)
  | fence (mask : BitVec 16) (seq : Nat)
  | walk (h : HReg) (va : Word)
  | drain (d : Reg) (bal : Bool)
  | vread (row d : Nat) (k : VDest) (lim chg clr : Nat)
  | vfill (id d w : Nat) (sel : Row) (ovr : Bool) (chg : Nat)
  | vwrite (row : Nat) (v : Row) (ovr : Bool) (chg : Nat)
  | hist (refill : Bool) (row byte frame : Nat) (r : Row)
  | spill (row byte frame : Nat)
  | refill (row : Nat) (v : Row)
  | accTo (k : Nat) (x : Acc)
  | clock (dom n : Nat) (d : Reg)
  | key (k : XKey)
  | keyRow (k : XKey) (r : Row)
  | rows (l : List Row) (t p src stile : Nat)
  | msg (port vc seq : Nat) (ok : Bool) (f : Frame)
  | hdr (tile src stile : Nat) (r : Row)
  | packet (q tag : Nat) (w : List Word)
  | n (a : Nat)
  | n2 (a b : Nat)
  | n3 (a b c : Nat)
  | n4 (a b c d : Nat)
  | nb (a : Nat) (b : Bool)
  | nw (a : Nat) (v : Word)
  | list (a : Nat) (l : List Nat)
  | words (a b : Nat) (l : List Word)
  | page (root va : Nat) (ok : Bool) (frame attr : Nat)
deriving DecidableEq, Repr

/-- The unit whose pipeline a scheduled step belongs to; the freeze line stops all but `none` (R132). -/
inductive Dom where
  | core | vx | mx | rt | ring | none
deriving DecidableEq, Repr

/-- A step on the agenda: its tick, its place within the tick (0 reads, 1 row and cell writes, 2 register
landings, 3 outcomes, 4 deferred starts, 5 issue, 6 the rest), the bundle that caused it, its atoll and unit. -/
structure Ev where
  tick : Nat
  phase : Nat
  seq : Nat
  atoll : Nat
  dom : Dom
  i : Instr
  arg : Arg
deriving DecidableEq, Repr

/-! ## One atoll -/

/-- The clock divisors of an atoll (R19). -/
structure Divs where
  core : Nat
  vx : Nat
  mx : Nat
  rt : Nat
  ring : Nat
  copy : Nat
deriving DecidableEq, Repr

/-- An open timed region: ATC at rgn, its length, and SBMODE.LT as rgn took it (R121, R126). -/
structure Rgn where
  atc0 : Word
  n : Nat
  lt : Bool
deriving DecidableEq, Repr

/-- Why a strand runs or does not (R136, R89, R143, R146). -/
inductive Run where
  | off | run | halting | halted | fault (code : Nat) | quota | saved
deriving DecidableEq, Repr

/-- What a running strand waits for with its bundle issued or held (R119, R145, R174, R183, R184, R188, R337, R378, R91). -/
inductive Wait where
  | none | idle (token : Nat) | await (token : Nat) (d : Reg) (byte : Nat) | outcome | drain | reply
  | realign | dsync (lvl : Nat) (d : Reg) | lwprec (d : Reg) (tile n : Nat) | bwait (byte : Nat) (ph : Bool) | history | clock (t : Nat) | pager | stopped
deriving DecidableEq, Repr

/-- A monitor entry: the byte address of its word and the comparand (R187). -/
structure Mon where
  byte : Nat
  cmp : Word
deriving DecidableEq, Repr

/-- A trap put off by a quota stop, taken on resume (R136). -/
structure Held where
  cause : Nat
  ab : Bool
  info : Word
deriving DecidableEq, Repr

/-- The strand and its control core: the registers of R105 to R125, and what it waits for (`wait`, and `more` of the same bundle), the class of
each bundle's accesses by the vector engine (`vk`), the line of the instruction store that its bundle waits for (`miss`), the tick at
which the freeze line was last to drop (`iced`), and its accesses under way in other packages with their atolls (`ext`). -/
structure Strand where
  run : Run
  wait : Wait
  more : List Wait
  regs : Vector Word 64
  preds : BitVec 16
  hs : Vector Word 32
  lc : Word
  aclass : Word
  sbmode : Word
  bal : Int
  quota : Nat
  due : List (Nat × Nat)
  lastCh : Nat × Nat
  tvec : Word
  qsw : Word
  domain : Word
  gtcOff : BitVec 64
  atc : Word
  atcAt : Nat
  laglvl : Word
  lagHold : Bool
  idlemx : Word
  grBase : Word
  grRows : Word
  hovf : Word
  trpc : Word
  trcause : Word
  trinfo : Word
  pc : Nat
  bpc : Nat
  npc : Nat
  ready : Nat
  pos : Nat
  pfx : Option PfxOp
  held : Option Held
  wake : Bool
  token : Nat
  rgn : Option Rgn
  dflag : Option Nat
  dflagAt : Nat
  evReq : Bool
  xfault : Option Nat
  xlost : Option Nat
  fences : List (BitVec 16 × Nat)
  vk : List (Nat × BitVec 4)
  walked : Option (Option Word)
  miss : Option Nat
  iced : Nat
  ext : List (Nat × Acc)
  realigned : Bool
  pend : Nat
  phaseTick : Vector (Option Nat) 8
  mons : List (Option Mon)
  codeLo : Nat
  codeHi : Nat
  istore : List (Nat × Row)
  pinned : List (Nat × Row)
deriving DecidableEq, Repr

/-- Idle gating of an engine (R98 to R100). -/
inductive Gate where
  | awake | waking (t : Nat) | gated
deriving DecidableEq, Repr

/-- An engine's gating state, the tick since which it is idle, the idle core cycles counted before that tick under other core
divisors, and the mark of gate: `some true` when a gate of the open region made it (R98, R100). -/
structure GateSt where
  g : Gate
  since : Nat
  cnt : Nat
  mark : Option Bool
deriving DecidableEq, Repr

/-- The commands of the matrix array that run for a time (R258 to R261). -/
inductive MKind where
  | wld | macr | masr | mul | fma | clr
deriving DecidableEq, Repr

/-- A matrix command in flight: its number, format word, accumulator row, claim, ramp, its start S, the delays that collisions
put before its offsets, the rows read and computed for its vectors, and what it is to be charged and to flag, with the tick (R251,
R258 to R267). -/
structure MJob where
  id : Nat
  kind : MKind
  start : Nat
  word : Word
  base : Nat
  ring : Ring
  first : Nat
  rows : Nat
  ramp : Nat
  delays : List (Nat × Nat)
  acts : List (Nat × Row)
  accs : List (Nat × Row)
  outs : List (Nat × List Row)
  chg : Nat
  flag : Option (Nat × Nat)
deriving DecidableEq, Repr

/-- The commands of the rotator array (R281 to R286). -/
inductive RKind where
  | qr | apl | invQr | invApl | solve | rd | wr | gainSet | gainRead | clr
deriving DecidableEq, Repr

/-- A block of a rotator command on its way through the levels: its number, the row that runs through the cells, the angle word of each
level as it is made or read, and the visits to cells that it has made (R278, R281 to R283, R289). -/
structure RBlk where
  k : Nat
  z : List Int
  ang : List Nat
  seen : List (Nat × Nat)
deriving DecidableEq, Repr

/-- A rotator command in flight: P (or n), C (or c), m, the base row (or i0 above it), its claims, ramp, its start S, delays, the rows
read, the blocks in the array, the rows to be written, and what it is to be charged and to flag, with the tick (R280 to R292). -/
structure RJob where
  id : Nat
  kind : RKind
  start : Int
  p : Nat
  c : Nat
  m : Nat
  base : Nat
  i0 : Nat
  xring : Ring
  xfirst : Nat
  xrows : Nat
  yring : Ring
  yfirst : Nat
  yrows : Nat
  rtm : Word
  ramp : Nat
  delays : List (Nat × Nat)
  got : List (Nat × Row)
  blks : List RBlk
  outs : List (Nat × List Row)
  chg : Nat
  flag : Option (Nat × Nat)
deriving DecidableEq, Repr

/-- An operand of a copy: space code, atoll and byte of a scratchpad, or frame and byte in the page of a handle with its
PASIDX (R296, R298). -/
structure CArea where
  sp : Nat
  atoll : Nat
  byte : Nat
  frame : Nat
  pasid : Nat
deriving DecidableEq, Repr

/-- The commands of class 0xA (R296). -/
inductive CKind where
  | cpy | cpyx | pack | unpack | cpyg | cpys | cpyz | cpyv | ppcmp
deriving DecidableEq, Repr

/-- How a row is written: whole; only its masked part, which a poisoned row discards; the part up to a stop; the part that follows a
stop; or only moved and charged (R312, R354, R435). -/
inductive CHow where
  | whole | part | stop | resumed | moved
deriving DecidableEq, Repr

/-- A row write of a command that has still to perform: to the second area or to the destination, its row, value, mask, whether by XOR,
whether it draws on poison, and its kind (R299 to R306, R435). -/
structure CWr where
  ext : Bool
  row : Nat
  v : Row
  mask : Row
  xor : Bool
  bad : Bool
  how : CHow
deriving DecidableEq, Repr

/-- A copy command in the queue: its class and scope, operands, row count, barrier, types, flag or granule or slot, whether it runs, the
rows or blocks done, the rows read for the outputs in hand by their places, the writes to perform, the writes in other packages not
yet acknowledged, the first completion code, whether it is to stop, and the words of its entry: syllable, prefix and register values
(R296, R307 to R312, R419). -/
structure CCmd where
  id : Nat
  kind : CKind
  cls : BitVec 4
  lv : BitVec 3
  dst : CArea
  src : CArea
  ext : CArea
  n : Nat
  bar : Nat
  barAt : Nat
  ph : Bool
  x : BitVec 4
  y : BitVec 4
  z : BitVec 4
  f : Nat
  started : Bool
  done : Nat
  got : List (Nat × Row × Bool)
  todo : List CWr
  out : Nat
  code : Nat
  stop : Bool
  w : List Word
deriving DecidableEq, Repr

/-- The commands of the link engine's queue (R332 to R334, R360). -/
inductive LKind where
  | send | recv | relay | nmc
deriving DecidableEq, Repr

/-- A link or near-memory command: tile and tile at the receiver, receiving atoll, buffer and operand rows, barrier, planes or
rows, modes, what it has done and its code; for nmc its frame, first row, end of page, parameter word and slot (R330 to
R340, R360 to R362). -/
structure LCmd where
  id : Nat
  kind : LKind
  cls : BitVec 4
  lv : BitVec 3
  tile : Nat
  u : Nat
  peer : Nat
  buf : Nat
  opnd : Nat
  bar : Nat
  barAt : Nat
  ph : Bool
  p : Nat
  fill : Bool
  s2 : Bool
  loc : Bool
  fwd : Bool
  started : Bool
  hdr : Bool
  sent : Nat
  acked : Bool
  code : Nat
  stop : Bool
  frame : Nat
  row : Nat
  lim : Nat
  pw : Word
  slot : Nat
  w : List Word
deriving DecidableEq, Repr

/-- A stream arriving on a tile: its source and the tile there, header row, planes accounted for, the planes that a relay or a
midpoint fill keeps, whether it has ended here, and whether its header was refused (R324 to R328). -/
structure Stream where
  tile : Nat
  src : Nat
  stile : Nat
  hdr : Row
  p : Nat
  planes : List (List Row)
  ended : Bool
  refused : Bool
deriving DecidableEq, Repr

/-- An exchange entry: a send with its row, or a posted receive with its barrier; the row address, the strand's phase tick,
and the words of the entry (R379, R380, R419). -/
structure XEnt where
  id : Nat
  key : XKey
  phase : Nat
  row : Row
  dst : Nat
  bar : Nat
  barAt : Nat
  ph : Bool
  w : List Word
deriving DecidableEq, Repr

/-- One atoll: the strand, the engines, the scratchpad and the tables of its stations (R15 to R18).  `idleAt` holds the idle cycle of each
clock's last alternate hand-over, `res` and `ures` what the strand and the engines have reserved on lanes and ports, `freed` the claims given
up in this core cycle, `parts` the rows that have come of planes not yet whole, `arriving` the engine arrivals that a halt waits for. -/
structure Atoll where
  n : Nat
  slot : Nat
  st : Strand
  div : Divs
  hand : List Nat
  idleAt : Divs
  gvx : GateSt
  gmx : GateSt
  grt : GateSt
  gcp : GateSt
  res : List (Nat × Nat)
  burst : List (Nat × Nat × Nat × Nat)
  ures : List (Nat × Nat)
  sp : Mem
  v : SMap 1024
  masks : Vector (BitVec 128) 16
  vbusy : Nat
  latch : List (Nat × Row)
  weights : SMap 2048
  exps : SMap 128
  shape : Option Word
  rings : Vector Word 16
  freed : List (Ring × Nat)
  fq : List (Option Nat × Word)
  mbusy : Nat
  mjobs : List MJob
  cells : SMap 48
  rtm : Word
  rbusy : Nat
  rjobs : List RJob
  cq : List CCmd
  lq : List LCmd
  ctr : SMap 64
  ins : List Stream
  parts : List (Nat × Nat × Nat × List Row)
  held : List Stream
  refuse : List Nat
  xs : List XEnt
  xr : List XEnt
  arriving : List (Nat × Nat)
deriving DecidableEq, Repr

/-! ## Device memory, the front end and the rest -/

/-- A page mapping of a launch (R163). -/
structure PageMap where
  va : Nat
  big : Bool
  space : Nat
  wr : Bool
  cc : Bool
  pasidx : Nat
  frame : Nat
deriving DecidableEq, Repr

/-- A launch the front end holds: its number, slot, queue, sequence number and TAG, the home front end when it is another
package's, its 32 descriptor words and meter array, its rectangle and its atolls of this package, graph images, BRKEN,
whether it was imported and whether it is saved, PCOUNT, the ladder's rung and reason, since when it waits and has not fitted, the last origin tried,
the other packages with the stage each has reported, what the save area has no place for, the strands of other packages that have stopped, and the fault to report (R368 to
R399, R409). -/
structure Launch where
  id : Nat
  slot : Nat
  q : Nat
  seqn : Nat
  tag : Nat
  home : Option Nat
  desc : List Word
  meter : Nat
  gx : Nat
  gy : Nat
  w : Nat
  h : Nat
  atolls : List Nat
  graphs : List (Nat × List Word)
  brken : Bool
  imported : Bool
  saved : Bool
  pcount : Nat
  rung : Nat
  reason : Nat
  since : Nat
  unfit : Option Nat
  tried : Option (Nat × Nat)
  members : List (Nat × Nat)
  meters : List (Nat × Nat)
  kept : List Atoll
  gone : List (Nat × Nat)
  fault : Nat × List Word
deriving DecidableEq, Repr

/-- A bank as a scripted controller checks it: its open DRAM row, and the channel clocks of its last ACT, RD, WR and PRE
(R345, R351). -/
structure Bank' where
  row : Option Nat
  act : Option Nat
  rd : Option Nat
  wr : Option Nat
  pre : Option Nat
deriving DecidableEq, Repr

/-- A channel controller: its global channel, STATE, owner, error counts, refresh debts and last REF of its layers, its copy of
GTC as an offset from the reference count, its script with start tick and next word, whether it runs, the slot that
the present word opens, and whether a DYN window is open (R346 to R352). -/
structure Chan where
  c : Nat
  state : Nat
  owner : Nat
  ue : Nat
  ce : Nat
  debts : List Int
  refs : List (Option Nat)
  gtcOff : Word
  script : List Word
  start : Nat
  wi : Nat
  running : Bool
  banks : List Bank'
  acts : List Nat
  slot : Option (Bool × Nat × Nat)
  slotAt : Nat
  dyn : Bool
deriving DecidableEq, Repr

/-- Device memory and its controllers: contents, poisoned rows, rows with an error not yet found (true: uncorrectable), LIVEMAP, the channels, the refresh intervals of the layers,
dirty pages, access counters, the table of compute-capable pages and the channels to retire (R344 to R365, R408). -/
structure Dev where
  mem : Mem
  poison : List Nat
  errs : List (Nat × Bool)
  live : List Nat
  chans : List Chan
  temps : SMap 16
  dirty : List Nat
  acc : SMap 8
  cctab : List Nat
  retire : List Nat
deriving DecidableEq, Repr

/-- A strait port: whether it is in service, its direction group (0 west, 1 north, 2 south, 3 east), the next sequence number in
each direction for each VC, the VCs whose replay it has asked for, the frames sent and not yet acknowledged, those that wait for room
among these, the frame of each VC that replays have failed for with their number,
and its GTC as an offset from the reference count (R25, R125, R315 to R318). -/
structure Port where
  n : Nat
  up : Bool
  grp : Nat
  rx : List Nat
  tx : List Nat
  asked : List Nat
  kept : List (Nat × Nat × Frame)
  wait : List (Nat × Frame)
  fails : List (Nat × Nat × Nat)
  gtcOff : Word
deriving DecidableEq, Repr

/-- A host work queue: its function and a pending assignment, the registers of its page, the recorded doorbell, the next slots,
the lap of its completion ring, ERR, STATE, QSW, the next sequence number, whether a packet is in hand, a completion
entry held for want of room, and the reason of a request held while the launch is placed (R370, R401, R404, R405, R410, R411). -/
structure Queue where
  q : Nat
  func : Nat
  pend : Option Nat
  qbase : Word
  cbase : Word
  qcfg : Word
  t1 : Nat
  t2 : Nat
  tail : Nat
  head : Nat
  chead : Nat
  ctail : Nat
  lap : Bool
  err : Bool
  state : Nat
  qsw : Word
  grant : Nat
  seqn : Nat
  busy : Bool
  heldc : Option (List Word)
  preempt : Option Nat
deriving DecidableEq, Repr

/-- The firmware: the words of DEVSTAT, the state of the firmware image and its update, and the tick of the last mismatch of the
scheduler pair (R403, R414 to R417). -/
structure Firm where
  ready : Bool
  fatal : Bool
  recov : Bool
  warm : Bool
  links : List Nat
  roll : Nat
  image : Option Nat
  staged : Option Nat
  addr : Nat
  err : Bool
  done : Bool
  busy : Bool
  mismatch : Option Nat
deriving DecidableEq, Repr

/-- The front end: package coordinates and the size of the package mesh, launches, rails and junction temperatures, ACTHR, ports and measured crossing bounds,
queues, ended launches with their status, the blocker, page tables by root, the assignments of PASIDs and memory, the
interfaces in RUN, the firmware, ageing, the event log, the notification queue with its queued pages, the debug window, and the
frames under revocation (R12, R25, R27, R29, R163, R365, R368 to R424). -/
structure Fe where
  px : Nat
  py : Nat
  mesh : Nat × Nat
  launches : List Launch
  rail : Nat × Nat
  temp : Nat × Nat
  acthr : Nat
  ports : List Port
  cross : List Nat
  queues : List Queue
  ended : List (Nat × Nat × Nat)
  blocker : Option Nat
  tables : List (Nat × List PageMap)
  pasids : List (Nat × Nat)
  memFn : List (Nat × Nat × Nat)
  tdi : List Nat
  firm : Firm
  agethr : Nat
  ages : List Word
  evlog : SMap 64
  evhead : Nat
  evtail : Nat
  evlost : Nat
  nqbase : Nat
  nqhead : Nat
  nqtail : Nat
  nqlost : Nat
  nqovf : Bool
  nqvec : Nat
  queued : List Nat
  dbgaddr : Word
  brkn : Nat
  revoking : List Nat
deriving DecidableEq, Repr

/-- A message that leaves the package (R315, R393, R397, R411, R412, R415). -/
structure Out where
  kind : Nat
  data : List Nat
  msg : Option Frame
deriving DecidableEq, Repr

/-- The package; `links` holds the mesh cycles that flits have taken on the links between atolls (R13). -/
structure State where
  now : Nat
  a : Atoll
  others : List Atoll
  dev : Dev
  fe : Fe
  host : Mem
  links : List (Nat × Nat)
  out : List Out
  agenda : List Ev
  free : Nat
  seq : Nat
  ev : Ev
  issueQ : List (Option Syl)
deriving DecidableEq, Repr

/-- A step stops with a fault: no rule of the manual asks for one, so no meaning raises it.  Safe. -/
inductive Fault where
  /-- raised by nothing; a machine of this manual never stops this way.  Safe. -/
  | stuck
deriving DecidableEq, Repr

/-- Why an instruction has no meaning.  Safe: the model stops. -/
inductive Refusal where
  /-- raised only by an arm of `exec` whose instruction has no meaning yet.  Safe. -/
  | notModelled (mnemonic : String)
deriving DecidableEq, Repr

/-! ## The state after reset: a cold start in progress (R417) -/

/-- A gating state: awake and idle since tick 0 (log 12). -/
def GateSt.init : GateSt := ⟨.awake, 0, 0, none⟩

/-- The strand registers after a cold start (R57, R84, R92 to R98, R105, R120 to R140; log 9, 10, 11). -/
def Strand.init : Strand :=
  { run := .off, wait := .none, more := [], regs := Vector.replicate 64 0, preds := 1, hs := Vector.replicate 32 0, lc := 0
    aclass := 0x70000, sbmode := 0, bal := 0, quota := 0, due := [], lastCh := (0, 0), tvec := 0, qsw := 0, domain := 0
    gtcOff := 0, atc := 0, atcAt := 0, laglvl := 0x01CC01F4, lagHold := false, idlemx := 0x10101010, grBase := 0
    grRows := 0, hovf := 0, trpc := 0, trcause := 0, trinfo := 0, pc := 0, bpc := 0, npc := 0, ready := 0, pos := 0, pfx := none
    held := none, wake := false, token := 0, rgn := none, dflag := none, dflagAt := 0, evReq := false, xfault := none, xlost := none
    fences := [], vk := [], walked := none, miss := none, iced := 0, ext := [], realigned := false, pend := 0, phaseTick := Vector.replicate 8 none, mons := List.replicate 16 none
    codeLo := 0, codeHi := 0, istore := [], pinned := [] }

/-- Atoll `n` after a cold start, its divisors 4 at a rail of 500 mV (R19, R20). -/
def Atoll.init (n : Nat) : Atoll :=
  { n := n, slot := 0, st := Strand.init, div := ⟨4, 4, 4, 4, 4, 4⟩, hand := [], idleAt := ⟨0, 0, 0, 0, 0, 0⟩, gvx := GateSt.init
    gmx := GateSt.init, grt := GateSt.init, gcp := GateSt.init, res := [], burst := [], ures := [], sp := [], v := []
    masks := Vector.replicate 16 0, vbusy := 0, latch := [], weights := [], exps := [], shape := none
    rings := Vector.replicate 16 0, freed := [], fq := [], mbusy := 0, mjobs := [], cells := []
    rtm := 0x118, rbusy := 0, rjobs := [], cq := [], lq := [], ctr := [], ins := [], parts := [], held := [], refuse := []
    xs := [], xr := [], arriving := [] }

/-- The step in hand when none is. -/
def Ev.init : Ev := ⟨0, 6, 0, 0, .none, .nop, .none⟩

/-- The strait ports: two of them are spares that carry nothing until they are bound (R25). -/
def Port.all : List Port :=
  (List.range 18).map fun n =>
    { n := n, up := n != 8 && n != 17
      grp := if n < 4 then 0 else if n < 6 then 1 else if n < 8 then 2 else if n = 8 then 0 else if n < 13 then 3
        else if n < 15 then 1 else if n < 17 then 2 else 3
      rx := List.replicate 8 0, tx := List.replicate 8 0, asked := [], kept := [], wait := [], fails := [], gtcOff := 0 }

/-- A queue after a cold start (R370, R386, R403, R404; log 13). -/
def Queue.init (q : Nat) : Queue :=
  { q := q, func := 0, pend := none, qbase := 0, cbase := 0, qcfg := 0x404, t1 := 200, t2 := 50, tail := 0, head := 0, chead := 0
    ctail := 0, lap := true, err := false, state := 9, qsw := 0, grant := 0, seqn := 0, busy := false, heldc := none
    preempt := none }

/-- The firmware after a cold start begins (R403; log 15). -/
def Firm.init : Firm :=
  { ready := false, fatal := false, recov := false, warm := false, links := [0, 0, 0, 0], roll := 0, image := some 0
    staged := none, addr := 0, err := false, done := false, busy := false, mismatch := none }

/-- The front end after a cold start begins: rails at 500 mV, junctions at 40 °C, no launch, no queue enabled (R403, R417, R420,
R423; log 14). -/
def Fe.init : Fe :=
  { px := 0, py := 0, mesh := (1, 1), launches := [], rail := (500, 500), temp := (40, 40), acthr := 128, ports := Port.all, cross := [0, 0, 0, 0]
    queues := [], ended := [], blocker := none, tables := [], pasids := [], memFn := [], tdi := [], firm := Firm.init
    agethr := 8760, ages := List.replicate 10 0xFFFFFFFF, evlog := [], evhead := 0, evtail := 0, evlost := 0, nqbase := 0
    nqhead := 0, nqtail := 0, nqlost := 0, nqovf := false, nqvec := 0, queued := [], dbgaddr := 0, brkn := 0, revoking := [] }

/-- Channel c after a start: live and in dynamic mode (R346, R349). -/
def Chan.init (c : Nat) : Chan :=
  { c := c, state := 0, owner := 0, ue := 0, ce := 0, debts := List.replicate 16 0, refs := List.replicate 16 none
    gtcOff := 0, script := [], start := 0, wi := 0, running := false, banks := List.replicate 32 ⟨none, none, none, none, none⟩
    acts := [], slot := none, slotAt := 0, dyn := false }

/-- Device memory after a cold start: every channel live, every row zero (R346, R417). -/
def Dev.init : Dev :=
  { mem := [], poison := [], errs := [], live := List.range 256, chans := (List.range 256).map Chan.init, temps := [], dirty := []
    acc := [], cctab := [], retire := [] }

/-- The machine right after a cold start begins: every atoll cleared, nothing on the agenda but the end of the
start sequence (R417). -/
def State.reset : State :=
  { now := 0, a := Atoll.init 0, others := (List.range 159).map (fun k => Atoll.init (k + 1)), dev := Dev.init
    fe := Fe.init, host := [], links := [], out := [], agenda := [⟨0, 6, 0, 0, .none, .startDone, .none⟩]
    free := 0, seq := 0, ev := Ev.init, issueQ := [] }

end Sys2Proof.Machine
end

