-- ==== Sys2Proof/Machine/Ops.lean ====
section
/-! DEFINITION. The named operations over the state: clocks and the agenda, registers, system registers, charges,
traps and the return from one, the station ports and lanes, and the handles and addresses of memory. -/

namespace Sys2Proof.Machine

/-- What a step answers. -/
abbrev Res := Host.Outcome State Fault Refusal

/-! ## Clocks and the agenda -/

/-- The first edge at or after tick `t` of a clock of divisor `d`: a multiple of `d` (R19). -/
def edgeAt (d t : Nat) : Nat := (t + d - 1) / d * d

def State.updA (s : State) (f : Atoll → Atoll) : State := { s with a := f s.a }

def State.updSt (s : State) (f : Strand → Strand) : State := { s with a := { s.a with st := f s.a.st } }

/-- The divisor, or another number, of domain d: 0 core, 1 vx, 2 mx, 3 rt, 4 ring, 5 cp (R101). -/
def Divs.get (d : Divs) (k : Nat) : Nat :=
  match k with
  | 0 => d.core
  | 1 => d.vx
  | 2 => d.mx
  | 3 => d.rt
  | 4 => d.ring
  | _ => d.copy

def Divs.set (d : Divs) (k n : Nat) : Divs :=
  match k with
  | 0 => { d with core := n }
  | 1 => { d with vx := n }
  | 2 => { d with mx := n }
  | 3 => { d with rt := n }
  | 4 => { d with ring := n }
  | _ => { d with copy := n }

/-- The first edge at or after tick `t` at which domain k of the atoll does work: after a hand-over in the alternate mode the new
clock does none for its first cycle (R19, R102). -/
def Atoll.edge (a : Atoll) (k t : Nat) : Nat :=
  let e := edgeAt (a.div.get k) t
  if e = a.idleAt.get k ∧ e ≠ 0 then e + a.div.get k else e

/-- The tick of the k-th core cycle from now (R110). -/
def State.coreT (s : State) (k : Nat) : Nat := s.a.edge 0 s.now + k * s.a.div.core

/-- The first ring edge at or after now: the T of R158. -/
def State.ringT (s : State) : Nat := s.a.edge 4 s.now

/-- The first vector edge at or after now: the S of R214. -/
def State.vxS (s : State) : Nat := s.a.edge 1 s.now

/-- `x` stands before `y`, or neither before the other: by tick, place in the tick, then issuing bundle. -/
def Ev.before (x y : Ev) : Bool :=
  decide (x.tick < y.tick) ||
    (x.tick == y.tick && (decide (x.phase < y.phase) || (x.phase == y.phase && decide (x.seq ≤ y.seq))))

/-- A step put on the agenda behind those that stand before it. -/
def insertEv (e : Ev) : List Ev → List Ev
  | [] => [e]
  | y :: r => if y.before e then y :: insertEv e r else e :: y :: r

/-- The first core edge after now: when an arrival at CC takes effect (R158). -/
def State.coreAfter (s : State) : Nat := s.a.edge 0 (s.now + 1)

/-- Schedules a step for atoll `k`, on behalf of the bundle or step in hand. -/
def State.schedAt (s : State) (k tick phase : Nat) (dom : Dom) (i : Instr) (arg : Arg) : State :=
  { s with agenda := insertEv ⟨tick, phase, s.ev.seq, k, dom, i, arg⟩ s.agenda }

/-- Schedules a step for the atoll in focus. -/
def State.sched (s : State) (tick phase : Nat) (dom : Dom) (i : Instr) (arg : Arg) : State :=
  s.schedAt s.a.n tick phase dom i arg

/-- Removes the steps that `f` picks. -/
def State.unsched (s : State) (f : Ev → Bool) : State := { s with agenda := s.agenda.filter (fun e => !f e) }

/-- A nominal time, in ticks from now, and the state with the draw used (R2, log 1). -/
def State.draw (s : State) : Nat × State := (Config.nominal s.free, { s with free := s.free + 1 })

/-- Schedules a step after a nominal time (log 1). -/
def State.later (s : State) (k : Nat) (i : Instr) (arg : Arg) : State :=
  { s with free := s.free + 1
           agenda := insertEv ⟨s.now + Config.nominal s.free, 6, s.ev.seq, k, .none, i, arg⟩ s.agenda }

/-- Schedules a step no sooner than m ticks from now, and after a nominal time beyond them (R13, log 1). -/
def State.laterBy (s : State) (m k : Nat) (i : Instr) (arg : Arg) : State :=
  { s with free := s.free + 1
           agenda := insertEv ⟨s.now + m + Config.nominal s.free, 6, s.ev.seq, k, .none, i, arg⟩ s.agenda }

/-- Removes the next issue of atoll `k`; the look of an open region stays (R131). -/
def State.noFetchOf (s : State) (k : Nat) : State :=
  s.unsched (fun e => e.i == .bundleFetch && e.atoll == k && e.arg == .none)

/-- The strand issues its next bundle at tick `t`, and at no other time (R110). -/
def State.fetchAt (s : State) (t : Nat) : State :=
  (s.noFetchOf s.a.n).sched t 5 .core .bundleFetch .none

/-! ## Atolls -/

def insertAtoll (x : Atoll) : List Atoll → List Atoll
  | [] => [x]
  | y :: r => if x.n < y.n then x :: y :: r else y :: insertAtoll x r

/-- The state with atoll `k` in focus (log 4). -/
def State.focus (s : State) (k : Nat) : State :=
  if s.a.n = k then s
  else match s.others.find? (fun b => b.n == k) with
    | some b => { s with a := b, others := insertAtoll s.a (s.others.filter (fun b => b.n != k)) }
    | none => s

/-- Atoll `k`, wherever it stands. -/
def State.atoll (s : State) (k : Nat) : Option Atoll :=
  if s.a.n = k then some s.a else s.others.find? (fun b => b.n == k)

/-- Changes atoll `k`, wherever it stands. -/
def State.updAtoll (s : State) (k : Nat) (f : Atoll → Atoll) : State :=
  if s.a.n = k then { s with a := f s.a }
  else { s with others := s.others.map (fun b => if b.n = k then f b else b) }

/-- The launch that holds slot `n` (R375). -/
def State.launchOf (s : State) (slot : Nat) : Option Launch := s.fe.launches.find? (fun l => l.slot == slot)

/-- The launch of the atoll in focus. -/
def State.launch (s : State) : Option Launch := if s.a.slot = 0 then none else s.launchOf s.a.slot

/-! ## Scalars, predicates and handles (R105) -/

/-- A scalar register; s0 reads 0. -/
def State.rdS (s : State) (r : Reg) : Word := if r = 0#6 then 0 else s.a.st.regs[r.toNat]'(r.isLt)

/-- A write of a scalar register; a write of s0 is discarded. -/
def State.setS (s : State) (r : Reg) (v : Word) : State :=
  if r = 0#6 then s else s.updSt (fun st => { st with regs := st.regs.set r.toNat v (r.isLt) })

/-- A predicate; p0 reads true. -/
def State.rdP (s : State) (p : Prd) : Bool := p == 0#4 || s.a.st.preds.getLsbD p.toNat

/-- A write of a predicate; a write of p0 is discarded. -/
def State.setP (s : State) (p : Prd) (v : Bool) : State :=
  if p = 0#4 then s
  else s.updSt (fun st =>
    { st with preds := (st.preds &&& ~~~(1#16 <<< p.toNat)) ||| (if v then 1#16 <<< p.toNat else 0#16) })

/-- A handle register (R161). -/
def State.rdH (s : State) (h : HReg) : Word := s.a.st.hs[h.toNat]'(h.isLt)

def State.setH (s : State) (h : HReg) (v : Word) : State :=
  s.updSt (fun st => { st with hs := st.hs.set h.toNat v (h.isLt) })

/-! ## Fields of words -/

/-- Word `x` with bits `lo` up to `lo + n - 1` replaced by the low bits of `v`. -/
def setBits {w : Nat} (x : BitVec w) (lo n : Nat) (v : Nat) : BitVec w :=
  BitVec.ofNat w (x.toNat % 2 ^ lo + v % 2 ^ n * 2 ^ lo + x.toNat / 2 ^ (lo + n) * 2 ^ (lo + n))

/-- Bits `lo` up to `lo + n - 1` of a word, as a number. -/
def fld {w : Nat} (x : BitVec w) (lo n : Nat) : Nat := x.toNat / 2 ^ lo % 2 ^ n

/-! ## Charges (R83 to R90) -/

/-- The charges of the bundle, of bit-steps, erase, rows and transfers, in attojoules (R85). -/
def ajBundle : Nat := 16384
def ajErase : Nat := 8192
def ajRow : Nat := 65536
def ajHop : Nat := 8192
def ajCopyRow : Nat := 131072
def ajMemRow : Nat := 2359296
def ajStrait : Nat := 1048576

/-- One reversible bit-step at ramp r (R85). -/
def ajStep (r : Nat) : Nat := 2048 / r

/-- A charge of a copy, a link transfer, a near-memory command or an access: applied as the row is processed (R88). -/
def Atoll.chargeNow (now amount : Nat) (a : Atoll) : Atoll :=
  if amount = 0 then a else { a with st := { a.st with due := a.st.due ++ [(now, amount)] } }

/-- A charge of an atoll's strand, applied at the first core edge at or after now (R88). -/
def Atoll.charge (now amount : Nat) (a : Atoll) : Atoll :=
  if amount = 0 then a
  else { a with st := { a.st with due := a.st.due ++ [(a.edge 0 now, amount)] } }

/-- A charge applied at a given core edge (R88). -/
def State.chargeAt (s : State) (edge amount : Nat) : State :=
  if amount = 0 then s else s.updSt fun st => { st with due := st.due ++ [(edge, amount)] }

def State.charge (s : State) (amount : Nat) : State := s.updA (Atoll.charge s.now amount)

/-- A row's charge, applied now (R88). -/
def State.chargeNow (s : State) (amount : Nat) : State := s.updA (Atoll.chargeNow s.now amount)

/-- A row's charge of the strand of atoll `k`, applied now (R88). -/
def State.chargeOf (s : State) (k amount : Nat) : State := s.updAtoll k (Atoll.chargeNow s.now amount)

/-- The meter saturates at −2^95 (R90). -/
def meterSub (bal : Int) (c : Nat) : Int := max (-(2 ^ 95 : Nat)) (bal - c)

/-- Applies the charges whose tick has passed, and keeps the last core cycle in which any fell with their sum there; `div` is
the core divisor (R91, R120). -/
def Strand.applyDue (now div : Nat) (st : Strand) : Strand :=
  match st.due.filter (fun c => c.1 < now) with
  | [] => st
  | d =>
    let top := d.foldl (fun m c => max m (c.1 / div * div)) 0
    let sum := (d.filter (fun c => c.1 / div * div == top)).foldl (fun n c => n + c.2) 0
    { st with due := st.due.filter (fun c => !(c.1 < now))
              bal := meterSub st.bal (d.foldl (fun n c => n + c.2) 0)
              lastCh := (top, if st.lastCh.1 = top then st.lastCh.2 + sum else sum) }

/-- ATC counts the core cycles of a strand that has not stopped (R124). -/
def Strand.syncAtc (now div : Nat) (st : Strand) : Strand :=
  match st.run with
  | .run | .halting => { st with atc := st.atc + BitVec.ofNat 64 (now / div - st.atcAt / div), atcAt := now }
  | _ => { st with atcAt := now }

/-- Brings the atoll in focus to the present tick. -/
def Atoll.settle (now : Nat) (a : Atoll) : Atoll :=
  { a with st := (a.st.syncAtc now a.div.core).applyDue now a.div.core, res := a.res.filter (fun r => now ≤ r.1), ures := a.ures.filter (fun r => now ≤ r.1)
           freed := a.freed.filter (fun r => r.2 / a.div.core == now / a.div.core)
           burst := a.burst.filter (fun b => now < b.2.2.2) }

/-! ## System registers (R63, R120) -/

/-- The balance as ENMETER shows it: 96-bit two's complement (R83, R84). -/
def meterBits (bal : Int) : BitVec 96 := BitVec.ofInt 96 bal

/-- GTC of the atoll in focus (R125). -/
def State.gtc (s : State) : Word := BitVec.ofNat 64 s.now + s.a.st.gtcOff

/-- A system register as it stands (R120). -/
def State.sysRead (s : State) (r : SysReg) : Word :=
  let st := s.a.st
  match r with
  | .aclass => st.aclass
  | .sbmode => st.sbmode
  | .enmeterLo => bits (meterBits st.bal) 0 64
  | .enmeterHi => (bits (meterBits st.bal) 64 32).setWidth 64
  | .enquotaLo => BitVec.ofNat 64 st.quota
  | .enquotaHi => BitVec.ofNat 64 (st.quota / 2 ^ 64)
  | .tvec => st.tvec
  | .qsw => st.qsw
  | .domain => st.domain
  | .gtc => s.gtc
  | .atc => st.atc
  | .laglvl => st.laglvl
  | .idlemx => st.idlemx
  | .grottoBase => st.grBase
  | .grottoRows => st.grRows
  | .hovf => st.hovf
  | .lc => st.lc
  | .trpc => st.trpc
  | .trcause => st.trcause
  | .trinfo => st.trinfo

/-- The balance with one half written; charges of the cycle of the write fall on top of it (R120). -/
def meterWrite (bal : Int) (c lo n : Nat) (v : Word) : Int :=
  meterSub (setBits (meterBits (bal + c)) lo n v.toNat).toInt c

/-- The compute rail of the die of an atoll, in mV (R12, R27). -/
def State.railOf (s : State) (k : Nat) : Nat := if k < 80 then s.fe.rail.1 else s.fe.rail.2

/-- A write of a system register's writable fields by an mtsr that issued at tick `t`; it is in force from the
next cycle, so a change the hardware made in the cycle of the write applies on top of it (R120 to R125, R57, R92,
R93, R96, R98, R138 to R140, R376, R386). -/
def State.sysWrite (s : State) (r : SysReg) (t : Nat) (v : Word) : State :=
  let c := if s.a.st.lastCh.1 = t then s.a.st.lastCh.2 else 0
  s.updSt fun st =>
    match r with
    | .aclass =>
      let x := fld v 0 19 + (if 3 < fld v 19 3 then fld st.aclass 19 3 else fld v 19 3) * 2 ^ 19
      { st with aclass := BitVec.ofNat 64 x }
    | .sbmode => { st with sbmode := v &&& 1 }
    | .enmeterLo => { st with bal := meterWrite st.bal c 0 64 v }
    | .enmeterHi => { st with bal := meterWrite st.bal c 64 32 v }
    | .enquotaLo => { st with quota := (setBits (BitVec.ofNat 96 st.quota) 0 64 v.toNat).toNat }
    | .enquotaHi => { st with quota := (setBits (BitVec.ofNat 96 st.quota) 64 32 v.toNat).toNat }
    | .tvec => { st with tvec := v &&& 0x0000FFFFFFFFFFF8 }
    | .qsw => { st with qsw := v &&& 0xFFFFFFFF00000703 }
    | .domain => { st with domain := v &&& 0x003FFFFFFFFFFFFF }
    | .gtc => { st with gtcOff := v + BitVec.ofNat 64 (s.now - t) - BitVec.ofNat 64 s.now }
    | .atc => { st with atc := v + 1 }
    | .laglvl =>
      let th := fld v 16 12
      let lv := fld st.laglvl 0 12
      if 360 ≤ th ∧ th + 10 ≤ s.railOf s.a.n then
        { st with laglvl := setBits st.laglvl 16 12 th, lagHold := decide (lv < th) || (st.lagHold && decide (lv < th + 10)) }
      else st
    | .idlemx => { st with idlemx := v &&& 0x80000000FFFFFFFF }
    | .grottoBase => { st with grBase := v &&& 0x0000FFFF0000FFFF }
    | .grottoRows => { st with grRows := v &&& 0xFFFFFFFF0000FFFF }
    | .hovf => { st with hovf := v &&& 0xFFFFFFFFFFFF0000 }
    | .lc => { st with lc := v }
    | .trpc => { st with trpc := v &&& 0x0000FFFFFFFFFFF8 }
    | .trcause => { st with trcause := setBits (setBits st.trcause 0 8 v.toNat) 17 1 (fld v 17 1) }
    | .trinfo => { st with trinfo := v }

/-! ## Ring registers (R250) -/

def rBase (r : Word) : Nat := fld r 48 16
def rSize (r : Word) : Nat := fld r 32 16
def rHead (r : Word) : Nat := fld r 16 16
def rCnt (r : Word) : Nat := fld r 0 16

/-- A ring register of its fields (R250). -/
def ringWord (b z h c : Nat) : Word :=
  BitVec.ofNat 64 (b % 2 ^ 16 * 2 ^ 48 + z % 2 ^ 16 * 2 ^ 32 + h % 2 ^ 16 * 2 ^ 16 + c % 2 ^ 16)

def State.ring (s : State) (x : Ring) : Word := s.a.rings[x.toNat]'(x.isLt)

def State.setRing (s : State) (x : Ring) (v : Word) : State :=
  s.updA fun a => { a with rings := a.rings.set x.toNat v (x.isLt) }

/-- A scalar result lands (R110, R112). -/
def State.land (s : State) (d : Dst) (v : Word) : State :=
  match d with
  | .none => s
  | .s r => s.setS r v
  | .sx r => s.setS r (s.rdS r ^^^ v)
  | .p p => s.setP p (v.getLsbD 0)
  | .h h => s.setH h v
  | .sys r t => s.sysWrite r t v
  | .depth up =>
    s.updSt fun st =>
      let e := fld st.grRows 32 32
      { st with grRows := setBits st.grRows 32 32 (if up then e + 1 else e - 1) }
  | .ring x => s.setRing x v
  | .tail x =>
    let r := s.ring x
    s.setRing x (ringWord (rBase r) (rSize r) (rHead r) (rCnt r + v.toNat))
  | .fq => s.updA fun a => { a with fq := a.fq ++ [(none, v)] }
  | .rtm => s.updA fun a => { a with rtm := v }

/-- A scalar result of latency `l` core cycles (R110, R113). -/
def State.landIn (s : State) (l : Nat) (d : Dst) (v : Word) : State :=
  s.sched (s.coreT l) 2 .core .scalarResultLand (.land d v)

/-! ## Traps (R70, R135 to R141) -/

def tIll : Nat := 1
def tBundle : Nat := 2
def tFqEmpty : Nat := 3
def tXlat : Nat := 4
def tHandle : Nat := 5
def tRgnOver : Nat := 6
def tRgnIll : Nat := 7
def tLate : Nat := 8
def tMiss : Nat := 9
def tLane : Nat := 10
def tBarrier : Nat := 11
def tQuota : Nat := 12
def tAssertz : Nat := 13
def tPriv : Nat := 14
def tData : Nat := 15
def tXtime : Nat := 16

/-- The strand runs at the privileged level: bit 47 of the PC (R107). -/
def State.privileged (s : State) : Bool := 2 ^ 47 ≤ s.a.st.bpc % 2 ^ 48

/-- ACT of TRCAUSE (R139). -/
def Strand.act (st : Strand) : Bool := st.trcause.getLsbD 16

/-- Engine `k` (0 VX, 1 MX, 2 RT, 3 CP) looks at tick `t`, and at no other time, whether it is to gate (R98). -/
def State.checkGate (s : State) (k t : Nat) : State :=
  (s.unsched fun e => e.i == .engineGate && e.atoll == s.a.n && e.arg == .n k).sched t 6 .none .engineGate (.n k)

/-- Every engine looks again whether it is to gate (R98). -/
def State.regate (s : State) (t : Nat) : State := (((s.checkGate 0 t).checkGate 1 t).checkGate 2 t).checkGate 3 t

/-- A mark that a gate of the region made is one of the boundary's; an engine that is still busy there keeps it and gates when
its operation has ended (R100, log 97). -/
def GateSt.closed (g : GateSt) : GateSt := { g with mark := g.mark.map fun _ => false }

/-- The region is left: its overrun is no longer due, and engines may gate (R98, R127, R136). -/
def State.leaveRegion (s : State) : State :=
  if s.a.st.rgn.isSome then
    ((s.updA fun a => { a with st := { a.st with rgn := none }, gvx := a.gvx.closed, gmx := a.gmx.closed
                               grt := a.grt.closed, gcp := a.gcp.closed }).unsched fun e =>
      (e.i == .regionOverrun || (e.i == .bundleFetch && e.arg == .n 1)) && e.atoll == s.a.n).regate s.now
  else s

/-- The strand stops.  Its launch looks whether a realign, a dsync or the launch itself waits on it (R145, R378, R390). -/
def State.stopStrand (s : State) (r : Run) : State :=
  let s := (s.leaveRegion.updSt fun st => { st with run := r, wait := .none, more := [], walked := none, miss := none }).noFetchOf s.a.n
  let s := s.sched s.now 6 .none .realignRelease (.n s.a.slot)
  let s := s.sched s.now 6 .none .dsyncRelease (.n s.a.slot)
  s.sched s.now 6 .none .launchEnd (.n s.a.slot)

/-- A strand-fault event for the strand's launch reaches the front end (R136, R391). -/
def State.strandFault (s : State) (c : Nat) : State :=
  (s.stopStrand (.fault c)).later s.a.n .strandFaultEnd (.n2 s.a.slot c)

/-- A quota event for the strand's launch reaches the front end as a pre-emption request (R89, R384). -/
def State.quotaStop (s : State) : State :=
  (s.stopStrand .quota).later s.a.n .preemptRequest (.n2 s.a.slot 2)

/-- take_trap of R136: `c` the cause, `rec` the address R135 gives, `ab` when the trap ends a timed region. -/
def State.takeTrap (s : State) (c info rec : Nat) (ab : Bool) : State :=
  let s := { s.updSt (fun st => { st with walked := none, miss := none, ready := s.coreT 4 }) with
               free := s.free + (if c = tFqEmpty then 1 else 0) }
  let st := s.a.st
  if st.act then
    (s.updSt fun st =>
      { st with trpc := BitVec.ofNat 64 rec, trcause := setBits (setBits st.trcause 0 8 c) 18 1 1
                trinfo := BitVec.ofNat 64 info }).strandFault c
  else if st.bal < 0 then
    (s.updSt fun st =>
      { st with trpc := BitVec.ofNat 64 rec, trcause := setBits st.trcause 0 8 tQuota
                trinfo := BitVec.ofNat 64 (c * 2 ^ 56 + ab.toNat * 2 ^ 55 + info) }).quotaStop
  else
    let s := (s.updSt fun st =>
      { st with trpc := BitVec.ofNat 64 rec, trinfo := BitVec.ofNat 64 info
                trcause := setBits (setBits (setBits st.trcause 0 8 c) 17 1 ab.toNat) 16 1 1 }).leaveRegion
    if c = tXlat then (s.updSt fun st => { st with pc := 2 ^ 47, bpc := 2 ^ 47, wait := .none, more := [] }).fetchAt (s.coreT 4)
    else if fld st.tvec 3 45 = 0 then s.strandFault c
    else (s.updSt fun st => { st with pc := fld st.tvec 0 48, wait := .none, more := [] }).fetchAt (s.coreT 4)

/-- A trap raised at issue by the syllable in hand: it reports its bundle, and inside a region ends it (R37, R135). -/
def State.trapHere (s : State) (c info : Nat) : State :=
  s.takeTrap c info s.a.st.bpc s.a.st.rgn.isSome

/-- rti of R141 without its checks: ACT is cleared and the bundle at TRPC issues at t+3. -/
def State.returnTrap (s : State) : State :=
  (s.updSt fun st => { st with trcause := setBits st.trcause 16 1 0, pc := fld st.trpc 0 48, ready := s.coreT 3 }).fetchAt (s.coreT 3)

/-- A trap and its TRINFO, as a check at issue finds it. -/
structure Trap where
  cause : Nat
  info : Nat
deriving DecidableEq, Repr

/-- The first trap of a list of checks made in order (R37). -/
def firstTrap : List (Option Trap) → Option Trap
  | [] => none
  | some t :: _ => some t
  | none :: r => firstTrap r

/-- A check: the trap when the condition holds. -/
def trapIf (b : Bool) (c info : Nat) : Option Trap := if b then some ⟨c, info⟩ else none

/-- The syllable is illegal inside a timed region (R129). -/
def State.rgnIll (s : State) : Option Trap := trapIf s.a.st.rgn.isSome tRgnIll s.a.st.pos

/-- A syllable's effect, unless a check at issue raises its trap, and then only the trap (R37); an operation that was put
off to its start has passed its checks. -/
def State.unless (s : State) (t : Option Trap) (f : State) : Res :=
  match t, s.ev.arg with
  | some _, .restart _ _ => .next f
  | some t, _ => .next (s.trapHere t.cause t.info)
  | none, _ => .next f

/-- Of two flags with the ticks at which they were raised, the first in time, or the lower code of one core cycle (R196). -/
def firstFlag (div : Nat) (x y : Option (Nat × Nat)) : Option (Nat × Nat) :=
  match x, y with
  | none, y => y
  | x, none => x
  | some x, some y =>
    if x.1 / div = y.1 / div then some (min x.1 y.1, min x.2 y.2) else if x.1 < y.1 then some x else some y

/-- The strand's pending data flag is set by an event of tick `c.1` with code `c.2`: the first code in time stands (R196). -/
def Strand.flag (div : Nat) (c : Option (Nat × Nat)) (st : Strand) : Strand :=
  match firstFlag div (st.dflag.map fun k => (st.dflagAt, k)) c with
  | some f => { st with dflag := some f.2, dflagAt := f.1 }
  | none => st

/-- A flag that an event of tick `t` raised. -/
def State.flagAt (s : State) (c : Option (Nat × Nat)) : State := s.updSt (Strand.flag s.a.div.core c)

/-- A flag that the step in hand raises. -/
def State.flag (s : State) (c : Option Nat) : State := s.flagAt (c.map fun k => (s.now, k))

/-- What the strand waits for: several syllables of one bundle may each wait (R36). -/
def Strand.waits (st : Strand) : List Wait := if st.wait = .none then [] else st.wait :: st.more

/-- The wait of the strand that `f` picks. -/
def State.waiting (s : State) (f : Wait → Bool) : Option Wait := s.a.st.waits.find? f

/-! ## Ordering class and scope (R54, R57) -/

/-- The ordering class of an access of the syllable in hand: the prefix's, or the field of ACLASS at bit `k`. -/
def State.cls (s : State) (k : Nat) : BitVec 4 :=
  match s.a.st.pfx with
  | some p => if p.kv then p.k else bits s.a.st.aclass k 4
  | none => bits s.a.st.aclass k 4

/-- The scope of an access of the syllable in hand: the prefix's, or ACLASS.SCOPE (R54, R57). -/
def State.scope (s : State) : BitVec 3 :=
  match s.a.st.pfx with
  | some p => if p.lvv then p.lv else bits s.a.st.aclass 16 3
  | none => bits s.a.st.aclass 16 3

/-- The space check of the prefix: 0 none, 1 SP or RSP, 2 GM, 3 HM (R56). -/
def State.pfxSpace (s : State) : Nat := match s.a.st.pfx with | some p => p.sp.toNat | none => 0

/-! ## Scratchpad addresses (R149, R150) -/

/-- The effective address sa + off (R150). -/
def State.ea (s : State) (a : Reg) (off : BitVec 16) : Word := s.rdS a + off.signExtend 64

def eaRemote (ea : Word) : Bool := ea.getLsbD 39
def eaPh (ea : Word) : Bool := ea.getLsbD 63
def eaByte (ea : Word) : Nat := fld ea 0 23
def eaRow (ea : Word) : Nat := fld ea 7 16
def eaX (ea : Word) : Nat := fld ea 48 10
def eaY (ea : Word) : Nat := fld ea 40 8

/-- The rectangle of the strand's launch holds global atoll (x, y) (R14, R150). -/
def State.inRect (s : State) (x y : Nat) : Bool :=
  match s.launch with
  | some l => decide (l.gx ≤ x) && decide (x < l.gx + l.w) && decide (l.gy ≤ y) && decide (y < l.gy + l.h)
  | none => false

/-- The data-error code of a scratchpad address, the first of the list of R150 that holds (R150, log 86). -/
def State.eaCode (s : State) (ea : Word) (localOnly : Bool) : Option Nat :=
  if 49152 ≤ eaRow ea ∨ fld ea 58 5 ≠ 0 ∨ fld ea 23 16 ≠ 0 ∨ (!eaRemote ea ∧ (eaX ea ≠ 0 ∨ eaY ea ≠ 0)) then some 0x10
  else if eaRemote ea && !s.inRect (eaX ea) (eaY ea) then some 0x11
  else if eaRemote ea && localOnly then some 0x12
  else none

/-- The atoll of this package at global coordinates, none in another package (R14). -/
def State.atollAt (s : State) (x y : Nat) : Option Nat :=
  if x / 20 = s.fe.px ∧ y / 8 = s.fe.py then some (8 * (x % 20) + y % 8) else none

/-- The atoll that owns a scratchpad address; an atoll of another package is 1000 plus 256·x + y (R14, R149). -/
def State.owner (s : State) (ea : Word) : Nat :=
  if eaRemote ea then (s.atollAt (eaX ea) (eaY ea)).getD (1000 + 256 * eaX ea + eaY ea) else s.a.n

/-- The global coordinates of an atoll of this package, as an address names it. -/
def State.coords (s : State) (n : Nat) : Nat × Nat := (20 * s.fe.px + n / 8, 8 * s.fe.py + n % 8)

/-! ## Lanes and ports (R16, R153 to R157) -/

/-- Hops on the clockwise lanes from position `a` to `b` (R16). -/
def cwHops (a b : Nat) : Nat := (b + 16 - a) % 16

/-- A row transfer goes clockwise when that takes no more hops (R153). -/
def goesCw (a b : Nat) : Bool := cwHops a b ≤ cwHops b a

/-- Hops of a transfer between two positions (R153). -/
def hops (a b : Nat) : Nat := min (cwHops a b) (cwHops b a)

/-- The position of memory station Mk (R15). -/
def stationPos (k : Nat) : Nat := 2 * k

/-- Positions of the function stations (R15). -/
def posMX : Nat := 1
def posVX : Nat := 3
def posRT : Nat := 5
def posPP : Nat := 7
def posCP : Nat := 9
def posLK : Nat := 11
def posCC : Nat := 13
def posXB : Nat := 15

/-- The station of a row (R17). -/
def station (row : Nat) : Nat := row % 8

/-- The code of a lane segment: direction, lane, position at its start (R155). -/
def segCode (cw : Bool) (lane pos : Nat) : Nat := (if cw then 0 else 128) + lane * 16 + pos

/-- The lane between two function stations, of which the one at position a sends (R153). -/
def fnLane (a : Nat) : Nat := (a - 1) / 2

/-- The code of a station's read or write port (R152). -/
def portCode (st : Nat) (write : Bool) : Nat := 1000 + st + (if write then 8 else 0)

/-- The segments of a transfer on `lane` that leaves `a` for `b` in the ring cycle at tick `t` (R154). -/
def path (ring lane a b t : Nat) : List (Nat × Nat) :=
  (List.range (hops a b)).map fun j =>
    (t + (j + 1) * ring, segCode (goesCw a b) lane (if goesCw a b then (a + j) % 16 else (a + 16 - j) % 16))

/-- Something the strand has scheduled already takes one of these at its tick (R155). -/
def clash (res req : List (Nat × Nat)) : Option (Nat × Nat) := req.find? (fun r => res.contains r)

/-- The first delay, in ring cycles, at which nothing clashes; it is at most the number of things scheduled (R155). -/
def freeDelay (res : List (Nat × Nat)) (ring : Nat) (req : List (Nat × Nat)) : Nat → Nat → Nat
  | 0, d => d
  | f + 1, d =>
    match clash res (req.map fun r => (r.1 + d * ring, r.2)) with
    | none => d
    | some _ => freeDelay res ring req f (d + 1)

/-- The delay in ring cycles that a strand access or transfer takes: none inside a region.  Of two transfers of one bundle the one
of the syllable at the higher address waits (R155, log 94). -/
def State.laneDelay (s : State) (req : List (Nat × Nat)) : Nat :=
  if s.a.st.rgn.isSome then 0
  else freeDelay s.a.res s.a.div.ring req (s.a.res.length * (req.length + 1) + 1) 0

/-- The region cycle of the bundle in hand (R124); 0 outside a region. -/
def State.regionCycle (s : State) : Nat :=
  match s.a.st.rgn with
  | some r => (s.a.st.atc - r.atc0).toNat
  | none => 0

/-- TRINFO of T_LANE for the thing that clashes (R155). -/
def State.laneInfo (s : State) (code : Nat) : Nat :=
  s.regionCycle * 2 ^ 16 +
    (if 1000 ≤ code then 2 ^ 8 + (if 1008 ≤ code then 8 else 0) + (code - 1000) % 8
     else code % 16 * 16 + (if 128 ≤ code then 8 else 0) + code / 16 % 8)

/-- Inside a region a collision raises T_LANE at issue (R155). -/
def State.laneTrap (s : State) (req : List (Nat × Nat)) : Option Trap :=
  if s.a.st.rgn.isSome then (clash s.a.res req).map fun r => ⟨tLane, s.laneInfo r.2⟩ else none

/-- Reserves lanes and ports, delayed by `d` ring cycles. -/
def State.reserve (s : State) (req : List (Nat × Nat)) (d : Nat) : State :=
  s.updA fun a => { a with res := a.res ++ req.map fun r => (r.1 + d * a.div.ring, r.2) }

/-- The segments that a row of a copy, of the link engine or of XB takes over some hops from position p on, and the tick at which it
arrives: before a segment that a strand transfer or another such row has it waits in the station's latch (R16, R154, R156). -/
def rideFrom (taken : List (Nat × Nat)) (ring lane : Nat) (cw : Bool) : Nat → Nat → Nat → Nat × List (Nat × Nat)
  | 0, _, t => (t, [])
  | n + 1, p, t =>
    let e := t + (freeDelay taken ring [(t + ring, segCode cw lane p)] (taken.length + 1) 0 + 1) * ring
    let r := rideFrom taken ring lane cw n (if cw then (p + 1) % 16 else (p + 15) % 16) e
    (r.1, (e, segCode cw lane p) :: r.2)

/-- A row of one of these units leaves position x at ring edge t for y: the tick of its arrival, and the segments taken (R153, R156,
log 87). -/
def State.ride (s : State) (lane x y t : Nat) : Nat × State :=
  let r := rideFrom (s.a.res ++ s.a.ures) s.a.div.ring lane (goesCw x y) (hops x y) x t
  (r.1, s.updA fun a => { a with ures := a.ures ++ r.2 })

/-- A copy burst holds a port at tick t: the tick at which it ends (R152, R309). -/
def Atoll.burstOn (a : Atoll) (t st : Nat) (write : Bool) : Option Nat :=
  (a.burst.find? fun b => b.1 == st && b.2.1 == write.toNat && decide (b.2.2.1 ≤ t) && decide (t < b.2.2.2)).map fun b => b.2.2.2

/-- The step in hand goes back on the agenda for tick `t`. -/
def State.again (s : State) (t : Nat) : State := { s with agenda := insertEv { s.ev with tick := t } s.agenda }

/-! ## The freeze line (R131 to R133) -/

/-- A step that the freeze line of atoll `k` stops: all but those of the units with no schedule (R132). -/
def Ev.frozen (k : Nat) (e : Ev) : Bool := e.atoll == k && e.dom != .none

/-- The step is work of PP for a ppcmp of the atoll in focus, whose sequencer the freeze line stops too (R132, R306). -/
def State.ppWork (s : State) (e : Ev) : Bool :=
  e.atoll == s.a.n && (e.i == .copyBurst || e.i == .copyRow) &&
    match e.arg with
    | .n id | .n3 id _ _ => s.a.cq.any fun c => c.id == id && c.kind == .ppcmp
    | _ => false

/-- The ticks that the argument of a frozen step holds, `d` ticks on. -/
def Arg.shift (d : Nat) : Arg → Arg
  | .vread r x k lim c clr => .vread r x k (lim + d) c (if clr = 0 then 0 else clr + d)
  | .restart c t => .restart c (t + d)
  | a => a

/-- One core cycle of the freeze line: everything it stops moves one core cycle later, and ATC stands.  The occupancy of the engine that
the late result waits for, its `spare`, runs on (R124, R132, log 22). -/
def State.freeze (s : State) (spare : Dom) : State :=
  let d := s.a.div.core
  let hit := fun (e : Ev) => e.frozen s.a.n || s.ppWork e
  let s := { s with agenda := (s.agenda.filter hit).foldl
                      (fun (g : List Ev) (e : Ev) => insertEv { e with tick := e.tick + d, arg := e.arg.shift d } g)
                      (s.agenda.filter fun e => !hit e) }
  s.updA fun a =>
    { a with res := a.res.map (fun (r : Nat × Nat) => if s.now ≤ r.1 then (r.1 + d, r.2) else r)
             vbusy := if s.now < a.vbusy && spare != .vx then a.vbusy + d else a.vbusy
             mbusy := if s.now < a.mbusy && spare != .mx then a.mbusy + d else a.mbusy
             rbusy := if s.now < a.rbusy && spare != .rt then a.rbusy + d else a.rbusy
             mjobs := a.mjobs.map fun j => { j with start := j.start + d }
             rjobs := a.rjobs.map fun j => { j with start := j.start + d }
             st := { a.st with iced := s.now + d, atc := a.st.atc - 1, due := a.st.due.map fun c => if s.now < c.1 then (c.1 + d, c.2) else c } }

/-- A late result of source `c` in a region: the freeze line for one core cycle, or T_LATE (R132, R133). -/
def State.lateOf (s : State) (spare : Dom) (c : Nat) : State :=
  match s.a.st.rgn with
  | some r =>
    if r.lt then s.takeTrap tLate (c + s.regionCycle * 2 ^ 16) s.a.st.pc true
    else s.freeze spare
  | none => s

/-- The ports of the station of a row that an access takes at tick `t` (R152). -/
def portsAt (t row : Nat) (rd wr : Bool) : List (Nat × Nat) :=
  (if rd then [(t, portCode (station row) false)] else []) ++ if wr then [(t, portCode (station row) true)] else []

/-- The step in hand asks again at the first ring edge from t on at which the ports and lanes that it then needs are free, and takes
them there; `req` says what it needs at a tick (R152, R155). -/
def State.askAt (s : State) (t : Nat) (req : Nat → List (Nat × Nat)) : State :=
  let l := req t
  let d := freeDelay s.a.res s.a.div.ring l (s.a.res.length * (l.length + 1) + 1) 0
  (s.reserve l d).again (t + d * s.a.div.ring)

/-- An access the strand scheduled finds its port held by a copy burst: it waits whole ring cycles, or inside a region is a late result
of source 0x01 (R131, R152, R155). -/
def State.portWait (s : State) (req : Nat → List (Nat × Nat)) : State :=
  match s.a.st.rgn with
  | some r =>
    if r.lt then (s.again (s.now + s.a.div.ring)).lateOf .none 1 else (s.again s.now).lateOf .none 1
  | none => s.askAt (s.now + s.a.div.ring) req

/-- A copy burst that is under way holds a port in a cycle for which the strand has scheduled an access in this core cycle (R131,
R152). -/
def State.portLate (s : State) : Bool :=
  s.a.res.any fun r => decide (1000 ≤ r.2) && decide (s.now ≤ r.1) && decide (r.1 < s.now + s.a.div.core) &&
    s.a.burst.any fun b => portCode b.1 (b.2.1 == 1) == r.2 && decide (b.2.2.1 ≤ r.1) && decide (r.1 < b.2.2.2)

/-- A copy burst holds a port that an access to `row` needs (R152). -/
def State.portHeld (s : State) (row : Nat) (rd wr : Bool) : Bool :=
  (rd && (s.a.burstOn s.now (station row) false).isSome) || (wr && (s.a.burstOn s.now (station row) true).isSome)

/-- The strand has scheduled an access that takes one of a station's ports now (R152). -/
def State.portTaken (s : State) (row : Nat) (rd wr : Bool) : Bool :=
  (rd && s.a.res.contains (s.now, portCode (station row) false)) ||
    (wr && s.a.res.contains (s.now, portCode (station row) true))

/-! ## Accesses in flight (R170 to R174) -/

/-- The access writes its word and returns nothing. -/
def AccOp.store : AccOp → Bool
  | .write _ | .arrive _ _ _ => true
  | _ => false

/-- A store of VX that waits for its vector edge has still to be read and written (R171, R214). -/
def Ev.storeDue (e : Ev) : Bool :=
  match e.i, e.arg with
  | .vst _, .restart _ _ | .evst _, .restart _ _ | .hpush _, .restart _ _ => true
  | _, _ => false

/-- The step is a row access of an array, which no class orders and no fence waits for (R270, R293). -/
def Ev.arrayAccess (e : Ev) : Bool :=
  match e.i with
  | .matrixActivationRead | .matrixAccumulatorRead | .matrixWriteback | .rotatorRowRead | .rotatorRowWrite => true
  | _ => false

/-- The step is a fixed access that the strand of atoll `n` scheduled (R171); ppcmp's rows are the copy engine's (log 102). -/
def Ev.fixed (n : Nat) (e : Ev) : Bool :=
  e.atoll == n && (e.storeDue || e.arrayAccess ||
    match e.i with
    | .scalarStationAccess | .vldRowRead | .vstRowWrite | .historyTransferDone => true
    | .barrierArrival => e.dom == .ring
    | _ => false)

/-- The step is a fixed access that writes the scratchpad (R183). -/
def Ev.fixedWrite (n : Nat) (e : Ev) : Bool :=
  e.fixed n && (e.storeDue ||
    match e.i, e.arg with
    | .scalarStationAccess, .acc x => (match x.op with | .read | .test _ | .wait _ => false | _ => true)
    | .vstRowWrite, _ | .matrixWriteback, _ | .rotatorRowWrite, _ => true
    | _, _ => false)

/-- The tick at which a step's access performs: that of the row write for a store that waits for its vector edge. -/
def Ev.performs (e : Ev) : Nat :=
  match e.arg with
  | .restart _ t => max t e.tick
  | _ => e.tick

/-- A non-fixed access in flight: its class, its word, whether it is a store, and its scope (R170). -/
structure Pend where
  k : BitVec 4
  w : Nat
  store : Bool
  lv : BitVec 3
deriving DecidableEq, Repr

/-- An access to a word of the scratchpad of atoll `k`, in flight. -/
def Acc.pend (x : Acc) (k : Nat) : Pend := ⟨x.cls, k * 2 ^ 24 + x.byte / 8, x.op.store, x.lv⟩

/-- What the strand orders behind an access of bundle `q` waits for it.  A store of scope 0 has performed for its own strand, and R426
leaves to the part whether it is waited for (R170, R172, log 92). -/
def Pend.owed (p : Pend) (q : Nat) : Bool := !(p.lv == 0 && p.store && Config.relaxed q)

/-- A non-fixed access that the strand of atoll `n` issued and that has not performed (R170). -/
def Ev.pendingAccess (n : Nat) (e : Ev) : Option Pend :=
  match e.i, e.arg with
  | .remoteAccessArrival, .acc x => if x.src = n then some (x.pend e.atoll) else none
  | .remoteAccessArrival, .accTo k x => if x.src = n then some (x.pend k) else none
  | .barrierArrival, .acc x =>
    match x.op with
    | .arrive _ false _ => if x.src = n ∧ e.dom ≠ .ring then some (x.pend e.atoll) else none
    | _ => none
  | .gmAccess, .gacc x | .reefAtomic, .gacc x =>
    if x.src = n then some ⟨x.cls, 2 ^ 60 + (if x.host then 2 ^ 50 else 0) + x.byte / 8, x.op.store, x.lv⟩ else none
  | _, _ => none

/-- The accesses of the strand of atoll `n` that are under way in other packages, with the atolls they go to. -/
def State.extOf (s : State) (n : Nat) : List (Nat × Acc) := ((s.atoll n).map fun a => a.st.ext).getD []

/-- An access of class `k` to word `w` by the bundle `q` of atoll `n` must wait for one of an earlier bundle: a
non-fixed access of its class or word, or any fixed access but those of the arrays (R172, R270; log 19). -/
def State.blockers (s : State) (n q : Nat) (k : BitVec 4) (w : Nat) : List Ev :=
  s.agenda.filter fun e =>
    decide (e.seq < q) &&
      ((e.fixed n && !e.arrayAccess) || match e.pendingAccess n with
        | some p => (p.k == k && p.owed e.seq) || p.w == w
        | none => false)

/-- An access of class `k` to word `w` of atoll `n` must wait for one that is under way in another package (R172). -/
def State.extBlocks (s : State) (n : Nat) (k : BitVec 4) (w : Nat) : Bool :=
  (s.extOf n).any fun x => x.2.cls == k || (x.2.pend x.1).w == w

/-- The last tick at which an access of some steps performs. -/
def lastPerform (l : List Ev) : Nat := l.foldl (fun m e => max m e.performs) 0

/-- The last tick at which one of some steps is due. -/
def lastTick (l : List Ev) : Nat := l.foldl (fun m e => max m e.tick) 0

/-! ## Handles (R161, R162) -/

def hValid (h : Word) : Bool := h.getLsbD 63
def hBig (h : Word) : Bool := h.getLsbD 62
def hSpace (h : Word) : Nat := fld h 60 2
def hWr (h : Word) : Bool := h.getLsbD 59
def hCc (h : Word) : Bool := h.getLsbD 58
def hPasidx (h : Word) : Nat := fld h 48 10
def hFrame (h : Word) : Nat := fld h 16 32

/-- The page size of a handle (R161). -/
def hPage (h : Word) : Nat := if hBig h then 2 ^ 21 else 2 ^ 16

/-- The handle that xlat makes of a mapping (R163). -/
def handleOf (e : PageMap) : Word :=
  BitVec.ofNat 64 (2 ^ 63 + (if e.big then 2 ^ 62 else 0) + e.space % 4 * 2 ^ 60 + (if e.wr then 2 ^ 59 else 0) +
    (if e.cc then 2 ^ 58 else 0) + e.pasidx % 2 ^ 10 * 2 ^ 48 + e.frame % 2 ^ 32 * 2 ^ 16)

/-- The mapping of a virtual address: a 2 MiB or a 64 KiB entry (R163). -/
def walk (pages : List PageMap) (va : Nat) : Option PageMap :=
  pages.find? fun e => if e.big then e.va / 2 ^ 21 == va / 2 ^ 21 else e.va / 2 ^ 16 == va / 2 ^ 16

/-- The byte offset sa + off of a handle access, read as two's complement (R162). -/
def handleOff (sa : Word) (off : BitVec 16) : Int := (sa + off.signExtend 64).toInt

/-- The reason of T_HANDLE of an access of a word through handle value `h` at offset `o` (R162). -/
def handleReason (h : Word) (o : Int) (wr amo : Bool) (sp : Nat) : Option Nat :=
  if !hValid h then some 1
  else if o < 0 ∨ (hPage h : Int) ≤ o then some 2
  else if wr && !hWr h then some 3
  else if sp ≠ 0 ∧ sp ≠ hSpace h then some 4
  else if amo && hSpace h == 3 then some 5
  else none

/-- The physical byte address FRAME · 2^16 + o (R162). -/
def handleByte (h : Word) (o : Int) : Nat := hFrame h * 2 ^ 16 + o.toNat

end Sys2Proof.Machine
end

