-- ==== Sys2Proof/Machine/Straits.lean ====
section
/-! DEFINITION. Frames of the straits: port choice, virtual channels, sequence numbers and the frames kept for replay (R25, R315
to R317). -/

namespace Sys2Proof.Machine

/-- Global coordinates of an atoll: one of this package by its number, one of another by 1000 + 256 x + y (R14). -/
def State.globalOf (s : State) (k : Nat) : Nat × Nat :=
  if k < 1000 then s.coords k else ((k - 1000) / 256, (k - 1000) % 256)

/-- The number that an atoll has in its own package (R14). -/
def State.localOf (s : State) (k : Nat) : Nat :=
  let g := s.globalOf k
  8 * (g.1 % 20) + g.2 % 8

/-- The direction group out of this package towards an atoll: x first, then y (R316, R373). -/
def State.groupTo (s : State) (k : Nat) : Nat :=
  let g := s.globalOf k
  if g.1 / 20 < s.fe.px then 0 else if s.fe.px < g.1 / 20 then 3 else if g.2 / 8 < s.fe.py then 1 else 2

/-- The ports of a group in service, in increasing number (R316). -/
def State.portsOf (s : State) (grp : Nat) : List Port := s.fe.ports.filter fun p => p.up && p.grp == grp

/-- The path to an atoll of another package leaves by a group that has no port in service (R318). -/
def State.lost (s : State) (k : Nat) : Bool := decide (1000 ≤ k) && (s.portsOf (s.groupTo k)).isEmpty

/-- The straits that a path to an atoll crosses, one for each package on the way (R14, R313). -/
def State.straits (s : State) (k : Nat) : Nat :=
  if k < 1000 then 0
  else
    let x := (k - 1000) / 256 / 20
    let y := (k - 1000) % 256 / 8
    (max x s.fe.px - min x s.fe.px) + (max y s.fe.py - min y s.fe.py)

/-- The pair hash of R316. -/
def State.pairHash (s : State) (src dst : Nat) : Nat :=
  let a := s.globalOf src
  let b := s.globalOf dst
  (a.1 + 3 * a.2 + 5 * b.1 + 7 * b.2) % 2 ^ 16

/-- The atoll number by which frames for a package's front end are routed. -/
def pkgAtoll (p : Nat) : Nat := 1000 + 256 * (20 * (p / 32)) + 8 * (p % 32)

/-- The atoll that a message is for: by its number in its own package, or by its global name. -/
def Msg.dst : Msg → Nat
  | .access d _ | .reply d _ _ _ _ _ | .copyRow d _ _ _ _ _ | .copied d _ _ _ | .header d _ _ _ _ | .plane d _ _ _ _ _ _ | .ack d _
  | .cancel d _ | .endStream d _ _ _ | .row d _ _ | .refusal d _ => d
  | .frontEnd p _ => pkgAtoll p
  | .acked _ _ => 0

/-- The virtual channel of a frame.  A reply and an acknowledgement take the sum h of the request that they answer, whose destination is
the atoll that sends them (R315, R316, log 106). -/
def State.vcOf (s : State) (f : Frame) : Nat :=
  let h := fun (dst row : Nat) => (s.localOf dst + row) % 2 ^ 16
  match f.m with
  | .access dst x => h dst (x.byte / 128) % 4
  | .copyRow dst row _ _ _ _ => h dst row % 4
  | .row dst _ _ => h dst 0 % 4
  | .reply _ _ _ _ byte _ => 4 + h f.src (byte / 128) % 2
  | .copied _ row _ _ => 4 + h f.src row % 2
  | .ack _ _ => 4 + h f.src 0 % 2
  | .header .. | .plane .. => 6
  | _ => 7

/-- A message to the outside. -/
def State.emit (s : State) (kind : Nat) (data : List Nat) : State := { s with out := s.out ++ [⟨kind, data, none⟩] }

def State.updPort (s : State) (n : Nat) (f : Port → Port) : State :=
  { s with fe := { s.fe with ports := s.fe.ports.map fun p => if p.n = n then f p else p } }

/-- The frames of a VC that a port has sent and that have not been acknowledged. -/
def Port.unacked (p : Port) (vc : Nat) : List (Nat × Nat × Frame) := p.kept.filter fun f => f.1 == vc

/-- A frame leaves on a port and VC with the next sequence number, and is kept until it is acknowledged; with 64 of its VC kept it waits
behind those that wait already (R317). -/
def State.sendOn (s : State) (p : Port) (vc : Nat) (f : Frame) : State :=
  if 64 ≤ (p.unacked vc).length ∨ p.wait.any fun w => w.1 == vc then s.updPort p.n fun p => { p with wait := p.wait ++ [(vc, f)] }
  else
    let q := p.tx.getD vc 0
    let s1 := s.updPort p.n fun p => { p with tx := p.tx.set vc ((q + 1) % 4096), kept := p.kept ++ [(vc, q, f)] }
    { s1 with out := s1.out ++ [⟨10, [p.n, vc, q], some f⟩] }

/-- The other end of a port acknowledges the frames of a VC up to one, and frames that have waited for room leave (R317). -/
def State.frameAcked (s : State) (n vc seq : Nat) : State :=
  match s.fe.ports.find? fun p => p.n == n with
  | none => s
  | some p =>
    if (p.unacked vc).any fun f => f.2.1 == seq then
      let rest := ((p.unacked vc).dropWhile fun f => f.2.1 != seq).drop 1
      let s1 := s.updPort n fun p => { p with kept := (p.kept.filter fun f => f.1 != vc) ++ rest, wait := p.wait.filter fun w => w.1 != vc
                                              fails := p.fails.filter fun f => f.1 != vc }
      (p.wait.filter fun w => w.1 == vc).foldl (fun (s : State) w => match s.fe.ports.find? fun p => p.n == n with
        | some p => s.sendOn p vc w.2
        | none => s) s1
    else s

/-- How another package names atoll k of this one (R14). -/
def State.nameOf (s : State) (k : Nat) : Nat :=
  let g := s.globalOf k
  1000 + 256 * g.1 + g.2

/-- A message as it stands in a frame: an access names the atoll it comes from. -/
def State.abroad (s : State) (m : Msg) : Msg :=
  match m with
  | .access dst x => .access dst { x with src := s.nameOf x.src }
  | m => m

/-- A frame for another package leaves on the port of its direction group that the pair hash names; a reply takes the hash with sender and
receiver exchanged (R316).  With no port in service it is lost (R318). -/
def State.frameOut (s : State) (f : Frame) : State :=
  let dst := f.m.dst
  let l := s.portsOf (s.groupTo dst)
  let h := match f.m with
    | .reply .. | .ack .. | .copied .. => s.pairHash dst f.src
    | _ => s.pairHash f.src dst
  match l[h % max 1 l.length]? with
  | some p => s.sendOn p (s.vcOf f) f
  | none => s

/-- The atoll in focus sends a message to an atoll of another package. -/
def State.sendFrame (s : State) (m : Msg) : State := s.frameOut ⟨s.nameOf s.a.n, s.abroad m⟩

/-- The first tick from now on at which the atoll in focus sends over the mesh: its send windows are recomputed for 256 ticks when
clkdiv hands a clock over in the handshake mode (R102). -/
def State.sendsFrom (s : State) : Nat :=
  match s.a.st.waits.findSome? fun w => match w with
    | .clock t => some t
    | _ => none with
  | some t => max s.now (t + 256)
  | none => s.now

/-- The links of the mesh from atoll j to atoll k of a package, x first and then y: a code for each with its direction, and the ticks
that a flit takes over it: 4, or 24 over the bridge between columns 9 and 10 (R13, R373). -/
def meshLinks (j k : Nat) : List (Nat × Nat) :=
  let x := fun (i : Nat) => if j / 8 ≤ k / 8 then j / 8 + i else j / 8 - i
  let y := fun (i : Nat) => if j % 8 ≤ k % 8 then j % 8 + i else j % 8 - i
  ((List.range (max (j / 8) (k / 8) - min (j / 8) (k / 8))).map fun i =>
    let right := decide (j / 8 ≤ k / 8)
    (4 * (8 * x i + j % 8) + (if right then 0 else 1), if (right && x i == 9) || (!right && x i == 10) then 24 else 4)) ++
    (List.range (max (j % 8) (k % 8) - min (j % 8) (k % 8))).map fun i =>
      (4 * (8 * (k / 8) + y i) + (if j % 8 ≤ k % 8 then 2 else 3), 4)

/-- A flit that stands before some links at tick t crosses each at the first mesh cycle in which it carries no other: the tick of its
arrival, and the cycles that it takes (R13). -/
def crossLinks (taken : List (Nat × Nat)) : List (Nat × Nat) → Nat → Nat × List (Nat × Nat)
  | [], t => (t, [])
  | l :: r, t =>
    let e := edgeAt 4 t + 4 * freeDelay taken 4 [(edgeAt 4 t, l.1)] (taken.length + 1) 0
    let x := crossLinks taken r (e + l.2)
    (x.1, (e, l.1) :: x.2)

/-- A message that is at XB at tick t goes to an atoll of this package: a step there once its flit has crossed the mesh, after a nominal
time beyond (R13, R102). -/
def State.acrossFrom (s : State) (t dst : Nat) (i : Instr) (arg : Arg) : State :=
  let x := crossLinks s.links (meshLinks s.a.n dst) (max t (if dst = s.a.n then s.now else s.sendsFrom))
  { s with links := s.links ++ x.2 }.laterBy (x.1 - s.now) dst i arg

/-- A message for an atoll of this package or another: a step there, or a frame. -/
def State.toAtoll (s : State) (dst : Nat) (i : Instr) (arg : Arg) (m : Msg) : State :=
  if 1000 ≤ dst then s.sendFrame m else s.acrossFrom s.now dst i arg

end Sys2Proof.Machine
end

