-- ==== Sys2Proof/Machine/Control.lean ====
section
/-! DEFINITION. The meanings of class 0x2, of the timed regions, and the wake latch (R117 to R119, R126 to R128,
R134).  The issue step has already set the next bundle in sequence to issue at t+1; a taken branch moves it. -/

namespace Sys2Proof.Machine

/-- A modifier of class 0xF: its fields act through the syllable that follows it in the bundle (R53, R54). -/
def execPfx (_ : PfxOp) (s : State) : Res := .next s

/-- The target of off: PC + 8·off, modulo 2^48 (R48, R117). -/
def State.target (s : State) (off : BitVec 32) : Nat :=
  (BitVec.ofNat 48 s.a.st.bpc + off.signExtend 48 * 8).toNat

/-- T_PRIV with a reason and the syllable's position (R140). -/
def State.privInfo (s : State) (reason : Nat) : Nat := reason + s.a.st.pos * 256

/-- A jump from user level into privileged space (R108). -/
def State.jumpTrap (s : State) (t : Nat) : Option Trap :=
  trapIf (!s.privileged && decide (2 ^ 47 ≤ t)) tPriv (s.privInfo 2)

/-- The next bundle is the one at `t`, issuing `k` core cycles from now (R117). -/
def State.jumpTo (s : State) (t k : Nat) : State :=
  (s.updSt fun st => { st with pc := t, ready := s.coreT k }).fetchAt (s.coreT k)

/-- br is taken when pc reads true, or false with N = 1 (R117). -/
def State.brTaken (s : State) (o : BrOp) : Bool := s.rdP o.c != o.n

def trapsBr (o : BrOp) (s : State) : Option Trap := if s.brTaken o then s.jumpTrap (s.target o.off) else none

/-- Conditional branch (R117). -/
def execBr (o : BrOp) (s : State) : Res :=
  s.unless (trapsBr o s) (if s.brTaken o then s.jumpTo (s.target o.off) 3 else s)

def trapsJmp (o : JOp) (s : State) : Option Trap := s.jumpTrap (s.target o.off)

/-- Jump (R117). -/
def execJmp (o : JOp) (s : State) : Res := s.unless (trapsJmp o s) (s.jumpTo (s.target o.off) 3)

def trapsCall (o : CallOp) (s : State) : Option Trap := s.jumpTrap (s.target o.off)

/-- Jump, with the link register written at t+1 (R113, R117). -/
def execCall (o : CallOp) (s : State) : Res :=
  s.unless (trapsCall o s)
    ((s.landIn 1 (.s o.c) (BitVec.ofNat 64 s.a.st.npc)).jumpTo (s.target o.off) 3)

/-- The address of ret: bits [2:0] taken as 0, modulo 2^48 (R61, R117). -/
def State.retTarget (s : State) (o : RetOp) : Nat := fld (s.rdS o.c) 3 45 * 8

def trapsRet (o : RetOp) (s : State) : Option Trap := s.jumpTrap (s.retTarget o)

/-- Jump to the address in a register (R117). -/
def execRet (o : RetOp) (s : State) : Res := s.unless (trapsRet o s) (s.jumpTo (s.retTarget o) 3)

/-- loop jumps when LC is above 1 (R118). -/
def State.loopTaken (s : State) : Bool := s.a.st.lc != 0 && s.a.st.lc != 1

def trapsLoop (o : JOp) (s : State) : Option Trap := if s.loopTaken then s.jumpTrap (s.target o.off) else none

/-- LC counts down and the loop is taken while it is not 0; the target issues at t+1 (R118). -/
def execLoop (o : JOp) (s : State) : Res :=
  s.unless (trapsLoop o s)
    (if s.a.st.lc = 0 then s
     else
       let s1 := s.landIn 1 (.sys .lc s.now) (s.a.st.lc - 1)
       if s.loopTaken then s1.jumpTo (s.target o.off) 1 else s1)

/-- The strand waits with its bundle issued, beside what other syllables of the bundle wait for: no bundle issues until every
wait has ended (R36). -/
def State.waitFor (s : State) (w : Wait) : State :=
  (s.updSt fun st => if st.wait = .none then { st with wait := w, more := [] } else { st with more := st.more ++ [w] }).noFetchOf s.a.n

/-- A wait ends: when it was the last, the next bundle issues at tick `t`, and no earlier than in the order of issue or than
another wait of the bundle has allowed (R36, R117). -/
def State.resumeAt (s : State) (w : Wait) (t : Nat) : State :=
  match s.a.st.waits.erase w with
  | [] => (s.updSt fun st => { st with wait := .none, more := [] }).fetchAt (max t s.a.st.ready)
  | x :: r => s.updSt fun st => { st with wait := x, more := r, ready := max t st.ready }

/-- A wait ends: the next bundle issues no earlier than the k-th core cycle from now. -/
def State.resume (s : State) (w : Wait) (k : Nat) : State := s.resumeAt w (s.coreT k)

def Wait.isIdle : Wait → Bool
  | .idle _ => true
  | _ => false

/-- A fresh token for a timeout, so that a timeout of an earlier wait does nothing. -/
def State.newToken (s : State) : State := s.updSt fun st => { st with token := st.token + 1 }

/-- idle returns at once when the wake latch is set, else waits for it or for 65,536 core cycles (R119). -/
def execIdle (s : State) : Res :=
  s.unless s.rgnIll
    (if s.a.st.wake then s.updSt fun st => { st with wake := false }
     else
       let s := s.newToken
       (s.waitFor (.idle s.a.st.token)).sched (s.coreT 65536) 3 .none .idleTimeout (.n s.a.st.token))

/-- 65,536 core cycles have passed at idle: idle returns (R119). -/
def execIdleTimeout (s : State) : Res :=
  match s.ev.arg with
  | .n k => .next (if s.a.st.waits.contains (.idle k) then (s.updSt fun st => { st with wake := false }).resume (.idle k) 1 else s)
  | _ => .next s

/-- The wake latch of the atoll in focus is set; a waiting idle clears it and returns one core cycle later (R119). -/
def State.setWake (s : State) : State :=
  match s.waiting Wait.isIdle with
  | some w => (s.updSt fun st => { st with wake := false }).resume w 1
  | none => s.updSt fun st => { st with wake := true }

/-- A wait that a strand event or an exchange fault interrupts: its bundle counts as not issued (R134, R382). -/
def Wait.interruptible : Wait → Bool
  | .idle _ | .await _ _ _ | .realign | .dsync _ _ | .lwprec _ _ _ | .bwait _ _ | .pager => true
  | _ => false

/-- The waits at realign and dsync, as a save area marks them (R436). -/
def Wait.mark : Wait → Nat
  | .realign => 1
  | .dsync l _ => 2 ^ (8 + l)
  | _ => 0

/-- The waiting bundle is to issue again, once nothing that it waits for must first end (R134). -/
def State.interrupt (s : State) : State :=
  if s.a.st.wait.interruptible ∧ s.a.st.more.all Wait.interruptible then
    (s.updSt fun st => { st with pc := st.bpc, wait := .none, more := [], pend := st.waits.foldl (fun n w => n + w.mark) 0 }).fetchAt (s.coreT 0)
  else s

/-- A strand event is requested; an interruptible wait takes it at once (R134, R119). -/
def State.requestEvent (s : State) : State :=
  let s := s.updSt fun st => { st with evReq := true, wake := true }
  s.interrupt

/-- The region is looked at when the core cycle of tick `t` begins, before anything in it (R131). -/
def State.lookAt (s : State) (t : Nat) : State :=
  { s with agenda := insertEv ⟨t, 0, 0, s.a.n, .none, .bundleFetch, .n 1⟩ s.agenda }

/-- rgn opens a region of n core cycles, its mode taken now; the overrun is due when cycle n begins (R126, R128). -/
def execRgn (o : SyImm) (s : State) : Res :=
  s.unless s.rgnIll
    (((s.updSt fun st => { st with rgn := some ⟨st.atc, o.imm.toNat, st.sbmode.getLsbD 0⟩ }).sched
      (s.coreT o.imm.toNat) 6 .core .regionOverrun .none).lookAt (s.coreT 1))

/-- rgnend outside a region raises T_ILL (R127). -/
def trapsRgnend (s : State) : Option Trap := trapIf s.a.st.rgn.isNone tIll s.a.st.pos

/-- rgnend closes the region (R127). -/
def execRgnend (s : State) : Res := s.unless (trapsRgnend s) s.leaveRegion

/-- Cycle n has begun and no bundle with rgnend has issued in it: T_RGNOVER (R128). -/
def execRegionOverrun (s : State) : Res :=
  match s.a.st.rgn with
  | some r => .next (if s.a.st.run = .run then s.takeTrap tRgnOver r.n s.a.st.pc true else s.leaveRegion)
  | none => .next s

/-- rti at ACT = 0, or at user level into privileged space; rti in a region (R141). -/
def trapsRti (s : State) : Option Trap :=
  firstTrap [trapIf (!s.a.st.act) tPriv (s.privInfo 4),
    trapIf (!s.privileged && s.a.st.trpc.getLsbD 47) tPriv (s.privInfo 3), s.rgnIll]

/-- Return from a trap (R141). -/
def execRti (s : State) : Res := s.unless (trapsRti s) s.returnTrap

/-- trap n raises T_DATA of kind 0x01; its bundle has taken effect and TRPC holds the next bundle (R135, R142). -/
def execTrap (o : SyImm) (s : State) : Res :=
  .next (s.takeTrap tData (0x10000 + o.imm.toNat) s.a.st.npc s.a.st.rgn.isSome)

/-- The strand takes a strand event at an event point: it issues nothing more until the ladder has dealt with it
(R134, R385). -/
def execStrandEvent (s : State) : Res :=
  .next (((s.updSt fun st => { st with evReq := false, wait := .stopped, more := [], walked := none, miss := none }).noFetchOf s.a.n).sched
    s.now 6 .none .drainComplete (.n s.a.slot))

/-- The pending data flag is taken as T_DATA with its code (R196). -/
def execPendingDataTrap (s : State) : Res :=
  match s.a.st.dflag with
  | some c => .next ((s.updSt fun st => { st with dflag := none }).takeTrap tData c s.a.st.pc false)
  | none => .next s

/-- A recorded exchange fault is taken as T_XTIME (R382). -/
def execExchangeFaultTaken (s : State) : Res :=
  match s.a.st.xfault with
  | some i => .next ((s.updSt fun st => { st with xfault := none }).takeTrap tXtime i s.a.st.pc false)
  | none => .next s

end Sys2Proof.Machine
end

