-- ==== Sys2Proof/WellFormed.lean ====
section
/-! DEFINITION. Which syllables are legal as encoded: the T_ILL rules that a syllable's own fields decide
(R38 to R46, R52, R55, R100, R101, R126, R220, R221, R231 to R240, R279, R296, R297, R330).  An operand
that has no field for a reserved or unused bit cannot break R40; the decoder checks those bits. -/

namespace Sys2Proof

/-- The width in bits of an element type (R41); 0 for the reserved codes. -/
def etWidth (et : BitVec 4) : Nat :=
  match et.toNat with
  | 0 | 1 | 7 | 8 => 8
  | 2 | 4 | 5 => 16
  | 3 | 6 => 32
  | 9 | 10 => 4
  | 11 | 12 => 2
  | 13 => 64
  | _ => 0

/-- INT8, UINT8, INT16, INT32 and INT64 (R221). -/
def etInt (et : BitVec 4) : Bool := et.toNat ≤ 3 || et == 13#4

/-- FP16, BF16 and FP32 (R228). -/
def etFloat (et : BitVec 4) : Bool := 4 ≤ et.toNat && et.toNat ≤ 6

/-- Any defined type (R41). -/
def etAny (et : BitVec 4) : Bool := et.toNat ≤ 13

/-- The types of a conversion: 0x0 to 0xB and 0xD (R231). -/
def etConv (et : BitVec 4) : Bool := et.toNat ≤ 11 || et == 13#4

/-- The types of 8 bits or more. -/
def etByte (et : BitVec 4) : Bool := et.toNat ≤ 8 || et == 13#4

/-- The targets of shoal scaling: E4M3, E5M2, FP4, H4, INT8 and T2 (R234). -/
def etShoal (et : BitVec 4) : Bool := et == 0#4 || (7 ≤ et.toNat && et.toNat ≤ 11)

/-- The source modifier `m` of R45 is legal for a register of `n` elements (R46). -/
def smodLegal (m : BitVec 12) (n : Nat) : Bool :=
  let mc := (bits m 10 2).toNat
  let g := (bits m 6 4).toNat
  let dist := (bits m 0 6).toNat
  if mc = 0 then (bits m 0 10).toNat == 0
  else g < 8 && 2 ^ g ≤ n && dist < 2 ^ g && !(mc == 2 && dist == 0)

/-- The number of elements of a type (R41). -/
def etCount (et : BitVec 4) : Nat := 1024 / etWidth et

def wfV3 (ets : BitVec 4 → Bool) (w : Bool) (o : V3) : Bool :=
  ets o.et && smodLegal o.smod (etCount o.et) && (w || (o.d != o.a && o.d != o.b))

def wfV2 (ets : BitVec 4 → Bool) (w : Bool) (o : V2) : Bool := ets o.et && (w || o.d != o.a)

def wfV3M (o : V3M) : Bool := etInt o.et && smodLegal o.smod (etCount o.et)

def wfSel (w : Bool) (o : VMOp) : Bool := etByte o.et && (w || (o.d != o.a && o.d != o.b))

def wfV4 (w : Bool) (o : V4) : Bool := etFloat o.et && (w || (o.d != o.a && o.d != o.b && o.d != o.c))

def wfZm (o : VZm) : Bool := o.a.toNat ≤ 1920

def wfFc (o : VFc) : Bool := o.x.toNat ≤ 5 && etFloat o.et

/-- One of the widths is the other times at most 16 (R231). -/
def ratioOk (a b : Nat) : Bool := a ≤ 16 * b && b ≤ 16 * a

/-- vcvt (R231): the part index stays below the number of parts. -/
def wfCvt (w : Bool) (o : VC) : Bool :=
  let wx := etWidth o.x
  let wy := etWidth o.y
  o.b == 0#11 && o.et == 0#4 && etConv o.x && etConv o.y && ratioOk wx wy &&
    o.i.toNat < max 1 (max (wx / wy) (wy / wx)) && (w || o.d != o.a)

/-- vcvr (R232). -/
def wfCvr (w : Bool) (o : VC) : Bool :=
  let wx := etWidth o.x
  etConv o.x && etConv o.y && etConv o.et && o.et != 10#4 && etWidth o.y ≤ wx && etWidth o.et ≤ wx &&
    ratioOk wx (etWidth o.y) && ratioOk wx (etWidth o.et) && o.i.toNat < wx / etWidth o.y &&
    o.d != o.b && (w || (o.d != o.a && o.b != o.a))

/-- vmerge (R233). -/
def wfMerge (w : Bool) (o : VC) : Bool :=
  let m := 1024 / max (etWidth o.x) (max (etWidth o.y) (etWidth o.et))
  etConv o.x && etConv o.y && etConv o.et && o.i.toNat < 1024 / (m * etWidth o.x) &&
    (w || (o.d != o.a && o.d != o.b))

/-- vshoal (R234). -/
def wfShoal (w : Bool) (o : VC) : Bool :=
  o.b == 0#11 && o.et == 0#4 && etFloat o.x && etShoal o.y && (w || o.d != o.a)

/-- vscale (R235): the narrowing, the widening and the fixed direction. -/
def wfScale (w : Bool) (o : VC) : Bool :=
  let wx := etWidth o.x
  let wy := etWidth o.y
  o.et == 0#4 && (w || (o.d != o.a && o.d != o.b)) &&
    ((etFloat o.x && etShoal o.y && o.i.toNat < wx / wy) || (etShoal o.x && etFloat o.y && o.i.toNat < wy / wx) ||
      (o.x == 3#4 && o.y == 6#4))

/-- vbpenc (R236): the q source registers stay below v2048 and do not hold the destination. -/
def wfBpenc (w : Bool) (o : VC) : Bool :=
  let q := etWidth o.x / 2
  etFloat o.x && o.y == 0#4 && o.et == 0#4 && o.a.toNat + q ≤ 2048 &&
    !(o.a.toNat ≤ o.d.toNat && o.d.toNat < o.a.toNat + q) && (w || o.d != o.b)

/-- vbpdec (R237): the 16 destinations stay below v2048 and do not hold the source. -/
def wfBpdec (_w : Bool) (o : VC) : Bool :=
  o.b == 0#11 && o.y == 0#4 && o.et == 0#4 && (bits o.x 1 2) == 0#2 &&
    16 * (bits o.x 0 1).toNat + o.i.toNat + 1 ≤ 24 && o.d.toNat + 16 ≤ 2048 &&
    !(o.d.toNat ≤ o.a.toNat && o.a.toNat < o.d.toNat + 16)

/-- vredadd (R238). -/
def wfRedadd (w : Bool) (o : VC) : Bool :=
  o.b == 0#11 && o.et == 0#4 && (w || o.d != o.a) && o.i.toNat < 1024 / etWidth o.y &&
    ((etInt o.x && (o.y == 3#4 || o.y == 13#4) && etWidth o.x ≤ etWidth o.y) || (etFloat o.x && o.y == 6#4))

/-- vredmax and vredmin (R238). -/
def wfRedm (w : Bool) (o : VC) : Bool :=
  o.b == 0#11 && o.et == 0#4 && (w || o.d != o.a) && o.y == o.x && (etInt o.x || etFloat o.x) &&
    o.i.toNat < 1024 / etWidth o.y

/-- vscan (R239). -/
def wfScan (w : Bool) (o : VC) : Bool :=
  o.b == 0#11 && o.et == 0#4 && (w || o.d != o.a) && o.y == o.x && (etInt o.x || etFloat o.x) &&
    2 ^ o.i.toNat ≤ etCount o.x

def wfMk (w : Bool) (o : VK) : Bool := w || (o.md != o.ma && o.md != o.mb)

def wfMk2 (w : Bool) (o : VK2) : Bool := w || o.md != o.ma

/-- A handle field is zero for SP and RSP (R51). -/
def wfSpace (sp : BitVec 2) (h : HReg) : Bool := 2 ≤ sp.toNat || h == 0#5

def wfC (o : COp) : Bool := wfSpace o.ds o.dh && wfSpace o.ss o.sh

/-- The width of the source type of cpys: 0 FP32, 1 BF16, 2 FP16 (R296). -/
def cpysEt (x : BitVec 2) : BitVec 4 := if x = 0#2 then 6#4 else if x = 1#2 then 5#4 else 4#4

def wfCs (o : CsOp) : Bool :=
  wfC o.c && o.x != 3#2 && o.c.da != 63#6 && etConv o.y && etConv o.z && o.z != 10#4 && o.z != 11#4 &&
    etWidth o.y ≤ etWidth (cpysEt o.x) && etWidth o.z ≤ etWidth (cpysEt o.x)

def wfPp (o : PpOp) : Bool :=
  wfSpace o.ds o.dh && o.da != 63#6 && (o.x || o.f == 0#6) &&
    (o.y == 0#4 || o.y == 1#4 || o.y == 2#4 || o.y == 4#4 || o.y == 5#4 || o.y == 7#4 || o.y == 8#4)

/-- lradd: LOC or FWD is set, and the fields its mode leaves unused are zero (R330). -/
def wfLradd (o : LraddOp) : Bool :=
  (o.loc || o.fwd) && (o.loc || o.a == 0#6) && (o.fwd || (o.b == 0#6 && o.u == 0#8)) && (!o.s2 || o.d == 0#6)

/-- The prefix: a field whose valid bit is 0 is zero, and the cache policy is defined (R52, R55). -/
def wfPfx (o : PfxOp) : Bool :=
  (o.kv || o.k == 0#4) && (o.lvv || o.lv == 0#3) && (o.cv || o.cp == 0#3) && o.cp.toNat ≤ 3

/-- The syllable's own fields raise no T_ILL.  The steps that are no syllables have no fields to check. -/
def Instr.wf : Instr → Bool
  | .rgn o => 1 ≤ o.imm.toNat && o.imm.toNat ≤ 1024
  | .amoadd o | .amoxor o | .amomin o | .amomax o | .amoswp o | .amocas o => o.G || o.h == 0#5
  | .pfx o => wfPfx o
  | .vxor o | .vxand o | .vand o | .vor o => wfV3 etAny false o
  | .evxor o | .evxand o | .evand o | .evor o => wfV3 etAny true o
  | .vadd o | .vsub o | .vmac o | .vmas o | .vshl o | .vshr o | .vsra o | .vrotl o | .vmin o | .vmax o
  | .vmul o => wfV3 etInt false o
  | .evadd o | .evsub o | .evmac o | .evmas o | .evshl o | .evshr o | .evsra o | .evrotl o | .evmin o | .evmax o
  | .evmul o => wfV3 etInt true o
  | .vneg o | .vabs o | .vpopc o | .vclz o => wfV2 etInt false o
  | .evneg o | .evabs o | .evpopc o | .evclz o => wfV2 etInt true o
  | .vnot o => wfV2 etAny false o
  | .evnot o => wfV2 etAny true o
  | .vswap o => o.d != o.a
  | .vcswap o => o.d != o.a && etByte o.et
  | .vcmpeq o | .evcmpeq o | .vcmplt o | .evcmplt o | .vcmple o | .evcmple o => wfV3M o
  | .vsel o => wfSel false o
  | .evsel o => wfSel true o
  | .vzmask o | .evzmask o => wfZm o
  | .vfadd o | .vfsub o | .vfmul o | .vfmin o | .vfmax o => wfV3 etFloat false o
  | .evfadd o | .evfsub o | .evfmul o | .evfmin o | .evfmax o => wfV3 etFloat true o
  | .vfma o => wfV4 false o
  | .evfma o => wfV4 true o
  | .vfneg o | .vfabs o | .vfrcp o | .vfrsq o | .vfexp2 o | .vflog2 o | .vftanh o => wfV2 etFloat false o
  | .evfneg o | .evfabs o | .evfrcp o | .evfrsq o | .evfexp2 o | .evflog2 o | .evftanh o => wfV2 etFloat true o
  | .vfcmp o | .evfcmp o => wfFc o
  | .vcvt o => wfCvt false o | .evcvt o => wfCvt true o
  | .vcvr o => wfCvr false o | .evcvr o => wfCvr true o
  | .vmerge o => wfMerge false o | .evmerge o => wfMerge true o
  | .vshoal o => wfShoal false o | .evshoal o => wfShoal true o
  | .vscale o => wfScale false o | .evscale o => wfScale true o
  | .vbpenc o => wfBpenc false o | .evbpenc o => wfBpenc true o
  | .vbpdec o => wfBpdec false o | .evbpdec o => wfBpdec true o
  | .vredadd o => wfRedadd false o | .evredadd o => wfRedadd true o
  | .vredmax o | .vredmin o => wfRedm false o
  | .evredmax o | .evredmin o => wfRedm true o
  | .vscan o => wfScan false o | .evscan o => wfScan true o
  | .vldx o => o.et.toNat ≤ 10 && o.d != o.a || o.et == 13#4 && o.d != o.a
  | .evldx o => o.et.toNat ≤ 10 || o.et == 13#4
  | .vperm o => wfV3 etByte false o
  | .evperm o => wfV3 etByte true o
  | .vrmg o => o.d != o.a && o.d != o.b
  | .vbcast o | .evbcast o => etAny o.et
  | .vext o => etAny o.et && o.imm.toNat < etCount o.et
  | .vins o | .evins o => etAny o.et && o.imm.toNat < etCount o.et
  | .mand o | .mor o => wfMk false o
  | .mnot o => wfMk2 false o
  | .rtapl o | .rtinvApl o => o.p.toNat + o.c.toNat + 2 ≤ 32
  | .rtsolve o => o.n.toNat + 1 ≤ 31 && o.n.toNat + 1 ≤ o.c.toNat
  | .rtrd o | .rtwr o => o.i.toNat + o.c.toNat + 1 ≤ 32
  | .rtgainSet o => 12 ≤ o.n.toNat && o.n.toNat ≤ 24 && o.cm != 3#2
  | .cpy o => wfC o
  | .cpyx o => wfC o && o.ds.toNat ≤ 1
  | .cpycPack o => wfC o.c && o.gran != 3#2 && o.c.da != 63#6
  | .cpycUnpack o => wfC o.c && o.gran != 3#2 && o.c.sa != 63#6
  | .cpyg o => wfC o.c && (o.c.ss == 2#2) != (o.c.ds == 2#2)
  | .cpys o => wfCs o
  | .cpyz o => wfSpace o.ds o.dh
  | .cpyv o => wfC o.c && etConv o.x && etConv o.y && ratioOk (etWidth o.x) (etWidth o.y)
  | .ppcmp o => wfPp o
  | .lsend o => o.p.toNat ≤ 23
  | .lrecv o => o.n.toNat ≤ 23
  | .lradd o => wfLradd o
  | .lwprec o => o.n.toNat ≤ 24
  | .wake o | .gate o => o.mask != 0#4
  | .clkdiv o => o.dom.toNat ≤ 5 && o.n != 0#6
  | _ => true

end Sys2Proof
end

