-- ==== Sys2Proof/Decode.lean ====
section
/-! DEFINITION. Decoding and encoding of syllables (R30, R31, R38 to R52, R58 to R69).  A syllable is read as
a list of fields from bit 63 down: S, class, opcode and the operand fields of its format.  An encoding no rule
gives a meaning is rejected by name; the issue step turns that rejection into T_ILL (R58). -/

namespace Sys2Proof

/-- A field: its width and its value. -/
abbrev Fld := Nat × Nat

/-- The width of a list of fields. -/
def fldWidth : List Nat → Nat
  | [] => 0
  | w :: r => w + fldWidth r

/-- The word made of fields, the first one highest (R30). -/
def pack : List Fld → Nat
  | [] => 0
  | (w, v) :: r => v % 2 ^ w * 2 ^ fldWidth (r.map (·.1)) + pack r

/-- The values of the fields of the given widths, the first one highest. -/
def unpack : List Nat → Nat → List Nat
  | [], _ => []
  | w :: r, x => x / 2 ^ fldWidth r % 2 ^ w :: unpack r x

def boolFld (b : Bool) : Fld := (1, b.toNat)

def bvFld {w : Nat} (x : BitVec w) : Fld := (w, x.toNat)

/-- sv and st of a stamp, eleven bits (R50). -/
def stampFld : Option (BitVec 10) → Fld
  | none => (11, 0)
  | some t => (11, 1024 + t.toNat)

/-- With sv = 0, st must be 0 (R50). -/
def stampOf (x : Nat) : Option (Option (BitVec 10)) :=
  if x = 0 then some none else if 1024 ≤ x then some (some (BitVec.ofNat 10 x)) else none

/-- The numbers of the system registers (R63). -/
def SysReg.num : SysReg → Nat
  | .aclass => 0x000 | .sbmode => 0x001 | .enmeterLo => 0x010 | .enmeterHi => 0x011
  | .enquotaLo => 0x012 | .enquotaHi => 0x013 | .tvec => 0x020 | .qsw => 0x021 | .domain => 0x030
  | .gtc => 0x040 | .atc => 0x041 | .laglvl => 0x050 | .idlemx => 0x051 | .grottoBase => 0x060
  | .grottoRows => 0x061 | .hovf => 0x062 | .lc => 0x070 | .trpc => 0x080 | .trcause => 0x081 | .trinfo => 0x082

/-- The system register of a number; a number outside the table raises T_ILL (R63). -/
def sysOf (n : Nat) : Option SysReg :=
  match n with
  | 0x000 => some .aclass | 0x001 => some .sbmode | 0x010 => some .enmeterLo | 0x011 => some .enmeterHi
  | 0x012 => some .enquotaLo | 0x013 => some .enquotaHi | 0x020 => some .tvec | 0x021 => some .qsw
  | 0x030 => some .domain | 0x040 => some .gtc | 0x041 => some .atc | 0x050 => some .laglvl
  | 0x051 => some .idlemx | 0x060 => some .grottoBase | 0x061 => some .grottoRows | 0x062 => some .hovf
  | 0x070 => some .lc | 0x080 => some .trpc | 0x081 => some .trcause | 0x082 => some .trinfo
  | _ => none

/-! ## The operand fields of each form -/

def fldsR3 (o : R3) : List Fld :=
  [bvFld o.d, bvFld o.a, bvFld o.b, (6, 0), (23, 0)]

def getR3 : List Nat → Option R3
  | [x_d, x_a, x_b, u0, u1] =>
    if u0 = 0 ∧ u1 = 0 then some { d := BitVec.ofNat 6 x_d, a := BitVec.ofNat 6 x_a, b := BitVec.ofNat 6 x_b } else none
  | _ => none

def widR3 : List Nat := [6, 6, 6, 6, 23]

def fldsR2 (o : R2) : List Fld :=
  [bvFld o.d, bvFld o.a, (6, 0), (6, 0), (23, 0)]

def getR2 : List Nat → Option R2
  | [x_d, x_a, u0, u1, u2] =>
    if u0 = 0 ∧ u1 = 0 ∧ u2 = 0 then some { d := BitVec.ofNat 6 x_d, a := BitVec.ofNat 6 x_a } else none
  | _ => none

def widR2 : List Nat := [6, 6, 6, 6, 23]

def fldsRsel (o : RSel) : List Fld :=
  [bvFld o.d, bvFld o.a, bvFld o.b, (2, 0), bvFld o.c, (23, 0)]

def getRsel : List Nat → Option RSel
  | [x_d, x_a, x_b, u0, x_c, u1] =>
    if u0 = 0 ∧ u1 = 0 then some { d := BitVec.ofNat 6 x_d, a := BitVec.ofNat 6 x_a, b := BitVec.ofNat 6 x_b, c := BitVec.ofNat 4 x_c } else none
  | _ => none

def widRsel : List Nat := [6, 6, 6, 2, 4, 23]

def fldsRcmp (o : RCmp) : List Fld :=
  [(2, 0), bvFld o.p, bvFld o.a, bvFld o.b, (6, 0), (23, 0)]

def getRcmp : List Nat → Option RCmp
  | [u0, x_p, x_a, x_b, u1, u2] =>
    if u0 = 0 ∧ u1 = 0 ∧ u2 = 0 then some { p := BitVec.ofNat 4 x_p, a := BitVec.ofNat 6 x_a, b := BitVec.ofNat 6 x_b } else none
  | _ => none

def widRcmp : List Nat := [2, 4, 6, 6, 6, 23]

def fldsP3 (o : P3) : List Fld :=
  [(2, 0), bvFld o.d, (2, 0), bvFld o.a, (2, 0), bvFld o.b, (6, 0), (23, 0)]

def getP3 : List Nat → Option P3
  | [u0, x_d, u1, x_a, u2, x_b, u3, u4] =>
    if u0 = 0 ∧ u1 = 0 ∧ u2 = 0 ∧ u3 = 0 ∧ u4 = 0 then some { d := BitVec.ofNat 4 x_d, a := BitVec.ofNat 4 x_a, b := BitVec.ofNat 4 x_b } else none
  | _ => none

def widP3 : List Nat := [2, 4, 2, 4, 2, 4, 6, 23]

def fldsP2 (o : P2) : List Fld :=
  [(2, 0), bvFld o.d, (2, 0), bvFld o.a, (6, 0), (6, 0), (23, 0)]

def getP2 : List Nat → Option P2
  | [u0, x_d, u1, x_a, u2, u3, u4] =>
    if u0 = 0 ∧ u1 = 0 ∧ u2 = 0 ∧ u3 = 0 ∧ u4 = 0 then some { d := BitVec.ofNat 4 x_d, a := BitVec.ofNat 4 x_a } else none
  | _ => none

def widP2 : List Nat := [2, 4, 2, 4, 6, 6, 23]

def fldsI3 (o : I3) : List Fld :=
  [bvFld o.d, bvFld o.a, bvFld o.imm, (3, 0)]

def getI3 : List Nat → Option I3
  | [x_d, x_a, x_imm, u0] =>
    if u0 = 0 then some { d := BitVec.ofNat 6 x_d, a := BitVec.ofNat 6 x_a, imm := BitVec.ofNat 32 x_imm } else none
  | _ => none

def widI3 : List Nat := [6, 6, 32, 3]

def fldsIsh (o : ISh) : List Fld :=
  [bvFld o.d, bvFld o.a, (26, 0), bvFld o.n, (3, 0)]

def getIsh : List Nat → Option ISh
  | [x_d, x_a, u0, x_n, u1] =>
    if u0 = 0 ∧ u1 = 0 then some { d := BitVec.ofNat 6 x_d, a := BitVec.ofNat 6 x_a, n := BitVec.ofNat 6 x_n } else none
  | _ => none

def widIsh : List Nat := [6, 6, 26, 6, 3]

def fldsIli (o : ILi) : List Fld :=
  [bvFld o.d, (6, 0), bvFld o.imm, (3, 0)]

def getIli : List Nat → Option ILi
  | [x_d, u0, x_imm, u1] =>
    if u0 = 0 ∧ u1 = 0 then some { d := BitVec.ofNat 6 x_d, imm := BitVec.ofNat 32 x_imm } else none
  | _ => none

def widIli : List Nat := [6, 6, 32, 3]

def fldsBr (o : BrOp) : List Fld :=
  [(2, 0), bvFld o.c, boolFld o.n, bvFld o.off, (8, 0)]

def getBr : List Nat → Option BrOp
  | [u0, x_c, x_n, x_off, u1] =>
    if u0 = 0 ∧ u1 = 0 then some { c := BitVec.ofNat 4 x_c, n := (x_n == 1), off := BitVec.ofNat 32 x_off } else none
  | _ => none

def widBr : List Nat := [2, 4, 1, 32, 8]

def fldsJ (o : JOp) : List Fld :=
  [(7, 0), bvFld o.off, (8, 0)]

def getJ : List Nat → Option JOp
  | [u0, x_off, u1] =>
    if u0 = 0 ∧ u1 = 0 then some { off := BitVec.ofNat 32 x_off } else none
  | _ => none

def widJ : List Nat := [7, 32, 8]

def fldsCall (o : CallOp) : List Fld :=
  [bvFld o.c, (1, 0), bvFld o.off, (8, 0)]

def getCall : List Nat → Option CallOp
  | [x_c, u0, x_off, u1] =>
    if u0 = 0 ∧ u1 = 0 then some { c := BitVec.ofNat 6 x_c, off := BitVec.ofNat 32 x_off } else none
  | _ => none

def widCall : List Nat := [6, 1, 32, 8]

def fldsRet (o : RetOp) : List Fld :=
  [bvFld o.c, (33, 0), (8, 0)]

def getRet : List Nat → Option RetOp
  | [x_c, u0, u1] =>
    if u0 = 0 ∧ u1 = 0 then some { c := BitVec.ofNat 6 x_c } else none
  | _ => none

def widRet : List Nat := [6, 33, 8]

def fldsSyi (o : SyImm) : List Fld :=
  [(24, 0), bvFld o.imm, (7, 0)]

def getSyi : List Nat → Option SyImm
  | [u0, x_imm, u1] =>
    if u0 = 0 ∧ u1 = 0 then some { imm := BitVec.ofNat 16 x_imm } else none
  | _ => none

def widSyi : List Nat := [24, 16, 7]

def fldsMfsr (o : MfsrOp) : List Fld :=
  [bvFld o.d, (6, 0), (12, o.sr.num), (16, 0), (7, 0)]

def getMfsr : List Nat → Option MfsrOp
  | [x_d, u0, x_sr, u1, u2] =>
    if u0 = 0 ∧ u1 = 0 ∧ u2 = 0 then (sysOf x_sr).bind fun x_sr => some { d := BitVec.ofNat 6 x_d, sr := x_sr } else none
  | _ => none

def widMfsr : List Nat := [6, 6, 12, 16, 7]

def fldsMtsr (o : MtsrOp) : List Fld :=
  [(6, 0), bvFld o.a, (12, o.sr.num), (16, 0), (7, 0)]

def getMtsr : List Nat → Option MtsrOp
  | [u0, x_a, x_sr, u1, u2] =>
    if u0 = 0 ∧ u1 = 0 ∧ u2 = 0 then (sysOf x_sr).bind fun x_sr => some { a := BitVec.ofNat 6 x_a, sr := x_sr } else none
  | _ => none

def widMtsr : List Nat := [6, 6, 12, 16, 7]

def fldsIin1 (o : SyA) : List Fld :=
  [(6, 0), bvFld o.a, (12, 0), (16, 1), (7, 0)]

def getIin1 : List Nat → Option SyA
  | [u0, x_a, u1, u2, u3] =>
    if u0 = 0 ∧ u1 = 0 ∧ u2 = 1 ∧ u3 = 0 then some { a := BitVec.ofNat 6 x_a } else none
  | _ => none

def widIin1 : List Nat := [6, 6, 12, 16, 7]

def fldsIin2 (o : SyA) : List Fld :=
  [(6, 0), bvFld o.a, (12, 0), (16, 2), (7, 0)]

def getIin2 : List Nat → Option SyA
  | [u0, x_a, u1, u2, u3] =>
    if u0 = 0 ∧ u1 = 0 ∧ u2 = 2 ∧ u3 = 0 then some { a := BitVec.ofNat 6 x_a } else none
  | _ => none

def widIin2 : List Nat := [6, 6, 12, 16, 7]

def fldsSyd (o : SyD) : List Fld :=
  [bvFld o.d, (18, 0), (16, 0), (7, 0)]

def getSyd : List Nat → Option SyD
  | [x_d, u0, u1, u2] =>
    if u0 = 0 ∧ u1 = 0 ∧ u2 = 0 then some { d := BitVec.ofNat 6 x_d } else none
  | _ => none

def widSyd : List Nat := [6, 18, 16, 7]

def fldsMld (o : MLd) : List Fld :=
  [bvFld o.d, bvFld o.a, (6, 0), (5, 0), bvFld o.off, (1, 0), (7, 0)]

def getMld : List Nat → Option MLd
  | [x_d, x_a, u0, u1, x_off, u2, u3] =>
    if u0 = 0 ∧ u1 = 0 ∧ u2 = 0 ∧ u3 = 0 then some { d := BitVec.ofNat 6 x_d, a := BitVec.ofNat 6 x_a, off := BitVec.ofNat 16 x_off } else none
  | _ => none

def widMld : List Nat := [6, 6, 6, 5, 16, 1, 7]

def fldsMst (o : MSt) : List Fld :=
  [(6, 0), bvFld o.a, bvFld o.b, (5, 0), bvFld o.off, (1, 0), (7, 0)]

def getMst : List Nat → Option MSt
  | [u0, x_a, x_b, u1, x_off, u2, u3] =>
    if u0 = 0 ∧ u1 = 0 ∧ u2 = 0 ∧ u3 = 0 then some { a := BitVec.ofNat 6 x_a, b := BitVec.ofNat 6 x_b, off := BitVec.ofNat 16 x_off } else none
  | _ => none

def widMst : List Nat := [6, 6, 6, 5, 16, 1, 7]

def fldsGld (o : GLdOp) : List Fld :=
  [bvFld o.d, bvFld o.a, (6, 0), bvFld o.h, bvFld o.off, (1, 0), (7, 0)]

def getGld : List Nat → Option GLdOp
  | [x_d, x_a, u0, x_h, x_off, u1, u2] =>
    if u0 = 0 ∧ u1 = 0 ∧ u2 = 0 then some { d := BitVec.ofNat 6 x_d, a := BitVec.ofNat 6 x_a, h := BitVec.ofNat 5 x_h, off := BitVec.ofNat 16 x_off } else none
  | _ => none

def widGld : List Nat := [6, 6, 6, 5, 16, 1, 7]

def fldsGst (o : GStOp) : List Fld :=
  [(6, 0), bvFld o.a, bvFld o.b, bvFld o.h, bvFld o.off, (1, 0), (7, 0)]

def getGst : List Nat → Option GStOp
  | [u0, x_a, x_b, x_h, x_off, u1, u2] =>
    if u0 = 0 ∧ u1 = 0 ∧ u2 = 0 then some { a := BitVec.ofNat 6 x_a, b := BitVec.ofNat 6 x_b, h := BitVec.ofNat 5 x_h, off := BitVec.ofNat 16 x_off } else none
  | _ => none

def widGst : List Nat := [6, 6, 6, 5, 16, 1, 7]

def fldsXlat (o : XlatOp) : List Fld :=
  [(6, 0), bvFld o.a, (6, 0), bvFld o.h, (16, 0), (1, 0), (7, 0)]

def getXlat : List Nat → Option XlatOp
  | [u0, x_a, u1, x_h, u2, u3, u4] =>
    if u0 = 0 ∧ u1 = 0 ∧ u2 = 0 ∧ u3 = 0 ∧ u4 = 0 then some { a := BitVec.ofNat 6 x_a, h := BitVec.ofNat 5 x_h } else none
  | _ => none

def widXlat : List Nat := [6, 6, 6, 5, 16, 1, 7]

def fldsHinv (o : HinvOp) : List Fld :=
  [(18, 0), bvFld o.h, (16, 0), (1, 0), (7, 0)]

def getHinv : List Nat → Option HinvOp
  | [u0, x_h, u1, u2, u3] =>
    if u0 = 0 ∧ u1 = 0 ∧ u2 = 0 ∧ u3 = 0 then some { h := BitVec.ofNat 5 x_h } else none
  | _ => none

def widHinv : List Nat := [18, 5, 16, 1, 7]

def fldsFence (o : FenceOp) : List Fld :=
  [(18, 0), (5, 0), bvFld o.mask, (1, 0), (7, 0)]

def getFence : List Nat → Option FenceOp
  | [u0, u1, x_mask, u2, u3] =>
    if u0 = 0 ∧ u1 = 0 ∧ u2 = 0 ∧ u3 = 0 then some { mask := BitVec.ofNat 16 x_mask } else none
  | _ => none

def widFence : List Nat := [18, 5, 16, 1, 7]

def fldsMad (o : MAd) : List Fld :=
  [(6, 0), bvFld o.a, (6, 0), (5, 0), bvFld o.off, (1, 0), (7, 0)]

def getMad : List Nat → Option MAd
  | [u0, x_a, u1, u2, x_off, u3, u4] =>
    if u0 = 0 ∧ u1 = 0 ∧ u2 = 0 ∧ u3 = 0 ∧ u4 = 0 then some { a := BitVec.ofNat 6 x_a, off := BitVec.ofNat 16 x_off } else none
  | _ => none

def widMad : List Nat := [6, 6, 6, 5, 16, 1, 7]

def fldsMtest (o : MTest) : List Fld :=
  [(2, 0), bvFld o.p, bvFld o.a, (6, 0), (5, 0), bvFld o.off, (1, 0), (7, 0)]

def getMtest : List Nat → Option MTest
  | [u0, x_p, x_a, u1, u2, x_off, u3, u4] =>
    if u0 = 0 ∧ u1 = 0 ∧ u2 = 0 ∧ u3 = 0 ∧ u4 = 0 then some { p := BitVec.ofNat 4 x_p, a := BitVec.ofNat 6 x_a, off := BitVec.ofNat 16 x_off } else none
  | _ => none

def widMtest : List Nat := [2, 4, 6, 6, 5, 16, 1, 7]

def fldsMawait (o : MAwait) : List Fld :=
  [bvFld o.d, bvFld o.a, bvFld o.b, (5, 0), bvFld o.off, (1, 0), (7, 0)]

def getMawait : List Nat → Option MAwait
  | [x_d, x_a, x_b, u0, x_off, u1, u2] =>
    if u0 = 0 ∧ u1 = 0 ∧ u2 = 0 then some { d := BitVec.ofNat 6 x_d, a := BitVec.ofNat 6 x_a, b := BitVec.ofNat 6 x_b, off := BitVec.ofNat 16 x_off } else none
  | _ => none

def widMawait : List Nat := [6, 6, 6, 5, 16, 1, 7]

def fldsAmo (o : Amo) : List Fld :=
  [bvFld o.d, bvFld o.a, bvFld o.b, bvFld o.h, bvFld o.off, boolFld o.G, (7, 0)]

def getAmo : List Nat → Option Amo
  | [x_d, x_a, x_b, x_h, x_off, x_G, u0] =>
    if u0 = 0 then some { d := BitVec.ofNat 6 x_d, a := BitVec.ofNat 6 x_a, b := BitVec.ofNat 6 x_b, h := BitVec.ofNat 5 x_h, off := BitVec.ofNat 16 x_off, G := (x_G == 1) } else none
  | _ => none

def widAmo : List Nat := [6, 6, 6, 5, 16, 1, 7]

def fldsPfx (o : PfxOp) : List Fld :=
  [boolFld o.kv, bvFld o.k, boolFld o.lvv, bvFld o.lv, bvFld o.sp, boolFld o.cv, bvFld o.cp, (36, 0)]

def getPfx : List Nat → Option PfxOp
  | [x_kv, x_k, x_lvv, x_lv, x_sp, x_cv, x_cp, u0] =>
    if u0 = 0 then some { kv := (x_kv == 1), k := BitVec.ofNat 4 x_k, lvv := (x_lvv == 1), lv := BitVec.ofNat 3 x_lv, sp := BitVec.ofNat 2 x_sp, cv := (x_cv == 1), cp := BitVec.ofNat 3 x_cp } else none
  | _ => none

def widPfx : List Nat := [1, 4, 1, 3, 2, 1, 3, 36]

def fldsV3 (o : V3) : List Fld :=
  [bvFld o.d, bvFld o.a, bvFld o.b, bvFld o.smod, bvFld o.et, bvFld o.ramp]

def getV3 : List Nat → Option V3
  | [x_d, x_a, x_b, x_smod, x_et, x_ramp] =>
    some { d := BitVec.ofNat 11 x_d, a := BitVec.ofNat 11 x_a, b := BitVec.ofNat 11 x_b, smod := BitVec.ofNat 12 x_smod, et := BitVec.ofNat 4 x_et, ramp := BitVec.ofNat 2 x_ramp }
  | _ => none

def widV3 : List Nat := [11, 11, 11, 12, 4, 2]

def fldsV2 (o : V2) : List Fld :=
  [bvFld o.d, bvFld o.a, (11, 0), (12, 0), bvFld o.et, bvFld o.ramp]

def getV2 : List Nat → Option V2
  | [x_d, x_a, u0, u1, x_et, x_ramp] =>
    if u0 = 0 ∧ u1 = 0 then some { d := BitVec.ofNat 11 x_d, a := BitVec.ofNat 11 x_a, et := BitVec.ofNat 4 x_et, ramp := BitVec.ofNat 2 x_ramp } else none
  | _ => none

def widV2 : List Nat := [11, 11, 11, 12, 4, 2]

def fldsVsw (o : VSw) : List Fld :=
  [bvFld o.d, bvFld o.a, (11, 0), (12, 0), (4, 0), bvFld o.ramp]

def getVsw : List Nat → Option VSw
  | [x_d, x_a, u0, u1, u2, x_ramp] =>
    if u0 = 0 ∧ u1 = 0 ∧ u2 = 0 then some { d := BitVec.ofNat 11 x_d, a := BitVec.ofNat 11 x_a, ramp := BitVec.ofNat 2 x_ramp } else none
  | _ => none

def widVsw : List Nat := [11, 11, 11, 12, 4, 2]

def fldsVcsw (o : VCSw) : List Fld :=
  [bvFld o.d, bvFld o.a, (11, 0), bvFld o.m, (8, 0), bvFld o.et, bvFld o.ramp]

def getVcsw : List Nat → Option VCSw
  | [x_d, x_a, u0, x_m, u1, x_et, x_ramp] =>
    if u0 = 0 ∧ u1 = 0 then some { d := BitVec.ofNat 11 x_d, a := BitVec.ofNat 11 x_a, m := BitVec.ofNat 4 x_m, et := BitVec.ofNat 4 x_et, ramp := BitVec.ofNat 2 x_ramp } else none
  | _ => none

def widVcsw : List Nat := [11, 11, 11, 4, 8, 4, 2]

def fldsV3m (o : V3M) : List Fld :=
  [(7, 0), bvFld o.md, bvFld o.a, bvFld o.b, bvFld o.smod, bvFld o.et, bvFld o.ramp]

def getV3m : List Nat → Option V3M
  | [u0, x_md, x_a, x_b, x_smod, x_et, x_ramp] =>
    if u0 = 0 then some { md := BitVec.ofNat 4 x_md, a := BitVec.ofNat 11 x_a, b := BitVec.ofNat 11 x_b, smod := BitVec.ofNat 12 x_smod, et := BitVec.ofNat 4 x_et, ramp := BitVec.ofNat 2 x_ramp } else none
  | _ => none

def widV3m : List Nat := [7, 4, 11, 11, 12, 4, 2]

def fldsVsel (o : VMOp) : List Fld :=
  [bvFld o.d, bvFld o.a, bvFld o.b, bvFld o.m, (8, 0), bvFld o.et, bvFld o.ramp]

def getVsel : List Nat → Option VMOp
  | [x_d, x_a, x_b, x_m, u0, x_et, x_ramp] =>
    if u0 = 0 then some { d := BitVec.ofNat 11 x_d, a := BitVec.ofNat 11 x_a, b := BitVec.ofNat 11 x_b, m := BitVec.ofNat 4 x_m, et := BitVec.ofNat 4 x_et, ramp := BitVec.ofNat 2 x_ramp } else none
  | _ => none

def widVsel : List Nat := [11, 11, 11, 4, 8, 4, 2]

def fldsVasz (o : VA) : List Fld :=
  [(11, 0), bvFld o.a, (11, 0), (12, 0), (4, 0), bvFld o.ramp]

def getVasz : List Nat → Option VA
  | [u0, x_a, u1, u2, u3, x_ramp] =>
    if u0 = 0 ∧ u1 = 0 ∧ u2 = 0 ∧ u3 = 0 then some { a := BitVec.ofNat 11 x_a, ramp := BitVec.ofNat 2 x_ramp } else none
  | _ => none

def widVasz : List Nat := [11, 11, 11, 12, 4, 2]

def fldsVzm (o : VZm) : List Fld :=
  [(7, 0), bvFld o.md, bvFld o.a, (11, 0), (12, 0), (4, 0), bvFld o.ramp]

def getVzm : List Nat → Option VZm
  | [u0, x_md, x_a, u1, u2, u3, x_ramp] =>
    if u0 = 0 ∧ u1 = 0 ∧ u2 = 0 ∧ u3 = 0 then some { md := BitVec.ofNat 4 x_md, a := BitVec.ofNat 11 x_a, ramp := BitVec.ofNat 2 x_ramp } else none
  | _ => none

def widVzm : List Nat := [7, 4, 11, 11, 12, 4, 2]

def fldsV4 (o : V4) : List Fld :=
  [bvFld o.d, bvFld o.a, bvFld o.b, bvFld o.c, (1, 0), bvFld o.et, bvFld o.ramp]

def getV4 : List Nat → Option V4
  | [x_d, x_a, x_b, x_c, u0, x_et, x_ramp] =>
    if u0 = 0 then some { d := BitVec.ofNat 11 x_d, a := BitVec.ofNat 11 x_a, b := BitVec.ofNat 11 x_b, c := BitVec.ofNat 11 x_c, et := BitVec.ofNat 4 x_et, ramp := BitVec.ofNat 2 x_ramp } else none
  | _ => none

def widV4 : List Nat := [11, 11, 11, 11, 1, 4, 2]

def fldsVfc (o : VFc) : List Fld :=
  [(7, 0), bvFld o.md, bvFld o.a, bvFld o.b, bvFld o.x, (8, 0), bvFld o.et, bvFld o.ramp]

def getVfc : List Nat → Option VFc
  | [u0, x_md, x_a, x_b, x_x, u1, x_et, x_ramp] =>
    if u0 = 0 ∧ u1 = 0 then some { md := BitVec.ofNat 4 x_md, a := BitVec.ofNat 11 x_a, b := BitVec.ofNat 11 x_b, x := BitVec.ofNat 4 x_x, et := BitVec.ofNat 4 x_et, ramp := BitVec.ofNat 2 x_ramp } else none
  | _ => none

def widVfc : List Nat := [7, 4, 11, 11, 4, 8, 4, 2]

def fldsVc (o : VC) : List Fld :=
  [bvFld o.d, bvFld o.a, bvFld o.b, bvFld o.x, bvFld o.y, bvFld o.i, bvFld o.et, bvFld o.ramp]

def getVc : List Nat → Option VC
  | [x_d, x_a, x_b, x_x, x_y, x_i, x_et, x_ramp] =>
    some { d := BitVec.ofNat 11 x_d, a := BitVec.ofNat 11 x_a, b := BitVec.ofNat 11 x_b, x := BitVec.ofNat 4 x_x, y := BitVec.ofNat 4 x_y, i := BitVec.ofNat 4 x_i, et := BitVec.ofNat 4 x_et, ramp := BitVec.ofNat 2 x_ramp }
  | _ => none

def widVc : List Nat := [11, 11, 11, 4, 4, 4, 4, 2]

def fldsVld (o : VLd) : List Fld :=
  [bvFld o.d, (11, 0), bvFld o.s, bvFld o.imm, (4, 0), bvFld o.ramp]

def getVld : List Nat → Option VLd
  | [x_d, u0, x_s, x_imm, u1, x_ramp] =>
    if u0 = 0 ∧ u1 = 0 then some { d := BitVec.ofNat 11 x_d, s := BitVec.ofNat 6 x_s, imm := BitVec.ofNat 17 x_imm, ramp := BitVec.ofNat 2 x_ramp } else none
  | _ => none

def widVld : List Nat := [11, 11, 6, 17, 4, 2]

def fldsVst (o : VSt) : List Fld :=
  [(11, 0), bvFld o.a, bvFld o.s, bvFld o.imm, (4, 0), bvFld o.ramp]

def getVst : List Nat → Option VSt
  | [u0, x_a, x_s, x_imm, u1, x_ramp] =>
    if u0 = 0 ∧ u1 = 0 then some { a := BitVec.ofNat 11 x_a, s := BitVec.ofNat 6 x_s, imm := BitVec.ofNat 17 x_imm, ramp := BitVec.ofNat 2 x_ramp } else none
  | _ => none

def widVst : List Nat := [11, 11, 6, 17, 4, 2]

def fldsVr (o : VR) : List Fld :=
  [bvFld o.d, bvFld o.a, bvFld o.b, bvFld o.s, (6, 0), (4, 0), bvFld o.ramp]

def getVr : List Nat → Option VR
  | [x_d, x_a, x_b, x_s, u0, u1, x_ramp] =>
    if u0 = 0 ∧ u1 = 0 then some { d := BitVec.ofNat 11 x_d, a := BitVec.ofNat 11 x_a, b := BitVec.ofNat 11 x_b, s := BitVec.ofNat 6 x_s, ramp := BitVec.ofNat 2 x_ramp } else none
  | _ => none

def widVr : List Nat := [11, 11, 11, 6, 6, 4, 2]

def fldsVbc (o : VBc) : List Fld :=
  [bvFld o.d, (11, 0), bvFld o.s, (17, 0), bvFld o.et, bvFld o.ramp]

def getVbc : List Nat → Option VBc
  | [x_d, u0, x_s, u1, x_et, x_ramp] =>
    if u0 = 0 ∧ u1 = 0 then some { d := BitVec.ofNat 11 x_d, s := BitVec.ofNat 6 x_s, et := BitVec.ofNat 4 x_et, ramp := BitVec.ofNat 2 x_ramp } else none
  | _ => none

def widVbc : List Nat := [11, 11, 6, 17, 4, 2]

def fldsVext (o : VExt) : List Fld :=
  [(11, 0), bvFld o.a, bvFld o.s, bvFld o.imm, bvFld o.et, bvFld o.ramp]

def getVext : List Nat → Option VExt
  | [u0, x_a, x_s, x_imm, x_et, x_ramp] =>
    if u0 = 0 then some { a := BitVec.ofNat 11 x_a, s := BitVec.ofNat 6 x_s, imm := BitVec.ofNat 17 x_imm, et := BitVec.ofNat 4 x_et, ramp := BitVec.ofNat 2 x_ramp } else none
  | _ => none

def widVext : List Nat := [11, 11, 6, 17, 4, 2]

def fldsVins (o : VIns) : List Fld :=
  [bvFld o.d, (11, 0), bvFld o.s, bvFld o.imm, bvFld o.et, bvFld o.ramp]

def getVins : List Nat → Option VIns
  | [x_d, u0, x_s, x_imm, x_et, x_ramp] =>
    if u0 = 0 then some { d := BitVec.ofNat 11 x_d, s := BitVec.ofNat 6 x_s, imm := BitVec.ofNat 17 x_imm, et := BitVec.ofNat 4 x_et, ramp := BitVec.ofNat 2 x_ramp } else none
  | _ => none

def widVins : List Nat := [11, 11, 6, 17, 4, 2]

def fldsHpush (o : VA) : List Fld :=
  [(11, 0), bvFld o.a, (6, 0), (17, 0), (4, 0), bvFld o.ramp]

def getHpush : List Nat → Option VA
  | [u0, x_a, u1, u2, u3, x_ramp] =>
    if u0 = 0 ∧ u1 = 0 ∧ u2 = 0 ∧ u3 = 0 then some { a := BitVec.ofNat 11 x_a, ramp := BitVec.ofNat 2 x_ramp } else none
  | _ => none

def widHpush : List Nat := [11, 11, 6, 17, 4, 2]

def fldsHpop (o : VA) : List Fld :=
  [bvFld o.a, (11, 0), (6, 0), (17, 0), (4, 0), bvFld o.ramp]

def getHpop : List Nat → Option VA
  | [x_a, u0, u1, u2, u3, x_ramp] =>
    if u0 = 0 ∧ u1 = 0 ∧ u2 = 0 ∧ u3 = 0 then some { a := BitVec.ofNat 11 x_a, ramp := BitVec.ofNat 2 x_ramp } else none
  | _ => none

def widHpop : List Nat := [11, 11, 6, 17, 4, 2]

def fldsVk (o : VK) : List Fld :=
  [bvFld o.md, bvFld o.ma, bvFld o.mb, (37, 0), bvFld o.ramp]

def getVk : List Nat → Option VK
  | [x_md, x_ma, x_mb, u0, x_ramp] =>
    if u0 = 0 then some { md := BitVec.ofNat 4 x_md, ma := BitVec.ofNat 4 x_ma, mb := BitVec.ofNat 4 x_mb, ramp := BitVec.ofNat 2 x_ramp } else none
  | _ => none

def widVk : List Nat := [4, 4, 4, 37, 2]

def fldsVk2 (o : VK2) : List Fld :=
  [bvFld o.md, bvFld o.ma, (4, 0), (37, 0), bvFld o.ramp]

def getVk2 : List Nat → Option VK2
  | [x_md, x_ma, u0, u1, x_ramp] =>
    if u0 = 0 ∧ u1 = 0 then some { md := BitVec.ofNat 4 x_md, ma := BitVec.ofNat 4 x_ma, ramp := BitVec.ofNat 2 x_ramp } else none
  | _ => none

def widVk2 : List Nat := [4, 4, 4, 37, 2]

def fldsMrset (o : MRing2) : List Fld :=
  [bvFld o.x, (4, 0), (4, 0), bvFld o.a, bvFld o.b, (11, 0), (14, 0), (2, 0)]

def getMrset : List Nat → Option MRing2
  | [x_x, u0, u1, x_a, x_b, u2, u3, u4] =>
    if u0 = 0 ∧ u1 = 0 ∧ u2 = 0 ∧ u3 = 0 ∧ u4 = 0 then some { x := BitVec.ofNat 4 x_x, a := BitVec.ofNat 6 x_a, b := BitVec.ofNat 6 x_b } else none
  | _ => none

def widMrset : List Nat := [4, 4, 4, 6, 6, 11, 14, 2]

def fldsMrread (o : MRing1) : List Fld :=
  [bvFld o.x, (4, 0), (4, 0), bvFld o.a, (6, 0), (11, 0), (14, 1), (2, 0)]

def getMrread : List Nat → Option MRing1
  | [x_x, u0, u1, x_a, u2, u3, u4, u5] =>
    if u0 = 0 ∧ u1 = 0 ∧ u2 = 0 ∧ u3 = 0 ∧ u4 = 1 ∧ u5 = 0 then some { x := BitVec.ofNat 4 x_x, a := BitVec.ofNat 6 x_a } else none
  | _ => none

def widMrread : List Nat := [4, 4, 4, 6, 6, 11, 14, 2]

def fldsMrload (o : MRing1) : List Fld :=
  [bvFld o.x, (4, 0), (4, 0), bvFld o.a, (6, 0), (11, 0), (14, 2), (2, 0)]

def getMrload : List Nat → Option MRing1
  | [x_x, u0, u1, x_a, u2, u3, u4, u5] =>
    if u0 = 0 ∧ u1 = 0 ∧ u2 = 0 ∧ u3 = 0 ∧ u4 = 2 ∧ u5 = 0 then some { x := BitVec.ofNat 4 x_x, a := BitVec.ofNat 6 x_a } else none
  | _ => none

def widMrload : List Nat := [4, 4, 4, 6, 6, 11, 14, 2]

def fldsMtail (o : MRing1) : List Fld :=
  [bvFld o.x, (4, 0), (4, 0), bvFld o.a, (6, 0), (11, 0), (14, 0), (2, 0)]

def getMtail : List Nat → Option MRing1
  | [x_x, u0, u1, x_a, u2, u3, u4, u5] =>
    if u0 = 0 ∧ u1 = 0 ∧ u2 = 0 ∧ u3 = 0 ∧ u4 = 0 ∧ u5 = 0 then some { x := BitVec.ofNat 4 x_x, a := BitVec.ofNat 6 x_a } else none
  | _ => none

def widMtail : List Nat := [4, 4, 4, 6, 6, 11, 14, 2]

def fldsFmtq (o : FmtqOp) : List Fld :=
  [(4, 0), (4, 0), (4, 0), bvFld o.a, (6, 0), (11, 0), (14, 0), (2, 0)]

def getFmtq : List Nat → Option FmtqOp
  | [u0, u1, u2, x_a, u3, u4, u5, u6] =>
    if u0 = 0 ∧ u1 = 0 ∧ u2 = 0 ∧ u3 = 0 ∧ u4 = 0 ∧ u5 = 0 ∧ u6 = 0 then some { a := BitVec.ofNat 6 x_a } else none
  | _ => none

def widFmtq : List Nat := [4, 4, 4, 6, 6, 11, 14, 2]

def fldsMwld (o : MwldOp) : List Fld :=
  [(4, 0), bvFld o.y, (4, 0), (6, 0), (6, 0), stampFld o.stamp, (14, 0), bvFld o.ramp]

def getMwld : List Nat → Option MwldOp
  | [u0, x_y, u1, u2, u3, x_stamp, u4, x_ramp] =>
    if u0 = 0 ∧ u1 = 0 ∧ u2 = 0 ∧ u3 = 0 ∧ u4 = 0 then (stampOf x_stamp).bind fun x_stamp => some { y := BitVec.ofNat 4 x_y, stamp := x_stamp, ramp := BitVec.ofNat 2 x_ramp } else none
  | _ => none

def widMwld : List Nat := [4, 4, 4, 6, 6, 11, 14, 2]

def fldsProd (o : ProdOp) : List Fld :=
  [bvFld o.x, (4, 0), (4, 0), bvFld o.a, (6, 0), stampFld o.stamp, (14, 0), bvFld o.ramp]

def getProd : List Nat → Option ProdOp
  | [x_x, u0, u1, x_a, u2, x_stamp, u3, x_ramp] =>
    if u0 = 0 ∧ u1 = 0 ∧ u2 = 0 ∧ u3 = 0 then (stampOf x_stamp).bind fun x_stamp => some { x := BitVec.ofNat 4 x_x, a := BitVec.ofNat 6 x_a, stamp := x_stamp, ramp := BitVec.ofNat 2 x_ramp } else none
  | _ => none

def widProd : List Nat := [4, 4, 4, 6, 6, 11, 14, 2]

def fldsStp (o : StOp) : List Fld :=
  [(4, 0), (4, 0), (4, 0), (6, 0), (6, 0), stampFld o.stamp, (14, 0), (2, 0)]

def getStp : List Nat → Option StOp
  | [u0, u1, u2, u3, u4, x_stamp, u5, u6] =>
    if u0 = 0 ∧ u1 = 0 ∧ u2 = 0 ∧ u3 = 0 ∧ u4 = 0 ∧ u5 = 0 ∧ u6 = 0 then (stampOf x_stamp).bind fun x_stamp => some { stamp := x_stamp } else none
  | _ => none

def widStp : List Nat := [4, 4, 4, 6, 6, 11, 14, 2]

def fldsRtqr (o : RtqrOp) : List Fld :=
  [bvFld o.x, bvFld o.y, (4, 0), (6, 0), bvFld o.b, stampFld o.stamp, (9, 0), bvFld o.p, bvFld o.ramp]

def getRtqr : List Nat → Option RtqrOp
  | [x_x, x_y, u0, u1, x_b, x_stamp, u2, x_p, x_ramp] =>
    if u0 = 0 ∧ u1 = 0 ∧ u2 = 0 then (stampOf x_stamp).bind fun x_stamp => some { x := BitVec.ofNat 4 x_x, y := BitVec.ofNat 4 x_y, b := BitVec.ofNat 6 x_b, stamp := x_stamp, p := BitVec.ofNat 5 x_p, ramp := BitVec.ofNat 2 x_ramp } else none
  | _ => none

def widRtqr : List Nat := [4, 4, 4, 6, 6, 11, 9, 5, 2]

def fldsRtapl (o : RtaplOp) : List Fld :=
  [bvFld o.x, bvFld o.y, (4, 0), bvFld o.a, bvFld o.b, stampFld o.stamp, (4, 0), bvFld o.c, bvFld o.p, bvFld o.ramp]

def getRtapl : List Nat → Option RtaplOp
  | [x_x, x_y, u0, x_a, x_b, x_stamp, u1, x_c, x_p, x_ramp] =>
    if u0 = 0 ∧ u1 = 0 then (stampOf x_stamp).bind fun x_stamp => some { x := BitVec.ofNat 4 x_x, y := BitVec.ofNat 4 x_y, a := BitVec.ofNat 6 x_a, b := BitVec.ofNat 6 x_b, stamp := x_stamp, c := BitVec.ofNat 5 x_c, p := BitVec.ofNat 5 x_p, ramp := BitVec.ofNat 2 x_ramp } else none
  | _ => none

def widRtapl : List Nat := [4, 4, 4, 6, 6, 11, 4, 5, 5, 2]

def fldsRtinvq (o : RtinvQOp) : List Fld :=
  [(4, 0), bvFld o.y, (4, 0), bvFld o.a, bvFld o.b, stampFld o.stamp, (3, 0), (1, 0), (5, 0), bvFld o.p, bvFld o.ramp]

def getRtinvq : List Nat → Option RtinvQOp
  | [u0, x_y, u1, x_a, x_b, x_stamp, u2, u3, u4, x_p, x_ramp] =>
    if u0 = 0 ∧ u1 = 0 ∧ u2 = 0 ∧ u3 = 0 ∧ u4 = 0 then (stampOf x_stamp).bind fun x_stamp => some { y := BitVec.ofNat 4 x_y, a := BitVec.ofNat 6 x_a, b := BitVec.ofNat 6 x_b, stamp := x_stamp, p := BitVec.ofNat 5 x_p, ramp := BitVec.ofNat 2 x_ramp } else none
  | _ => none

def widRtinvq : List Nat := [4, 4, 4, 6, 6, 11, 3, 1, 5, 5, 2]

def fldsRtinva (o : RtaplOp) : List Fld :=
  [bvFld o.x, bvFld o.y, (4, 0), bvFld o.a, bvFld o.b, stampFld o.stamp, (3, 0), (1, 1), bvFld o.c, bvFld o.p, bvFld o.ramp]

def getRtinva : List Nat → Option RtaplOp
  | [x_x, x_y, u0, x_a, x_b, x_stamp, u1, u2, x_c, x_p, x_ramp] =>
    if u0 = 0 ∧ u1 = 0 ∧ u2 = 1 then (stampOf x_stamp).bind fun x_stamp => some { x := BitVec.ofNat 4 x_x, y := BitVec.ofNat 4 x_y, a := BitVec.ofNat 6 x_a, b := BitVec.ofNat 6 x_b, stamp := x_stamp, c := BitVec.ofNat 5 x_c, p := BitVec.ofNat 5 x_p, ramp := BitVec.ofNat 2 x_ramp } else none
  | _ => none

def widRtinva : List Nat := [4, 4, 4, 6, 6, 11, 3, 1, 5, 5, 2]

def fldsRtsolve (o : RtsolveOp) : List Fld :=
  [(4, 0), (4, 0), (4, 0), bvFld o.a, bvFld o.b, stampFld o.stamp, (4, 0), bvFld o.c, bvFld o.n, bvFld o.ramp]

def getRtsolve : List Nat → Option RtsolveOp
  | [u0, u1, u2, x_a, x_b, x_stamp, u3, x_c, x_n, x_ramp] =>
    if u0 = 0 ∧ u1 = 0 ∧ u2 = 0 ∧ u3 = 0 then (stampOf x_stamp).bind fun x_stamp => some { a := BitVec.ofNat 6 x_a, b := BitVec.ofNat 6 x_b, stamp := x_stamp, c := BitVec.ofNat 5 x_c, n := BitVec.ofNat 5 x_n, ramp := BitVec.ofNat 2 x_ramp } else none
  | _ => none

def widRtsolve : List Nat := [4, 4, 4, 6, 6, 11, 4, 5, 5, 2]

def fldsRtrw (o : RtrwOp) : List Fld :=
  [(4, 0), (4, 0), (4, 0), bvFld o.a, (6, 0), stampFld o.stamp, (4, 0), bvFld o.c, bvFld o.i, (2, 0)]

def getRtrw : List Nat → Option RtrwOp
  | [u0, u1, u2, x_a, u3, x_stamp, u4, x_c, x_i, u5] =>
    if u0 = 0 ∧ u1 = 0 ∧ u2 = 0 ∧ u3 = 0 ∧ u4 = 0 ∧ u5 = 0 then (stampOf x_stamp).bind fun x_stamp => some { a := BitVec.ofNat 6 x_a, stamp := x_stamp, c := BitVec.ofNat 5 x_c, i := BitVec.ofNat 5 x_i } else none
  | _ => none

def widRtrw : List Nat := [4, 4, 4, 6, 6, 11, 4, 5, 5, 2]

def fldsRtgs (o : RtgainOp) : List Fld :=
  [(4, 0), (4, 0), (4, 0), (6, 0), (6, 0), (11, 0), (1, 0), (2, 0), bvFld o.cm, bvFld o.gs, bvFld o.n, (2, 0)]

def getRtgs : List Nat → Option RtgainOp
  | [u0, u1, u2, u3, u4, u5, u6, u7, x_cm, x_gs, x_n, u8] =>
    if u0 = 0 ∧ u1 = 0 ∧ u2 = 0 ∧ u3 = 0 ∧ u4 = 0 ∧ u5 = 0 ∧ u6 = 0 ∧ u7 = 0 ∧ u8 = 0 then some { cm := BitVec.ofNat 2 x_cm, gs := BitVec.ofNat 4 x_gs, n := BitVec.ofNat 5 x_n } else none
  | _ => none

def widRtgs : List Nat := [4, 4, 4, 6, 6, 11, 1, 2, 2, 4, 5, 2]

def fldsRtgr (o : FmtqOp) : List Fld :=
  [(4, 0), (4, 0), (4, 0), bvFld o.a, (6, 0), (11, 0), (1, 1), (13, 0), (2, 0)]

def getRtgr : List Nat → Option FmtqOp
  | [u0, u1, u2, x_a, u3, u4, u5, u6, u7] =>
    if u0 = 0 ∧ u1 = 0 ∧ u2 = 0 ∧ u3 = 0 ∧ u4 = 0 ∧ u5 = 1 ∧ u6 = 0 ∧ u7 = 0 then some { a := BitVec.ofNat 6 x_a } else none
  | _ => none

def widRtgr : List Nat := [4, 4, 4, 6, 6, 11, 1, 13, 2]

def fldsC (o : COp) : List Fld :=
  [bvFld o.ds, bvFld o.dh, bvFld o.da, bvFld o.ss, bvFld o.sh, bvFld o.sa, bvFld o.n, bvFld o.bar, (11, 0), (2, 0)]

def getC : List Nat → Option COp
  | [x_ds, x_dh, x_da, x_ss, x_sh, x_sa, x_n, x_bar, u0, u1] =>
    if u0 = 0 ∧ u1 = 0 then some { ds := BitVec.ofNat 2 x_ds, dh := BitVec.ofNat 5 x_dh, da := BitVec.ofNat 6 x_da, ss := BitVec.ofNat 2 x_ss, sh := BitVec.ofNat 5 x_sh, sa := BitVec.ofNat 6 x_sa, n := BitVec.ofNat 6 x_n, bar := BitVec.ofNat 6 x_bar } else none
  | _ => none

def widC : List Nat := [2, 5, 6, 2, 5, 6, 6, 6, 11, 2]

def fldsCcp (o : CcOp) : List Fld :=
  [bvFld o.c.ds, bvFld o.c.dh, bvFld o.c.da, bvFld o.c.ss, bvFld o.c.sh, bvFld o.c.sa, bvFld o.c.n, bvFld o.c.bar, (8, 0), bvFld o.gran, (1, 0), (2, 0)]

def getCcp : List Nat → Option CcOp
  | [x_c_ds, x_c_dh, x_c_da, x_c_ss, x_c_sh, x_c_sa, x_c_n, x_c_bar, u0, x_gran, u1, u2] =>
    if u0 = 0 ∧ u1 = 0 ∧ u2 = 0 then some { c := { ds := BitVec.ofNat 2 x_c_ds, dh := BitVec.ofNat 5 x_c_dh, da := BitVec.ofNat 6 x_c_da, ss := BitVec.ofNat 2 x_c_ss, sh := BitVec.ofNat 5 x_c_sh, sa := BitVec.ofNat 6 x_c_sa, n := BitVec.ofNat 6 x_c_n, bar := BitVec.ofNat 6 x_c_bar }, gran := BitVec.ofNat 2 x_gran } else none
  | _ => none

def widCcp : List Nat := [2, 5, 6, 2, 5, 6, 6, 6, 8, 2, 1, 2]

def fldsCcu (o : CcOp) : List Fld :=
  [bvFld o.c.ds, bvFld o.c.dh, bvFld o.c.da, bvFld o.c.ss, bvFld o.c.sh, bvFld o.c.sa, bvFld o.c.n, bvFld o.c.bar, (8, 0), bvFld o.gran, (1, 1), (2, 0)]

def getCcu : List Nat → Option CcOp
  | [x_c_ds, x_c_dh, x_c_da, x_c_ss, x_c_sh, x_c_sa, x_c_n, x_c_bar, u0, x_gran, u1, u2] =>
    if u0 = 0 ∧ u1 = 1 ∧ u2 = 0 then some { c := { ds := BitVec.ofNat 2 x_c_ds, dh := BitVec.ofNat 5 x_c_dh, da := BitVec.ofNat 6 x_c_da, ss := BitVec.ofNat 2 x_c_ss, sh := BitVec.ofNat 5 x_c_sh, sa := BitVec.ofNat 6 x_c_sa, n := BitVec.ofNat 6 x_c_n, bar := BitVec.ofNat 6 x_c_bar }, gran := BitVec.ofNat 2 x_gran } else none
  | _ => none

def widCcu : List Nat := [2, 5, 6, 2, 5, 6, 6, 6, 8, 2, 1, 2]

def fldsCg (o : CgOp) : List Fld :=
  [bvFld o.c.ds, bvFld o.c.dh, bvFld o.c.da, bvFld o.c.ss, bvFld o.c.sh, bvFld o.c.sa, bvFld o.c.n, bvFld o.c.bar, (8, 0), bvFld o.slot, (2, 0)]

def getCg : List Nat → Option CgOp
  | [x_c_ds, x_c_dh, x_c_da, x_c_ss, x_c_sh, x_c_sa, x_c_n, x_c_bar, u0, x_slot, u1] =>
    if u0 = 0 ∧ u1 = 0 then some { c := { ds := BitVec.ofNat 2 x_c_ds, dh := BitVec.ofNat 5 x_c_dh, da := BitVec.ofNat 6 x_c_da, ss := BitVec.ofNat 2 x_c_ss, sh := BitVec.ofNat 5 x_c_sh, sa := BitVec.ofNat 6 x_c_sa, n := BitVec.ofNat 6 x_c_n, bar := BitVec.ofNat 6 x_c_bar }, slot := BitVec.ofNat 3 x_slot } else none
  | _ => none

def widCg : List Nat := [2, 5, 6, 2, 5, 6, 6, 6, 8, 3, 2]

def fldsCs (o : CsOp) : List Fld :=
  [bvFld o.c.ds, bvFld o.c.dh, bvFld o.c.da, bvFld o.c.ss, bvFld o.c.sh, bvFld o.c.sa, bvFld o.c.n, bvFld o.c.bar, bvFld o.x, boolFld o.f, bvFld o.z, bvFld o.y, (2, 0)]

def getCs : List Nat → Option CsOp
  | [x_c_ds, x_c_dh, x_c_da, x_c_ss, x_c_sh, x_c_sa, x_c_n, x_c_bar, x_x, x_f, x_z, x_y, u0] =>
    if u0 = 0 then some { c := { ds := BitVec.ofNat 2 x_c_ds, dh := BitVec.ofNat 5 x_c_dh, da := BitVec.ofNat 6 x_c_da, ss := BitVec.ofNat 2 x_c_ss, sh := BitVec.ofNat 5 x_c_sh, sa := BitVec.ofNat 6 x_c_sa, n := BitVec.ofNat 6 x_c_n, bar := BitVec.ofNat 6 x_c_bar }, x := BitVec.ofNat 2 x_x, f := (x_f == 1), z := BitVec.ofNat 4 x_z, y := BitVec.ofNat 4 x_y } else none
  | _ => none

def widCs : List Nat := [2, 5, 6, 2, 5, 6, 6, 6, 2, 1, 4, 4, 2]

def fldsCz (o : CzOp) : List Fld :=
  [bvFld o.ds, bvFld o.dh, bvFld o.da, (13, 0), bvFld o.n, bvFld o.bar, (11, 0), (2, 0)]

def getCz : List Nat → Option CzOp
  | [x_ds, x_dh, x_da, u0, x_n, x_bar, u1, u2] =>
    if u0 = 0 ∧ u1 = 0 ∧ u2 = 0 then some { ds := BitVec.ofNat 2 x_ds, dh := BitVec.ofNat 5 x_dh, da := BitVec.ofNat 6 x_da, n := BitVec.ofNat 6 x_n, bar := BitVec.ofNat 6 x_bar } else none
  | _ => none

def widCz : List Nat := [2, 5, 6, 13, 6, 6, 11, 2]

def fldsCv (o : CvOp) : List Fld :=
  [bvFld o.c.ds, bvFld o.c.dh, bvFld o.c.da, bvFld o.c.ss, bvFld o.c.sh, bvFld o.c.sa, bvFld o.c.n, bvFld o.c.bar, (3, 0), bvFld o.y, bvFld o.x, (2, 0)]

def getCv : List Nat → Option CvOp
  | [x_c_ds, x_c_dh, x_c_da, x_c_ss, x_c_sh, x_c_sa, x_c_n, x_c_bar, u0, x_y, x_x, u1] =>
    if u0 = 0 ∧ u1 = 0 then some { c := { ds := BitVec.ofNat 2 x_c_ds, dh := BitVec.ofNat 5 x_c_dh, da := BitVec.ofNat 6 x_c_da, ss := BitVec.ofNat 2 x_c_ss, sh := BitVec.ofNat 5 x_c_sh, sa := BitVec.ofNat 6 x_c_sa, n := BitVec.ofNat 6 x_c_n, bar := BitVec.ofNat 6 x_c_bar }, y := BitVec.ofNat 4 x_y, x := BitVec.ofNat 4 x_x } else none
  | _ => none

def widCv : List Nat := [2, 5, 6, 2, 5, 6, 6, 6, 3, 4, 4, 2]

def fldsPp (o : PpOp) : List Fld :=
  [bvFld o.ds, bvFld o.dh, bvFld o.da, (2, 0), (5, 0), bvFld o.sa, bvFld o.n, bvFld o.bar, bvFld o.f, boolFld o.x, bvFld o.y, (2, 0)]

def getPp : List Nat → Option PpOp
  | [x_ds, x_dh, x_da, u0, u1, x_sa, x_n, x_bar, x_f, x_x, x_y, u2] =>
    if u0 = 0 ∧ u1 = 0 ∧ u2 = 0 then some { ds := BitVec.ofNat 2 x_ds, dh := BitVec.ofNat 5 x_dh, da := BitVec.ofNat 6 x_da, sa := BitVec.ofNat 6 x_sa, n := BitVec.ofNat 6 x_n, bar := BitVec.ofNat 6 x_bar, f := BitVec.ofNat 6 x_f, x := (x_x == 1), y := BitVec.ofNat 4 x_y } else none
  | _ => none

def widPp : List Nat := [2, 5, 6, 2, 5, 6, 6, 6, 6, 1, 4, 2]

def fldsLsend (o : LsendOp) : List Fld :=
  [bvFld o.a, bvFld o.b, bvFld o.c, (6, 0), bvFld o.tile, (4, 0), bvFld o.p, bvFld o.u, (2, 0)]

def getLsend : List Nat → Option LsendOp
  | [x_a, x_b, x_c, u0, x_tile, u1, x_p, x_u, u2] =>
    if u0 = 0 ∧ u1 = 0 ∧ u2 = 0 then some { a := BitVec.ofNat 6 x_a, b := BitVec.ofNat 6 x_b, c := BitVec.ofNat 6 x_c, tile := BitVec.ofNat 8 x_tile, p := BitVec.ofNat 5 x_p, u := BitVec.ofNat 8 x_u } else none
  | _ => none

def widLsend : List Nat := [6, 6, 6, 6, 8, 4, 5, 8, 2]

def fldsLrecv (o : LrecvOp) : List Fld :=
  [bvFld o.a, (6, 0), bvFld o.c, (6, 0), bvFld o.tile, (11, 0), boolFld o.f, bvFld o.n, (2, 0)]

def getLrecv : List Nat → Option LrecvOp
  | [x_a, u0, x_c, u1, x_tile, u2, x_f, x_n, u3] =>
    if u0 = 0 ∧ u1 = 0 ∧ u2 = 0 ∧ u3 = 0 then some { a := BitVec.ofNat 6 x_a, c := BitVec.ofNat 6 x_c, tile := BitVec.ofNat 8 x_tile, f := (x_f == 1), n := BitVec.ofNat 5 x_n } else none
  | _ => none

def widLrecv : List Nat := [6, 6, 6, 6, 8, 11, 1, 5, 2]

def fldsLradd (o : LraddOp) : List Fld :=
  [bvFld o.a, bvFld o.b, bvFld o.c, bvFld o.d, bvFld o.tile, (6, 0), boolFld o.fwd, boolFld o.loc, boolFld o.s2, bvFld o.u, (2, 0)]

def getLradd : List Nat → Option LraddOp
  | [x_a, x_b, x_c, x_d, x_tile, u0, x_fwd, x_loc, x_s2, x_u, u1] =>
    if u0 = 0 ∧ u1 = 0 then some { a := BitVec.ofNat 6 x_a, b := BitVec.ofNat 6 x_b, c := BitVec.ofNat 6 x_c, d := BitVec.ofNat 6 x_d, tile := BitVec.ofNat 8 x_tile, fwd := (x_fwd == 1), loc := (x_loc == 1), s2 := (x_s2 == 1), u := BitVec.ofNat 8 x_u } else none
  | _ => none

def widLradd : List Nat := [6, 6, 6, 6, 8, 6, 1, 1, 1, 8, 2]

def fldsLtile (o : LTile) : List Fld :=
  [(24, 0), bvFld o.tile, (17, 0), (2, 0)]

def getLtile : List Nat → Option LTile
  | [u0, x_tile, u1, u2] =>
    if u0 = 0 ∧ u1 = 0 ∧ u2 = 0 then some { tile := BitVec.ofNat 8 x_tile } else none
  | _ => none

def widLtile : List Nat := [24, 8, 17, 2]

def fldsLprec (o : LprecOp) : List Fld :=
  [bvFld o.a, (18, 0), bvFld o.tile, (17, 0), (2, 0)]

def getLprec : List Nat → Option LprecOp
  | [x_a, u0, x_tile, u1, u2] =>
    if u0 = 0 ∧ u1 = 0 ∧ u2 = 0 then some { a := BitVec.ofNat 6 x_a, tile := BitVec.ofNat 8 x_tile } else none
  | _ => none

def widLprec : List Nat := [6, 18, 8, 17, 2]

def fldsLwprec (o : LwprecOp) : List Fld :=
  [bvFld o.a, (18, 0), bvFld o.tile, (12, 0), bvFld o.n, (2, 0)]

def getLwprec : List Nat → Option LwprecOp
  | [x_a, u0, x_tile, u1, x_n, u2] =>
    if u0 = 0 ∧ u1 = 0 ∧ u2 = 0 then some { a := BitVec.ofNat 6 x_a, tile := BitVec.ofNat 8 x_tile, n := BitVec.ofNat 5 x_n } else none
  | _ => none

def widLwprec : List Nat := [6, 18, 8, 12, 5, 2]

def fldsNmc (o : NmcOp) : List Fld :=
  [bvFld o.a, bvFld o.b, bvFld o.c, bvFld o.d, bvFld o.slot, bvFld o.h, (17, 0), (2, 0)]

def getNmc : List Nat → Option NmcOp
  | [x_a, x_b, x_c, x_d, x_slot, x_h, u0, u1] =>
    if u0 = 0 ∧ u1 = 0 then some { a := BitVec.ofNat 6 x_a, b := BitVec.ofNat 6 x_b, c := BitVec.ofNat 6 x_c, d := BitVec.ofNat 6 x_d, slot := BitVec.ofNat 3 x_slot, h := BitVec.ofNat 5 x_h } else none
  | _ => none

def widNmc : List Nat := [6, 6, 6, 6, 3, 5, 17, 2]

def fldsEng (o : EngOp) : List Fld :=
  [(12, 0), (3, 0), (2, 0), bvFld o.mask, (6, 0), (20, 0), (4, 0)]

def getEng : List Nat → Option EngOp
  | [u0, u1, u2, x_mask, u3, u4, u5] =>
    if u0 = 0 ∧ u1 = 0 ∧ u2 = 0 ∧ u3 = 0 ∧ u4 = 0 ∧ u5 = 0 then some { mask := BitVec.ofNat 4 x_mask } else none
  | _ => none

def widEng : List Nat := [12, 3, 2, 4, 6, 20, 4]

def fldsClk (o : ClkOp) : List Fld :=
  [bvFld o.a, (6, 0), (3, 0), (3, 0), bvFld o.dom, bvFld o.n, (20, 0), (4, 0)]

def getClk : List Nat → Option ClkOp
  | [x_a, u0, u1, u2, x_dom, x_n, u3, u4] =>
    if u0 = 0 ∧ u1 = 0 ∧ u2 = 0 ∧ u3 = 0 ∧ u4 = 0 then some { a := BitVec.ofNat 6 x_a, dom := BitVec.ofNat 3 x_dom, n := BitVec.ofNat 6 x_n } else none
  | _ => none

def widClk : List Nat := [6, 6, 3, 3, 3, 6, 20, 4]

def fldsRdmu (o : RdmOp) : List Fld :=
  [bvFld o.a, (6, 0), (3, 0), (6, 0), (6, 0), (19, 0), boolFld o.drain, (4, 0)]

def getRdmu : List Nat → Option RdmOp
  | [x_a, u0, u1, u2, u3, u4, x_drain, u5] =>
    if u0 = 0 ∧ u1 = 0 ∧ u2 = 0 ∧ u3 = 0 ∧ u4 = 0 ∧ u5 = 0 then some { a := BitVec.ofNat 6 x_a, drain := (x_drain == 1) } else none
  | _ => none

def widRdmu : List Nat := [6, 6, 3, 6, 6, 19, 1, 4]

def fldsRdmb (o : RdmOp) : List Fld :=
  [bvFld o.a, (6, 0), (3, 0), (6, 1), (6, 0), (19, 0), boolFld o.drain, (4, 0)]

def getRdmb : List Nat → Option RdmOp
  | [x_a, u0, u1, u2, u3, u4, x_drain, u5] =>
    if u0 = 0 ∧ u1 = 0 ∧ u2 = 1 ∧ u3 = 0 ∧ u4 = 0 ∧ u5 = 0 then some { a := BitVec.ofNat 6 x_a, drain := (x_drain == 1) } else none
  | _ => none

def widRdmb : List Nat := [6, 6, 3, 6, 6, 19, 1, 4]

def fldsDsync (o : DsyncOp) : List Fld :=
  [bvFld o.a, (6, 0), bvFld o.lvl, (6, 0), (6, 0), (20, 0), (4, 0)]

def getDsync : List Nat → Option DsyncOp
  | [x_a, u0, x_lvl, u1, u2, u3, u4] =>
    if u0 = 0 ∧ u1 = 0 ∧ u2 = 0 ∧ u3 = 0 ∧ u4 = 0 then some { a := BitVec.ofNat 6 x_a, lvl := BitVec.ofNat 3 x_lvl } else none
  | _ => none

def widDsync : List Nat := [6, 6, 3, 6, 6, 20, 4]

def fldsXsend (o : XsendOp) : List Fld :=
  [bvFld o.a, bvFld o.b, bvFld o.lvl, (6, 0), (6, 0), bvFld o.t, (4, 0)]

def getXsend : List Nat → Option XsendOp
  | [x_a, x_b, x_lvl, u0, u1, x_t, u2] =>
    if u0 = 0 ∧ u1 = 0 ∧ u2 = 0 then some { a := BitVec.ofNat 6 x_a, b := BitVec.ofNat 6 x_b, lvl := BitVec.ofNat 3 x_lvl, t := BitVec.ofNat 20 x_t } else none
  | _ => none

def widXsend : List Nat := [6, 6, 3, 6, 6, 20, 4]

def fldsXrecv (o : XrecvOp) : List Fld :=
  [bvFld o.a, bvFld o.b, bvFld o.lvl, bvFld o.c, (6, 0), bvFld o.t, (4, 0)]

def getXrecv : List Nat → Option XrecvOp
  | [x_a, x_b, x_lvl, x_c, u0, x_t, u1] =>
    if u0 = 0 ∧ u1 = 0 then some { a := BitVec.ofNat 6 x_a, b := BitVec.ofNat 6 x_b, lvl := BitVec.ofNat 3 x_lvl, c := BitVec.ofNat 6 x_c, t := BitVec.ofNat 20 x_t } else none
  | _ => none

def widXrecv : List Nat := [6, 6, 3, 6, 6, 20, 4]

/-! ## The opcode map -/

/-- Why a word is no instruction (R31, R58, R38 to R46). -/
inductive DecodeError where
  /-- class 0xD or 0xE (R31) -/
  | reservedClass
  /-- an opcode outside R59 to R69 (R58) -/
  | reservedOpcode
  /-- a reserved or unused bit, or a field value with no meaning (R38, R40, R63) -/
  | reservedField
  /-- fields that a rule of the instruction refuses (R41 to R46, R220 and the like) -/
  | illegalOperand
deriving DecidableEq, Repr

/-- The operands of one form, with the constructor that takes them. -/
def form {α : Type} (wid : List Nat) (get : List Nat → Option α) (c : α → Instr) (x : Nat) : Option Instr :=
  (get (unpack wid x)).map c

/-- A form with no operand: every operand bit is zero (R40). -/
def bare (i : Instr) (x : Nat) : Option Instr := if x = 0 then some i else none

/-- Class 0x0: the opcodes of the opcode map, none for any other. -/
def decodeClass0 (op x : Nat) : Option (Option Instr) :=
  match op with
  | 0x01 => some (form widR3 getR3 .add x)
  | 0x02 => some (form widR3 getR3 .sub x)
  | 0x03 => some (form widR3 getR3 .and x)
  | 0x04 => some (form widR3 getR3 .or x)
  | 0x05 => some (form widR3 getR3 .xor x)
  | 0x06 => some (form widR3 getR3 .andn x)
  | 0x07 => some (form widR3 getR3 .shl x)
  | 0x08 => some (form widR3 getR3 .shr x)
  | 0x09 => some (form widR3 getR3 .sra x)
  | 0x0A => some (form widR3 getR3 .mul x)
  | 0x0B => some (form widR3 getR3 .mulh x)
  | 0x0C => some (form widR3 getR3 .mulhu x)
  | 0x0D => some (form widR3 getR3 .div x)
  | 0x0E => some (form widR3 getR3 .divu x)
  | 0x0F => some (form widR3 getR3 .rem x)
  | 0x10 => some (form widR3 getR3 .min x)
  | 0x11 => some (form widR3 getR3 .max x)
  | 0x12 => some (form widR3 getR3 .minu x)
  | 0x13 => some (form widR3 getR3 .maxu x)
  | 0x14 => some (form widR2 getR2 .clz x)
  | 0x15 => some (form widR2 getR2 .popc x)
  | 0x16 => some (form widRsel getRsel .sel x)
  | 0x20 => some (form widRcmp getRcmp .cmpeq x)
  | 0x21 => some (form widRcmp getRcmp .cmpne x)
  | 0x22 => some (form widRcmp getRcmp .cmplt x)
  | 0x23 => some (form widRcmp getRcmp .cmpltu x)
  | 0x24 => some (form widRcmp getRcmp .cmple x)
  | 0x25 => some (form widRcmp getRcmp .cmpleu x)
  | 0x28 => some (form widP3 getP3 .pand x)
  | 0x29 => some (form widP3 getP3 .por x)
  | 0x2A => some (form widP2 getP2 .pnot x)
  | _ => none

/-- Class 0x1: the opcodes of the opcode map, none for any other. -/
def decodeClass1 (op x : Nat) : Option (Option Instr) :=
  match op with
  | 0x01 => some (form widI3 getI3 .addi x)
  | 0x03 => some (form widI3 getI3 .andi x)
  | 0x04 => some (form widI3 getI3 .ori x)
  | 0x05 => some (form widI3 getI3 .xori x)
  | 0x07 => some (form widIsh getIsh .shli x)
  | 0x08 => some (form widIsh getIsh .shri x)
  | 0x09 => some (form widIsh getIsh .srai x)
  | 0x30 => some (form widIli getIli .li x)
  | 0x31 => some (form widIli getIli .lih x)
  | _ => none

/-- Class 0x2: the opcodes of the opcode map, none for any other. -/
def decodeClass2 (op x : Nat) : Option (Option Instr) :=
  match op with
  | 0x01 => some (form widBr getBr .br x)
  | 0x02 => some (form widJ getJ .jmp x)
  | 0x03 => some (form widCall getCall .call x)
  | 0x04 => some (form widRet getRet .ret x)
  | 0x05 => some (form widJ getJ .loop x)
  | 0x06 => some (bare .idle x)
  | _ => none

/-- Class 0x3: the opcodes of the opcode map, none for any other. -/
def decodeClass3 (op x : Nat) : Option (Option Instr) :=
  match op with
  | 0x01 => some (form widSyi getSyi .rgn x)
  | 0x02 => some (bare .rgnend x)
  | 0x03 => some (form widMfsr getMfsr .mfsr x)
  | 0x04 => some (form widMtsr getMtsr .mtsr x)
  | 0x05 => some (form widSyi getSyi .trap x)
  | 0x06 => some (bare .rti x)
  | 0x07 => some (bare .halt x)
  | 0x08 => some (bare .iinvAll x <|> form widIin1 getIin1 .iinvLine x <|> form widIin2 getIin2 .iinvPage x)
  | 0x09 => some (form widSyd getSyd .rdgtc x)
  | 0x0A => some (bare .realign x)
  | 0x0B => some (form widSyi getSyi .brk x)
  | _ => none

/-- Class 0x4: the opcodes of the opcode map, none for any other. -/
def decodeClass4 (op x : Nat) : Option (Option Instr) :=
  match op with
  | 0x01 => some (form widMld getMld .lds x)
  | 0x02 => some (form widMst getMst .sts x)
  | 0x03 => some (form widGld getGld .gld x)
  | 0x04 => some (form widGst getGst .gst x)
  | 0x05 => some (form widXlat getXlat .xlat x)
  | 0x06 => some (form widHinv getHinv .hinv x)
  | 0x07 => some (form widFence getFence .fence x)
  | 0x08 => some (form widMst getMst .binit x)
  | 0x09 => some (form widMad getMad .arrive x)
  | 0x0A => some (form widMad getMad .bwait x)
  | 0x0B => some (form widMtest getMtest .btest x)
  | 0x0C => some (form widMawait getMawait .await x)
  | 0x10 => some (form widAmo getAmo .amoadd x)
  | 0x11 => some (form widAmo getAmo .amoxor x)
  | 0x12 => some (form widAmo getAmo .amomin x)
  | 0x13 => some (form widAmo getAmo .amomax x)
  | 0x14 => some (form widAmo getAmo .amoswp x)
  | 0x15 => some (form widAmo getAmo .amocas x)
  | _ => none

/-- Class 0x5: the opcodes of the opcode map, none for any other. -/
def decodeClass5 (op x : Nat) : Option (Option Instr) :=
  match op with
  | 0x02 => some (form widV3 getV3 .vadd x)
  | 0x03 => some (form widV3 getV3 .evadd x)
  | 0x04 => some (form widV3 getV3 .vsub x)
  | 0x05 => some (form widV3 getV3 .evsub x)
  | 0x06 => some (form widV3 getV3 .vmac x)
  | 0x07 => some (form widV3 getV3 .evmac x)
  | 0x08 => some (form widV3 getV3 .vmas x)
  | 0x09 => some (form widV3 getV3 .evmas x)
  | 0x0A => some (form widV2 getV2 .vneg x)
  | 0x0B => some (form widV2 getV2 .evneg x)
  | 0x0C => some (form widV2 getV2 .vnot x)
  | 0x0D => some (form widV2 getV2 .evnot x)
  | 0x0E => some (form widV3 getV3 .vxor x)
  | 0x0F => some (form widV3 getV3 .evxor x)
  | 0x10 => some (form widV3 getV3 .vxand x)
  | 0x11 => some (form widV3 getV3 .evxand x)
  | 0x12 => some (form widVsw getVsw .vswap x)
  | 0x14 => some (form widVcsw getVcsw .vcswap x)
  | 0x16 => some (form widV3 getV3 .vshl x)
  | 0x17 => some (form widV3 getV3 .evshl x)
  | 0x18 => some (form widV3 getV3 .vshr x)
  | 0x19 => some (form widV3 getV3 .evshr x)
  | 0x1A => some (form widV3 getV3 .vsra x)
  | 0x1B => some (form widV3 getV3 .evsra x)
  | 0x1C => some (form widV3 getV3 .vrotl x)
  | 0x1D => some (form widV3 getV3 .evrotl x)
  | 0x1E => some (form widV3 getV3 .vand x)
  | 0x1F => some (form widV3 getV3 .evand x)
  | 0x20 => some (form widV3 getV3 .vor x)
  | 0x21 => some (form widV3 getV3 .evor x)
  | 0x22 => some (form widV3 getV3 .vmin x)
  | 0x23 => some (form widV3 getV3 .evmin x)
  | 0x24 => some (form widV3 getV3 .vmax x)
  | 0x25 => some (form widV3 getV3 .evmax x)
  | 0x26 => some (form widV2 getV2 .vabs x)
  | 0x27 => some (form widV2 getV2 .evabs x)
  | 0x28 => some (form widV3 getV3 .vmul x)
  | 0x29 => some (form widV3 getV3 .evmul x)
  | 0x2A => some (form widV2 getV2 .vpopc x)
  | 0x2B => some (form widV2 getV2 .evpopc x)
  | 0x2C => some (form widV2 getV2 .vclz x)
  | 0x2D => some (form widV2 getV2 .evclz x)
  | 0x2E => some (form widV3m getV3m .vcmpeq x)
  | 0x2F => some (form widV3m getV3m .evcmpeq x)
  | 0x30 => some (form widV3m getV3m .vcmplt x)
  | 0x31 => some (form widV3m getV3m .evcmplt x)
  | 0x32 => some (form widV3m getV3m .vcmple x)
  | 0x33 => some (form widV3m getV3m .evcmple x)
  | 0x34 => some (form widVsel getVsel .vsel x)
  | 0x35 => some (form widVsel getVsel .evsel x)
  | 0x36 => some (form widVasz getVasz .vassz x)
  | 0x38 => some (form widVzm getVzm .vzmask x)
  | 0x39 => some (form widVzm getVzm .evzmask x)
  | _ => none

/-- Class 0x6: the opcodes of the opcode map, none for any other. -/
def decodeClass6 (op x : Nat) : Option (Option Instr) :=
  match op with
  | 0x02 => some (form widV3 getV3 .vfadd x)
  | 0x03 => some (form widV3 getV3 .evfadd x)
  | 0x04 => some (form widV3 getV3 .vfsub x)
  | 0x05 => some (form widV3 getV3 .evfsub x)
  | 0x06 => some (form widV3 getV3 .vfmul x)
  | 0x07 => some (form widV3 getV3 .evfmul x)
  | 0x08 => some (form widV4 getV4 .vfma x)
  | 0x09 => some (form widV4 getV4 .evfma x)
  | 0x0A => some (form widV3 getV3 .vfmin x)
  | 0x0B => some (form widV3 getV3 .evfmin x)
  | 0x0C => some (form widV3 getV3 .vfmax x)
  | 0x0D => some (form widV3 getV3 .evfmax x)
  | 0x0E => some (form widV2 getV2 .vfneg x)
  | 0x0F => some (form widV2 getV2 .evfneg x)
  | 0x10 => some (form widV2 getV2 .vfabs x)
  | 0x11 => some (form widV2 getV2 .evfabs x)
  | 0x12 => some (form widV2 getV2 .vfrcp x)
  | 0x13 => some (form widV2 getV2 .evfrcp x)
  | 0x14 => some (form widV2 getV2 .vfrsq x)
  | 0x15 => some (form widV2 getV2 .evfrsq x)
  | 0x16 => some (form widV2 getV2 .vfexp2 x)
  | 0x17 => some (form widV2 getV2 .evfexp2 x)
  | 0x18 => some (form widV2 getV2 .vflog2 x)
  | 0x19 => some (form widV2 getV2 .evflog2 x)
  | 0x1A => some (form widV2 getV2 .vftanh x)
  | 0x1B => some (form widV2 getV2 .evftanh x)
  | 0x1C => some (form widVfc getVfc .vfcmp x)
  | 0x1D => some (form widVfc getVfc .evfcmp x)
  | 0x1E => some (form widVc getVc .vcvt x)
  | 0x1F => some (form widVc getVc .evcvt x)
  | 0x20 => some (form widVc getVc .vcvr x)
  | 0x21 => some (form widVc getVc .evcvr x)
  | 0x22 => some (form widVc getVc .vmerge x)
  | 0x23 => some (form widVc getVc .evmerge x)
  | 0x24 => some (form widVc getVc .vshoal x)
  | 0x25 => some (form widVc getVc .evshoal x)
  | 0x26 => some (form widVc getVc .vscale x)
  | 0x27 => some (form widVc getVc .evscale x)
  | 0x28 => some (form widVc getVc .vbpenc x)
  | 0x29 => some (form widVc getVc .evbpenc x)
  | 0x2A => some (form widVc getVc .vbpdec x)
  | 0x2B => some (form widVc getVc .evbpdec x)
  | 0x2C => some (form widVc getVc .vredadd x)
  | 0x2D => some (form widVc getVc .evredadd x)
  | 0x2E => some (form widVc getVc .vredmax x)
  | 0x2F => some (form widVc getVc .evredmax x)
  | 0x30 => some (form widVc getVc .vredmin x)
  | 0x31 => some (form widVc getVc .evredmin x)
  | 0x32 => some (form widVc getVc .vscan x)
  | 0x33 => some (form widVc getVc .evscan x)
  | _ => none

/-- Class 0x7: the opcodes of the opcode map, none for any other. -/
def decodeClass7 (op x : Nat) : Option (Option Instr) :=
  match op with
  | 0x02 => some (form widVld getVld .vld x)
  | 0x03 => some (form widVld getVld .evld x)
  | 0x04 => some (form widVst getVst .vst x)
  | 0x05 => some (form widVst getVst .evst x)
  | 0x06 => some (form widV2 getV2 .vldx x)
  | 0x07 => some (form widV2 getV2 .evldx x)
  | 0x08 => some (form widV3 getV3 .vperm x)
  | 0x09 => some (form widV3 getV3 .evperm x)
  | 0x0A => some (form widVr getVr .vrmg x)
  | 0x0B => some (form widVr getVr .evrmg x)
  | 0x0C => some (form widVbc getVbc .vbcast x)
  | 0x0D => some (form widVbc getVbc .evbcast x)
  | 0x0E => some (form widVext getVext .vext x)
  | 0x10 => some (form widVins getVins .vins x)
  | 0x11 => some (form widVins getVins .evins x)
  | 0x12 => some (form widHpush getHpush .hpush x)
  | 0x14 => some (form widHpop getHpop .hpop x)
  | 0x16 => some (form widVk getVk .mand x)
  | 0x17 => some (form widVk getVk .emand x)
  | 0x18 => some (form widVk getVk .mor x)
  | 0x19 => some (form widVk getVk .emor x)
  | 0x1A => some (form widVk2 getVk2 .mnot x)
  | 0x1B => some (form widVk2 getVk2 .emnot x)
  | _ => none

/-- Class 0x8: the opcodes of the opcode map, none for any other. -/
def decodeClass8 (op x : Nat) : Option (Option Instr) :=
  match op with
  | 0x01 => some (form widMrset getMrset .mringSet x <|> form widMrread getMrread .mringRead x <|> form widMrload getMrload .mringLoad x)
  | 0x02 => some (form widMtail getMtail .mtail x)
  | 0x03 => some (form widFmtq getFmtq .fmtq x)
  | 0x04 => some (form widMwld getMwld .mwld x)
  | 0x05 => some (form widProd getProd .mmacr x)
  | 0x06 => some (form widProd getProd .mmasr x)
  | 0x07 => some (form widProd getProd .emmul x)
  | 0x08 => some (form widProd getProd .emfma x)
  | 0x09 => some (form widStp getStp .emclr x)
  | _ => none

/-- Class 0x9: the opcodes of the opcode map, none for any other. -/
def decodeClass9 (op x : Nat) : Option (Option Instr) :=
  match op with
  | 0x01 => some (form widRtqr getRtqr .rtqr x)
  | 0x02 => some (form widRtapl getRtapl .rtapl x)
  | 0x03 => some (form widRtinvq getRtinvq .rtinvQr x <|> form widRtinva getRtinva .rtinvApl x)
  | 0x04 => some (form widRtsolve getRtsolve .rtsolve x)
  | 0x05 => some (form widRtrw getRtrw .rtrd x)
  | 0x06 => some (form widRtrw getRtrw .rtwr x)
  | 0x07 => some (form widRtgs getRtgs .rtgainSet x <|> form widRtgr getRtgr .rtgainRead x)
  | 0x08 => some (form widStp getStp .ertclr x)
  | _ => none

/-- Class 0xA: the opcodes of the opcode map, none for any other. -/
def decodeClassA (op x : Nat) : Option (Option Instr) :=
  match op with
  | 0x01 => some (form widC getC .cpy x)
  | 0x02 => some (form widC getC .cpyx x)
  | 0x03 => some (form widCcp getCcp .cpycPack x <|> form widCcu getCcu .cpycUnpack x)
  | 0x04 => some (form widCg getCg .cpyg x)
  | 0x05 => some (form widCs getCs .cpys x)
  | 0x06 => some (form widCz getCz .cpyz x)
  | 0x07 => some (form widCv getCv .cpyv x)
  | 0x08 => some (form widPp getPp .ppcmp x)
  | _ => none

/-- Class 0xB: the opcodes of the opcode map, none for any other. -/
def decodeClassB (op x : Nat) : Option (Option Instr) :=
  match op with
  | 0x01 => some (form widLsend getLsend .lsend x)
  | 0x02 => some (form widLrecv getLrecv .lrecv x)
  | 0x03 => some (form widLradd getLradd .lradd x)
  | 0x04 => some (form widLtile getLtile .lcancel x)
  | 0x05 => some (form widLprec getLprec .lprec x)
  | 0x06 => some (form widLwprec getLwprec .lwprec x)
  | 0x10 => some (form widNmc getNmc .nmc x)
  | _ => none

/-- Class 0xC: the opcodes of the opcode map, none for any other. -/
def decodeClassC (op x : Nat) : Option (Option Instr) :=
  match op with
  | 0x01 => some (form widEng getEng .wake x)
  | 0x02 => some (form widEng getEng .gate x)
  | 0x03 => some (form widClk getClk .clkdiv x)
  | 0x04 => some (form widRdmu getRdmu .rdmeterUsed x <|> form widRdmb getRdmb .rdmeterBal x)
  | 0x08 => some (form widDsync getDsync .dsync x)
  | 0x09 => some (form widXsend getXsend .xsend x)
  | 0x0A => some (form widXrecv getXrecv .xrecv x)
  | _ => none

/-- Class 0xF: the opcodes of the opcode map, none for any other. -/
def decodeClassF (op x : Nat) : Option (Option Instr) :=
  match op with
  | 0x00 => some (form widPfx getPfx .pfx x)
  | _ => none

/-- The form a syllable's class and opcode select: the outer none says the opcode is reserved. -/
def decodeOp (c op x : Nat) : Option (Option Instr) :=
  match c with
  | 0x0 => decodeClass0 op x
  | 0x1 => decodeClass1 op x
  | 0x2 => decodeClass2 op x
  | 0x3 => decodeClass3 op x
  | 0x4 => decodeClass4 op x
  | 0x5 => decodeClass5 op x
  | 0x6 => decodeClass6 op x
  | 0x7 => decodeClass7 op x
  | 0x8 => decodeClass8 op x
  | 0x9 => decodeClass9 op x
  | 0xA => decodeClassA op x
  | 0xB => decodeClassB op x
  | 0xC => decodeClassC op x
  | 0xF => decodeClassF op x
  | _ => none

/-- The class field of a syllable (R30). -/
def sylClass (w : Word) : Nat := w.toNat / 2 ^ 59 % 16

/-- The opcode field of a syllable (R30). -/
def sylOpcode (w : Word) : Nat := w.toNat / 2 ^ 51 % 256

/-- The S bit of a syllable (R30). -/
def sylLast (w : Word) : Bool := w.getLsbD 63

/-- The guard field: bits [3:0] in classes 0x0 to 0x4; no other class has one (R39). -/
def sylGuard (w : Word) : Nat := if sylClass w ≤ 4 then w.toNat % 16 else 0

/-- The operand field without the guard (R47, R49 to R52). -/
def sylOperands (w : Word) : Nat :=
  if sylClass w ≤ 4 then w.toNat % 2 ^ 51 / 16 else w.toNat % 2 ^ 51

/-- The syllable of a word.  Total on every word; the S bit plays no part (R30, R32). -/
def decode (w : Word) : Except DecodeError Syl :=
  match decodeOp (sylClass w) (sylOpcode w) (sylOperands w) with
  | none => if sylClass w = 13 ∨ sylClass w = 14 then .error .reservedClass else .error .reservedOpcode
  | some none => .error .reservedField
  | some (some i) => if i.wf then .ok ⟨BitVec.ofNat 4 (sylGuard w), i⟩ else .error .illegalOperand

/-- The class, the opcode and the operand fields of a syllable; none for a step that is no syllable. -/
def Instr.fields : Instr → Option (Nat × Nat × List Fld)
  | .add o => some (0x0, 0x01, fldsR3 o)
  | .sub o => some (0x0, 0x02, fldsR3 o)
  | .and o => some (0x0, 0x03, fldsR3 o)
  | .or o => some (0x0, 0x04, fldsR3 o)
  | .xor o => some (0x0, 0x05, fldsR3 o)
  | .andn o => some (0x0, 0x06, fldsR3 o)
  | .shl o => some (0x0, 0x07, fldsR3 o)
  | .shr o => some (0x0, 0x08, fldsR3 o)
  | .sra o => some (0x0, 0x09, fldsR3 o)
  | .mul o => some (0x0, 0x0A, fldsR3 o)
  | .mulh o => some (0x0, 0x0B, fldsR3 o)
  | .mulhu o => some (0x0, 0x0C, fldsR3 o)
  | .div o => some (0x0, 0x0D, fldsR3 o)
  | .divu o => some (0x0, 0x0E, fldsR3 o)
  | .rem o => some (0x0, 0x0F, fldsR3 o)
  | .min o => some (0x0, 0x10, fldsR3 o)
  | .max o => some (0x0, 0x11, fldsR3 o)
  | .minu o => some (0x0, 0x12, fldsR3 o)
  | .maxu o => some (0x0, 0x13, fldsR3 o)
  | .clz o => some (0x0, 0x14, fldsR2 o)
  | .popc o => some (0x0, 0x15, fldsR2 o)
  | .sel o => some (0x0, 0x16, fldsRsel o)
  | .cmpeq o => some (0x0, 0x20, fldsRcmp o)
  | .cmpne o => some (0x0, 0x21, fldsRcmp o)
  | .cmplt o => some (0x0, 0x22, fldsRcmp o)
  | .cmpltu o => some (0x0, 0x23, fldsRcmp o)
  | .cmple o => some (0x0, 0x24, fldsRcmp o)
  | .cmpleu o => some (0x0, 0x25, fldsRcmp o)
  | .pand o => some (0x0, 0x28, fldsP3 o)
  | .por o => some (0x0, 0x29, fldsP3 o)
  | .pnot o => some (0x0, 0x2A, fldsP2 o)
  | .addi o => some (0x1, 0x01, fldsI3 o)
  | .andi o => some (0x1, 0x03, fldsI3 o)
  | .ori o => some (0x1, 0x04, fldsI3 o)
  | .xori o => some (0x1, 0x05, fldsI3 o)
  | .shli o => some (0x1, 0x07, fldsIsh o)
  | .shri o => some (0x1, 0x08, fldsIsh o)
  | .srai o => some (0x1, 0x09, fldsIsh o)
  | .li o => some (0x1, 0x30, fldsIli o)
  | .lih o => some (0x1, 0x31, fldsIli o)
  | .br o => some (0x2, 0x01, fldsBr o)
  | .jmp o => some (0x2, 0x02, fldsJ o)
  | .call o => some (0x2, 0x03, fldsCall o)
  | .ret o => some (0x2, 0x04, fldsRet o)
  | .loop o => some (0x2, 0x05, fldsJ o)
  | .idle => some (0x2, 0x06, [(47, 0)])
  | .rgn o => some (0x3, 0x01, fldsSyi o)
  | .rgnend => some (0x3, 0x02, [(47, 0)])
  | .mfsr o => some (0x3, 0x03, fldsMfsr o)
  | .mtsr o => some (0x3, 0x04, fldsMtsr o)
  | .trap o => some (0x3, 0x05, fldsSyi o)
  | .rti => some (0x3, 0x06, [(47, 0)])
  | .halt => some (0x3, 0x07, [(47, 0)])
  | .iinvAll => some (0x3, 0x08, [(47, 0)])
  | .iinvLine o => some (0x3, 0x08, fldsIin1 o)
  | .iinvPage o => some (0x3, 0x08, fldsIin2 o)
  | .rdgtc o => some (0x3, 0x09, fldsSyd o)
  | .realign => some (0x3, 0x0A, [(47, 0)])
  | .brk o => some (0x3, 0x0B, fldsSyi o)
  | .lds o => some (0x4, 0x01, fldsMld o)
  | .sts o => some (0x4, 0x02, fldsMst o)
  | .gld o => some (0x4, 0x03, fldsGld o)
  | .gst o => some (0x4, 0x04, fldsGst o)
  | .xlat o => some (0x4, 0x05, fldsXlat o)
  | .hinv o => some (0x4, 0x06, fldsHinv o)
  | .fence o => some (0x4, 0x07, fldsFence o)
  | .binit o => some (0x4, 0x08, fldsMst o)
  | .arrive o => some (0x4, 0x09, fldsMad o)
  | .bwait o => some (0x4, 0x0A, fldsMad o)
  | .btest o => some (0x4, 0x0B, fldsMtest o)
  | .await o => some (0x4, 0x0C, fldsMawait o)
  | .amoadd o => some (0x4, 0x10, fldsAmo o)
  | .amoxor o => some (0x4, 0x11, fldsAmo o)
  | .amomin o => some (0x4, 0x12, fldsAmo o)
  | .amomax o => some (0x4, 0x13, fldsAmo o)
  | .amoswp o => some (0x4, 0x14, fldsAmo o)
  | .amocas o => some (0x4, 0x15, fldsAmo o)
  | .vadd o => some (0x5, 0x02, fldsV3 o)
  | .evadd o => some (0x5, 0x03, fldsV3 o)
  | .vsub o => some (0x5, 0x04, fldsV3 o)
  | .evsub o => some (0x5, 0x05, fldsV3 o)
  | .vmac o => some (0x5, 0x06, fldsV3 o)
  | .evmac o => some (0x5, 0x07, fldsV3 o)
  | .vmas o => some (0x5, 0x08, fldsV3 o)
  | .evmas o => some (0x5, 0x09, fldsV3 o)
  | .vneg o => some (0x5, 0x0A, fldsV2 o)
  | .evneg o => some (0x5, 0x0B, fldsV2 o)
  | .vnot o => some (0x5, 0x0C, fldsV2 o)
  | .evnot o => some (0x5, 0x0D, fldsV2 o)
  | .vxor o => some (0x5, 0x0E, fldsV3 o)
  | .evxor o => some (0x5, 0x0F, fldsV3 o)
  | .vxand o => some (0x5, 0x10, fldsV3 o)
  | .evxand o => some (0x5, 0x11, fldsV3 o)
  | .vswap o => some (0x5, 0x12, fldsVsw o)
  | .vcswap o => some (0x5, 0x14, fldsVcsw o)
  | .vshl o => some (0x5, 0x16, fldsV3 o)
  | .evshl o => some (0x5, 0x17, fldsV3 o)
  | .vshr o => some (0x5, 0x18, fldsV3 o)
  | .evshr o => some (0x5, 0x19, fldsV3 o)
  | .vsra o => some (0x5, 0x1A, fldsV3 o)
  | .evsra o => some (0x5, 0x1B, fldsV3 o)
  | .vrotl o => some (0x5, 0x1C, fldsV3 o)
  | .evrotl o => some (0x5, 0x1D, fldsV3 o)
  | .vand o => some (0x5, 0x1E, fldsV3 o)
  | .evand o => some (0x5, 0x1F, fldsV3 o)
  | .vor o => some (0x5, 0x20, fldsV3 o)
  | .evor o => some (0x5, 0x21, fldsV3 o)
  | .vmin o => some (0x5, 0x22, fldsV3 o)
  | .evmin o => some (0x5, 0x23, fldsV3 o)
  | .vmax o => some (0x5, 0x24, fldsV3 o)
  | .evmax o => some (0x5, 0x25, fldsV3 o)
  | .vabs o => some (0x5, 0x26, fldsV2 o)
  | .evabs o => some (0x5, 0x27, fldsV2 o)
  | .vmul o => some (0x5, 0x28, fldsV3 o)
  | .evmul o => some (0x5, 0x29, fldsV3 o)
  | .vpopc o => some (0x5, 0x2A, fldsV2 o)
  | .evpopc o => some (0x5, 0x2B, fldsV2 o)
  | .vclz o => some (0x5, 0x2C, fldsV2 o)
  | .evclz o => some (0x5, 0x2D, fldsV2 o)
  | .vcmpeq o => some (0x5, 0x2E, fldsV3m o)
  | .evcmpeq o => some (0x5, 0x2F, fldsV3m o)
  | .vcmplt o => some (0x5, 0x30, fldsV3m o)
  | .evcmplt o => some (0x5, 0x31, fldsV3m o)
  | .vcmple o => some (0x5, 0x32, fldsV3m o)
  | .evcmple o => some (0x5, 0x33, fldsV3m o)
  | .vsel o => some (0x5, 0x34, fldsVsel o)
  | .evsel o => some (0x5, 0x35, fldsVsel o)
  | .vassz o => some (0x5, 0x36, fldsVasz o)
  | .vzmask o => some (0x5, 0x38, fldsVzm o)
  | .evzmask o => some (0x5, 0x39, fldsVzm o)
  | .vfadd o => some (0x6, 0x02, fldsV3 o)
  | .evfadd o => some (0x6, 0x03, fldsV3 o)
  | .vfsub o => some (0x6, 0x04, fldsV3 o)
  | .evfsub o => some (0x6, 0x05, fldsV3 o)
  | .vfmul o => some (0x6, 0x06, fldsV3 o)
  | .evfmul o => some (0x6, 0x07, fldsV3 o)
  | .vfma o => some (0x6, 0x08, fldsV4 o)
  | .evfma o => some (0x6, 0x09, fldsV4 o)
  | .vfmin o => some (0x6, 0x0A, fldsV3 o)
  | .evfmin o => some (0x6, 0x0B, fldsV3 o)
  | .vfmax o => some (0x6, 0x0C, fldsV3 o)
  | .evfmax o => some (0x6, 0x0D, fldsV3 o)
  | .vfneg o => some (0x6, 0x0E, fldsV2 o)
  | .evfneg o => some (0x6, 0x0F, fldsV2 o)
  | .vfabs o => some (0x6, 0x10, fldsV2 o)
  | .evfabs o => some (0x6, 0x11, fldsV2 o)
  | .vfrcp o => some (0x6, 0x12, fldsV2 o)
  | .evfrcp o => some (0x6, 0x13, fldsV2 o)
  | .vfrsq o => some (0x6, 0x14, fldsV2 o)
  | .evfrsq o => some (0x6, 0x15, fldsV2 o)
  | .vfexp2 o => some (0x6, 0x16, fldsV2 o)
  | .evfexp2 o => some (0x6, 0x17, fldsV2 o)
  | .vflog2 o => some (0x6, 0x18, fldsV2 o)
  | .evflog2 o => some (0x6, 0x19, fldsV2 o)
  | .vftanh o => some (0x6, 0x1A, fldsV2 o)
  | .evftanh o => some (0x6, 0x1B, fldsV2 o)
  | .vfcmp o => some (0x6, 0x1C, fldsVfc o)
  | .evfcmp o => some (0x6, 0x1D, fldsVfc o)
  | .vcvt o => some (0x6, 0x1E, fldsVc o)
  | .evcvt o => some (0x6, 0x1F, fldsVc o)
  | .vcvr o => some (0x6, 0x20, fldsVc o)
  | .evcvr o => some (0x6, 0x21, fldsVc o)
  | .vmerge o => some (0x6, 0x22, fldsVc o)
  | .evmerge o => some (0x6, 0x23, fldsVc o)
  | .vshoal o => some (0x6, 0x24, fldsVc o)
  | .evshoal o => some (0x6, 0x25, fldsVc o)
  | .vscale o => some (0x6, 0x26, fldsVc o)
  | .evscale o => some (0x6, 0x27, fldsVc o)
  | .vbpenc o => some (0x6, 0x28, fldsVc o)
  | .evbpenc o => some (0x6, 0x29, fldsVc o)
  | .vbpdec o => some (0x6, 0x2A, fldsVc o)
  | .evbpdec o => some (0x6, 0x2B, fldsVc o)
  | .vredadd o => some (0x6, 0x2C, fldsVc o)
  | .evredadd o => some (0x6, 0x2D, fldsVc o)
  | .vredmax o => some (0x6, 0x2E, fldsVc o)
  | .evredmax o => some (0x6, 0x2F, fldsVc o)
  | .vredmin o => some (0x6, 0x30, fldsVc o)
  | .evredmin o => some (0x6, 0x31, fldsVc o)
  | .vscan o => some (0x6, 0x32, fldsVc o)
  | .evscan o => some (0x6, 0x33, fldsVc o)
  | .vld o => some (0x7, 0x02, fldsVld o)
  | .evld o => some (0x7, 0x03, fldsVld o)
  | .vst o => some (0x7, 0x04, fldsVst o)
  | .evst o => some (0x7, 0x05, fldsVst o)
  | .vldx o => some (0x7, 0x06, fldsV2 o)
  | .evldx o => some (0x7, 0x07, fldsV2 o)
  | .vperm o => some (0x7, 0x08, fldsV3 o)
  | .evperm o => some (0x7, 0x09, fldsV3 o)
  | .vrmg o => some (0x7, 0x0A, fldsVr o)
  | .evrmg o => some (0x7, 0x0B, fldsVr o)
  | .vbcast o => some (0x7, 0x0C, fldsVbc o)
  | .evbcast o => some (0x7, 0x0D, fldsVbc o)
  | .vext o => some (0x7, 0x0E, fldsVext o)
  | .vins o => some (0x7, 0x10, fldsVins o)
  | .evins o => some (0x7, 0x11, fldsVins o)
  | .hpush o => some (0x7, 0x12, fldsHpush o)
  | .hpop o => some (0x7, 0x14, fldsHpop o)
  | .mand o => some (0x7, 0x16, fldsVk o)
  | .emand o => some (0x7, 0x17, fldsVk o)
  | .mor o => some (0x7, 0x18, fldsVk o)
  | .emor o => some (0x7, 0x19, fldsVk o)
  | .mnot o => some (0x7, 0x1A, fldsVk2 o)
  | .emnot o => some (0x7, 0x1B, fldsVk2 o)
  | .mringSet o => some (0x8, 0x01, fldsMrset o)
  | .mringRead o => some (0x8, 0x01, fldsMrread o)
  | .mringLoad o => some (0x8, 0x01, fldsMrload o)
  | .mtail o => some (0x8, 0x02, fldsMtail o)
  | .fmtq o => some (0x8, 0x03, fldsFmtq o)
  | .mwld o => some (0x8, 0x04, fldsMwld o)
  | .mmacr o => some (0x8, 0x05, fldsProd o)
  | .mmasr o => some (0x8, 0x06, fldsProd o)
  | .emmul o => some (0x8, 0x07, fldsProd o)
  | .emfma o => some (0x8, 0x08, fldsProd o)
  | .emclr o => some (0x8, 0x09, fldsStp o)
  | .rtqr o => some (0x9, 0x01, fldsRtqr o)
  | .rtapl o => some (0x9, 0x02, fldsRtapl o)
  | .rtinvQr o => some (0x9, 0x03, fldsRtinvq o)
  | .rtinvApl o => some (0x9, 0x03, fldsRtinva o)
  | .rtsolve o => some (0x9, 0x04, fldsRtsolve o)
  | .rtrd o => some (0x9, 0x05, fldsRtrw o)
  | .rtwr o => some (0x9, 0x06, fldsRtrw o)
  | .rtgainSet o => some (0x9, 0x07, fldsRtgs o)
  | .rtgainRead o => some (0x9, 0x07, fldsRtgr o)
  | .ertclr o => some (0x9, 0x08, fldsStp o)
  | .cpy o => some (0xA, 0x01, fldsC o)
  | .cpyx o => some (0xA, 0x02, fldsC o)
  | .cpycPack o => some (0xA, 0x03, fldsCcp o)
  | .cpycUnpack o => some (0xA, 0x03, fldsCcu o)
  | .cpyg o => some (0xA, 0x04, fldsCg o)
  | .cpys o => some (0xA, 0x05, fldsCs o)
  | .cpyz o => some (0xA, 0x06, fldsCz o)
  | .cpyv o => some (0xA, 0x07, fldsCv o)
  | .ppcmp o => some (0xA, 0x08, fldsPp o)
  | .lsend o => some (0xB, 0x01, fldsLsend o)
  | .lrecv o => some (0xB, 0x02, fldsLrecv o)
  | .lradd o => some (0xB, 0x03, fldsLradd o)
  | .lcancel o => some (0xB, 0x04, fldsLtile o)
  | .lprec o => some (0xB, 0x05, fldsLprec o)
  | .lwprec o => some (0xB, 0x06, fldsLwprec o)
  | .nmc o => some (0xB, 0x10, fldsNmc o)
  | .wake o => some (0xC, 0x01, fldsEng o)
  | .gate o => some (0xC, 0x02, fldsEng o)
  | .clkdiv o => some (0xC, 0x03, fldsClk o)
  | .rdmeterUsed o => some (0xC, 0x04, fldsRdmu o)
  | .rdmeterBal o => some (0xC, 0x04, fldsRdmb o)
  | .dsync o => some (0xC, 0x08, fldsDsync o)
  | .xsend o => some (0xC, 0x09, fldsXsend o)
  | .xrecv o => some (0xC, 0x0A, fldsXrecv o)
  | .pfx o => some (0xF, 0x00, fldsPfx o)
  | _ => none

/-- The step is a syllable. -/
def Instr.isSyllable (i : Instr) : Bool := i.fields.isSome

/-- The instruction's class carries a guard (R39). -/
def Instr.guarded (i : Instr) : Bool :=
  match i.fields with
  | some (c, _, _) => c ≤ 4
  | none => false

/-- The syllable is well formed: its instruction is, and a guard stands only where the class has one. -/
def Syl.wf (y : Syl) : Bool := y.i.isSyllable && y.i.wf && (y.i.guarded || y.g == 0#4)

/-- The word of a syllable with its S bit; 0 for a step that is no syllable (R30). -/
def encode (y : Syl) (last : Bool) : Word :=
  match y.i.fields with
  | some (c, op, l) =>
    BitVec.ofNat 64 (pack ((1, last.toNat) :: (4, c) :: (8, op) :: l ++ (if c ≤ 4 then [(4, y.g.toNat)] else [])))
  | none => 0

/-- What the decoder reads from an instruction of `nbits` bits `w`, the bits above `nbits` zero.  A syllable
is eight bytes, the first at the lowest address and least significant (R30). -/
def decodeTableWord (nbits w : Nat) : Option Instr :=
  match decode (BitVec.ofNat 64 (w % 2 ^ min nbits 64)) with
  | .ok y => some y.i
  | .error _ => none

end Sys2Proof
end

