-- ==== Sys2Proof/Machine/Alu.lean ====
section
/-! DEFINITION. The scalar arithmetic of R114 and R115, one function for each result the table gives. -/

namespace Sys2Proof.Machine

/-- The shift count n = sb[5:0] (R114). -/
def shCount (b : Word) : Nat := b.toNat % 64

def aluShl (a : Word) (n : Nat) : Word := BitVec.ofNat 64 (a.toNat * 2 ^ n)

/-- floor(u64(sa) / 2^n). -/
def aluShr (a : Word) (n : Nat) : Word := BitVec.ofNat 64 (a.toNat / 2 ^ n)

/-- wrap(floor(s64(sa) / 2^n)). -/
def aluSra (a : Word) (n : Nat) : Word := BitVec.ofInt 64 (a.toInt / 2 ^ n)

def aluMul (a b : Word) : Word := BitVec.ofNat 64 (a.toNat * b.toNat)

/-- The high half of the signed product. -/
def aluMulh (a b : Word) : Word := BitVec.ofInt 64 (a.toInt * b.toInt / 2 ^ 64)

def aluMulhu (a b : Word) : Word := BitVec.ofNat 64 (a.toNat * b.toNat / 2 ^ 64)

/-- The one case of signed overflow of a division. -/
def divOverflow (a b : Word) : Bool := a == 0x8000000000000000#64 && b == 0xFFFFFFFFFFFFFFFF#64

/-- div: fixed results for division by zero and for the one signed overflow, else towards zero. -/
def aluDiv (a b : Word) : Word :=
  if b = 0 then 0xFFFFFFFFFFFFFFFF
  else if divOverflow a b then 0x8000000000000000
  else BitVec.ofInt 64 (a.toInt.tdiv b.toInt)

def aluDivu (a b : Word) : Word := if b = 0 then 0xFFFFFFFFFFFFFFFF else BitVec.ofNat 64 (a.toNat / b.toNat)

/-- rem: sa for a zero divisor, 0 for the one signed overflow. -/
def aluRem (a b : Word) : Word :=
  if b = 0 then a else if divOverflow a b then 0 else BitVec.ofInt 64 (a.toInt - b.toInt * a.toInt.tdiv b.toInt)

def aluMin (a b : Word) : Word := if a.toInt ≤ b.toInt then a else b
def aluMax (a b : Word) : Word := if a.toInt ≤ b.toInt then b else a
def aluMinu (a b : Word) : Word := if a.toNat ≤ b.toNat then a else b
def aluMaxu (a b : Word) : Word := if a.toNat ≤ b.toNat then b else a

/-- The 0-bits above the highest 1-bit of a value of `w` bits; `w` when it is 0. -/
def leadingZeros (w x : Nat) : Nat := if x = 0 then w else w - 1 - Nat.log2 x

def aluClz (a : Word) : Word := BitVec.ofNat 64 (leadingZeros 64 a.toNat)

def aluPopc (a : Word) : Word := BitVec.ofNat 64 (pop a)

/-- lih: imm · 2^32 + sd[31:0]. -/
def aluLih (d : Word) (imm : BitVec 32) : Word := BitVec.ofNat 64 (imm.toNat * 2 ^ 32 + d.toNat % 2 ^ 32)

/-- sx: a 32-bit immediate, sign-extended (R48). -/
def sx32 (imm : BitVec 32) : Word := imm.signExtend 64

end Sys2Proof.Machine
end

