-- ==== Sys2Proof/Machine/Formats.lean ====
section
/-! DEFINITION. The number formats: the exact value of an element, exact sums and products, and the one rounding of
a value to a type (R190 to R204). -/

namespace Sys2Proof.Machine

/-- An exact value: no number, an infinity, or (−1)^neg · m · 2^e; a zero keeps its sign (R192). -/
inductive Val where
  | nan
  | inf (neg : Bool)
  | fin (neg : Bool) (m : Nat) (e : Int)
deriving DecidableEq, Repr

/-- +0. -/
def Val.zero : Val := .fin false 0 0

/-- The exact value of an integer. -/
def Val.int (k : Int) : Val := .fin (decide (k < 0)) k.natAbs 0

/-- m · 2^e as an integer multiple of 2^q, for q at most e. -/
def scaled (neg : Bool) (m : Nat) (e q : Int) : Int :=
  let k : Nat := m * 2 ^ (e - q).toNat
  if neg then -(k : Int) else k

/-- The value k · 2^q, a zero of the given sign (R204). -/
def Val.of (k q : Int) (zneg : Bool) : Val := if k = 0 then .fin zneg 0 0 else .fin (decide (k < 0)) k.natAbs q

def Val.neg : Val → Val
  | .nan => .nan
  | .inf s => .inf (!s)
  | .fin s m e => .fin (!s) m e

def Val.abs : Val → Val
  | .nan => .nan
  | .inf _ => .inf false
  | .fin _ m e => .fin false m e

/-- The exact sum; an exact zero is +0 unless both addends are −0 (R204). -/
def Val.add : Val → Val → Val
  | .nan, _ | _, .nan => .nan
  | .inf s, .inf t => if s = t then .inf s else .nan
  | .inf s, .fin _ _ _ => .inf s
  | .fin _ _ _, .inf t => .inf t
  | .fin s m e, .fin t n f => Val.of (scaled s m e (min e f) + scaled t n f (min e f)) (min e f) (s && t)

/-- The exact product (R204). -/
def Val.mul : Val → Val → Val
  | .nan, _ | _, .nan => .nan
  | .inf s, .inf t => .inf (s != t)
  | .inf s, .fin t n _ | .fin t n _, .inf s => if n = 0 then .nan else .inf (s != t)
  | .fin s m e, .fin t n f => .fin (s != t) (m * n) (e + f)

/-- The value times 2^k (R199). -/
def Val.scale (k : Int) : Val → Val
  | .fin s m e => .fin s m (e + k)
  | v => v

def Val.isFinite : Val → Bool
  | .fin _ _ _ => true
  | _ => false

def Val.isNan : Val → Bool
  | .nan => true
  | _ => false

def Val.isZero : Val → Bool
  | .fin _ 0 _ => true
  | _ => false

def Val.isNeg : Val → Bool
  | .nan => false
  | .inf s | .fin s _ _ => s

/-- The order of two values that are numbers; the two zeros are equal (R230). -/
def Val.lt : Val → Val → Bool
  | .nan, _ | _, .nan => false
  | .inf s, .inf t => s && !t
  | .inf s, .fin _ _ _ => s
  | .fin _ _ _, .inf t => !t
  | .fin s m e, .fin t n f => decide (scaled s m e (min e f) < scaled t n f (min e f))

def Val.eq (a b : Val) : Bool := !a.isNan && !b.isNan && !a.lt b && !b.lt a

/-- The smaller, with −0 below +0; no number if either is none (R228). -/
def Val.min (a b : Val) : Val :=
  if a.isNan || b.isNan then .nan else if a.lt b then a else if b.lt a then b else if a.isNeg then a else b

/-- The larger, with −0 below +0 (R228). -/
def Val.max (a b : Val) : Val :=
  if a.isNan || b.isNan then .nan else if a.lt b then b else if b.lt a then a else if a.isNeg then b else a

/-! ## Types -/

/-- The mantissa bits of a floating type (R191). -/
def fpM (et : BitVec 4) : Nat :=
  match et.toNat with
  | 6 => 23 | 4 => 10 | 5 => 7 | 8 => 2 | 7 => 3 | _ => 1

/-- The bias (R191). -/
def fpBias (et : BitVec 4) : Nat :=
  match et.toNat with
  | 6 => 127 | 4 => 15 | 5 => 127 | 8 => 15 | 7 => 7 | _ => 1

/-- The code of the largest finite value (R191). -/
def fpMax (et : BitVec 4) : Nat :=
  match et.toNat with
  | 6 => 0x7F7FFFFF | 4 => 0x7BFF | 5 => 0x7F7F | 8 => 0x7B | 7 => 0x7E | _ => 7

/-- The canonical NaN; FP4 has none and takes +0 (R191, R202). -/
def fpNan (et : BitVec 4) : Nat :=
  match et.toNat with
  | 6 => 0x7FC00000 | 4 => 0x7E00 | 5 => 0x7FC0 | 8 => 0x7E | 7 => 0x7F | _ => 0

/-- The type has infinities (R191). -/
def fpHasInf (et : BitVec 4) : Bool := et != 7#4 && et != 9#4

/-- FP32, FP16, BF16, E5M2, E4M3 and FP4 (R191). -/
def isFp (et : BitVec 4) : Bool := 4 ≤ et.toNat && et.toNat ≤ 9

/-- A signed integer type (R190). -/
def isSigned (et : BitVec 4) : Bool := et != 1#4

/-- The exponent of the smallest positive value. -/
def fpQmin (et : BitVec 4) : Int := 1 - (fpBias et : Int) - fpM et

/-- The value of a w-bit pattern as two's complement. -/
def signedOf (w x : Nat) : Int := if 2 ^ (w - 1) ≤ x then (x : Int) - (2 ^ w : Nat) else x

/-- The value of an integer element (R190). -/
def intOf (et : BitVec 4) (x : Nat) : Int := if isSigned et then signedOf (etWidth et) x else x

/-- The digit of a T2 or BP code; the reserved code reads 0 (R195). -/
def digitOf (c : Nat) : Int := if c = 1 then 1 else if c = 3 then -1 else 0

/-- The code of a digit (R195). -/
def digitCode (d : Int) : Nat := if d = 0 then 0 else if 0 < d then 1 else 3

/-- The reserved digit code (R195). -/
def digitBad (et : BitVec 4) (c : Nat) : Bool := 11 ≤ et.toNat && et.toNat ≤ 12 && c == 2

/-- The value of a floating code of sign bit s and magnitude code c (R191, R192). -/
def fpVal (et : BitVec 4) (s : Bool) (c : Nat) : Val :=
  if fpMax et < c then
    (if fpHasInf et && c == fpMax et + 1 then .inf s else .nan)
  else
    let e := c / 2 ^ fpM et
    let m := c % 2 ^ fpM et
    if e = 0 then .fin s m (fpQmin et) else .fin s (2 ^ fpM et + m) (fpQmin et + e - 1)

/-- The value of an element code of type et (R190 to R195). -/
def valOf (et : BitVec 4) (c : Nat) : Val :=
  if isFp et then fpVal et (2 ^ (etWidth et - 1) ≤ c) (c % 2 ^ (etWidth et - 1))
  else if et = 10#4 then
    let n := signedOf 4 c
    .fin (decide (n < 0)) (2 * n + 1).natAbs (-1)
  else if 11 ≤ et.toNat ∧ et.toNat ≤ 12 then Val.int (digitOf c)
  else Val.int (intOf et c)

/-! ## Rounding -/

/-- m / 2^k to the nearest integer, ties to even (R200). -/
def roundShift (m k : Nat) : Nat :=
  let q := m / 2 ^ k
  let r := m % 2 ^ k
  if 2 * r < 2 ^ k then q else if 2 ^ k < 2 * r then q + 1 else q + q % 2

/-- The exponent of the last place of a nonzero m · 2^e in a type of `mb` mantissa bits and smallest exponent qmin. -/
def ulpExp (mb : Nat) (qmin : Int) (m : Nat) (e : Int) : Int := max ((Nat.log2 m : Int) + e - mb) qmin

/-- m · 2^e in units of 2^q, rounded (R200). -/
def roundTo (m : Nat) (e q : Int) : Nat := if q ≤ e then m * 2 ^ (e - q).toNat else roundShift m (q - e).toNat

/-- The magnitude code of rnd(m · 2^e), running on past the largest finite one (R200). -/
def rndCode (et : BitVec 4) (m : Nat) (e : Int) : Nat :=
  if m = 0 then 0
  else
    let q := ulpExp (fpM et) (fpQmin et) m e
    (q - fpQmin et).toNat * 2 ^ fpM et + roundTo m e q

/-- A code of sign s and magnitude c. -/
def signed (et : BitVec 4) (s : Bool) (c : Nat) : Nat := (if s then 2 ^ (etWidth et - 1) else 0) + c

/-- The largest code a type saturates or overflows to: its infinity, or ±448 and ±6 (R202). -/
def fpTop (et : BitVec 4) : Nat := if fpHasInf et then fpMax et + 1 else fpMax et

/-- Conversion to a floating type: rnd and the range rule (R202). -/
def toFp (et : BitVec 4) : Val → Nat
  | .nan => fpNan et
  | .inf s => signed et s (fpTop et)
  | .fin s m e => signed et s (if fpMax et < rndCode et m e then fpTop et else rndCode et m e)

/-- The nearest integer, ties to even (R203). -/
def roundEven (s : Bool) (m : Nat) (e : Int) : Int :=
  let k : Nat := roundTo m e 0
  if s then -(k : Int) else k

def sat (x lo hi : Int) : Int := min (max x lo) hi

/-- The least and the greatest value of an integer type (R190). -/
def intMin (et : BitVec 4) : Int := if isSigned et then -(2 ^ (etWidth et - 1) : Nat) else 0
def intMax (et : BitVec 4) : Int := if isSigned et then (2 ^ (etWidth et - 1) - 1 : Nat) else 255

/-- An integer as a w-bit pattern. -/
def wrapTo (w : Nat) (x : Int) : Nat := (x % (2 ^ w : Nat)).toNat

/-- Conversion to an integer, H4 or T2 type (R203). -/
def toInteger (et : BitVec 4) : Val → Nat
  | .nan => 0
  | .inf s =>
    if et = 10#4 then (if s then 8 else 7)
    else if et = 11#4 then (if s then 3 else 1)
    else wrapTo (etWidth et) (if s then intMin et else intMax et)
  | .fin s m e =>
    if et = 10#4 then
      match (Val.fin s m e).add (.fin true 1 (-1)) with
      | .fin s m e => wrapTo 4 (sat (roundEven s m e) (-8) 7)
      | _ => 0
    else if et = 11#4 then digitCode (sat (roundEven s m e) (-1) 1)
    else wrapTo (etWidth et) (sat (roundEven s m e) (intMin et) (intMax et))

/-- Conversion of an exact value to a type, rounded once (R202, R203). -/
def conv (v : Val) (et : BitVec 4) : Nat := if isFp et then toFp et v else toInteger et v

/-- The largest finite value of a type. -/
def largest (et : BitVec 4) : Val := fpVal et false (fpMax et)

/-- floor(x · 2^k) of a finite value (R200, R207). -/
def floorScaled (k : Int) : Val → Int
  | .fin s m e =>
    let d := e + k
    let x : Int := if s then -(m : Int) else m
    if 0 ≤ d then x * (2 ^ d.toNat : Nat) else x / (2 ^ (-d).toNat : Nat)
  | _ => 0

/-- A shoal exponent byte: null, or its exponent (R198). -/
def shoalExp (q : Nat) : Option Int := if q = 0x80 then none else some (signedOf 8 q)

end Sys2Proof.Machine
end

