-- ==== Sys2Proof/Machine/Trans.lean ====
section
/-! DEFINITION. 1/a, 1/√a, 2^a, log2(a) and tanh(a) as exact values cut off far below any rounding point, with the
part cut off marked in one more bit, so that one rounding gives rnd() of the exact value (R229; log 20). -/

namespace Sys2Proof.Machine

/-- A magnitude between k and k + 1 units, or k exactly: one more bit says which. -/
def sticky (neg : Bool) (k : Nat) (exact : Bool) (q : Int) : Val :=
  .fin neg (2 * k + (if exact then 0 else 1)) (q - 1)

/-- floor of the square root, by `n` binary digits from the top. -/
def isqrt (x : Nat) : Nat → Nat → Nat
  | 0, r => r
  | n + 1, r => isqrt x n (if (r + 2 ^ n) * (r + 2 ^ n) ≤ x then r + 2 ^ n else r)

/-- 1/a for a nonzero finite a. -/
def recip (neg : Bool) (m : Nat) (e : Int) : Val :=
  let k := Nat.log2 m + 80
  sticky neg (2 ^ k / m) (2 ^ k % m == 0) (-e - k)

/-- 1/√a for a positive finite a. -/
def recipSqrt (m : Nat) (e : Int) : Val :=
  let odd := e % 2 != 0
  let m := if odd then 2 * m else m
  let e := if odd then e - 1 else e
  let k := 2 * (Nat.log2 m + 90)
  let x := 2 ^ k / m
  let r := isqrt x (Nat.log2 x / 2 + 1) 0
  sticky false r (2 ^ k % m == 0 && r * r == x) (-(e / 2) - k / 2)

/-- Fraction bits of the series below. -/
def fracBits : Nat := 320

/-- The terms of Σ t·x^k / (k+1)···: the exponential series from term `t` on, in units of 2^−320. -/
def expTerms (x : Nat) : Nat → Nat → Nat → Nat
  | 0, _, _ => 0
  | n + 1, k, t => t + expTerms x n (k + 1) (t * x / 2 ^ fracBits / (k + 1))

/-- e^x for x in units of 2^−320, to below 2^−300. -/
def expFix (x : Nat) : Nat := expTerms x 320 0 (2 ^ fracBits)

/-- The terms of 2·Σ (1/3)^(2k+1) / (2k+1), which is ln 2. -/
def ln2Terms : Nat → Nat → Nat → Nat
  | 0, _, _ => 0
  | n + 1, k, t => t / (2 * k + 1) + ln2Terms n (k + 1) (t / 9)

/-- ln 2 in units of 2^−320. -/
def ln2Fix : Nat := ln2Terms 120 0 (2 ^ (fracBits + 1) / 3)

/-- 2^a for a finite a (R229). -/
def pow2 (neg : Bool) (m : Nat) (e : Int) : Val :=
  if m = 0 then .fin false 1 0
  else if 10 ≤ (Nat.log2 m : Int) + e then .fin false 1 (if neg then -4096 else 4096)
  else
    let x := floorScaled fracBits (.fin neg m e)
    let f := (x % (2 ^ fracBits : Nat)).toNat
    let n := x / (2 ^ fracBits : Nat)
    if f = 0 then .fin false 1 n else sticky false (expFix (f * ln2Fix / 2 ^ fracBits)) false (n - fracBits)

/-- The binary digits of log2 of y in [1, 2), y in units of 2^−320, by squaring. -/
def logDigits : Nat → Nat → Nat → Nat
  | 0, _, d => d
  | n + 1, y, d =>
    let z := y * y / 2 ^ fracBits
    if 2 ^ (fracBits + 1) ≤ z then logDigits n (z / 2) (2 * d + 1) else logDigits n z (2 * d)

/-- log2(a) for a positive finite a (R229). -/
def log2Val (m : Nat) (e : Int) : Val :=
  let k := Nat.log2 m
  let n : Int := k + e
  if m = 2 ^ k then Val.int n
  else
    let v : Int := n * (2 ^ 140 : Nat) + (logDigits 140 (m * 2 ^ (fracBits - k)) 0 : Nat)
    if 0 ≤ v then sticky false v.toNat false (-140) else sticky true ((-v).toNat - 1) false (-140)

/-- tanh(a) for a nonzero finite a: a − a³/3 + … for a small one, (e^2a − 1) / (e^2a + 1) else (R229). -/
def tanhVal (neg : Bool) (m : Nat) (e : Int) : Val :=
  let top : Int := Nat.log2 m + e
  if top < -16 then .fin neg (m * 2 ^ 64 - 1) (e - 64)
  else if 4 ≤ top then .fin neg (2 ^ 64 - 1) (-64)
  else
    let x := (floorScaled (fracBits + 1) (.fin false m e)).toNat
    let y := expFix x
    sticky neg ((y - 2 ^ fracBits) * 2 ^ fracBits / (y + 2 ^ fracBits)) false (-fracBits)

/-- vfrcp (R229). -/
def fRcp : Val → Val
  | .nan => .nan
  | .inf s => .fin s 0 0
  | .fin s m e => if m = 0 then .inf s else recip s m e

/-- vfrsq (R229). -/
def fRsq : Val → Val
  | .nan => .nan
  | .inf s => if s then .nan else .zero
  | .fin s m e => if m = 0 then .inf s else if s then .nan else recipSqrt m e

/-- vfexp2 (R229). -/
def fExp2 : Val → Val
  | .nan => .nan
  | .inf s => if s then .zero else .inf false
  | .fin s m e => pow2 s m e

/-- vflog2 (R229). -/
def fLog2 : Val → Val
  | .nan => .nan
  | .inf s => if s then .nan else .inf false
  | .fin s m e => if m = 0 then .inf true else if s then .nan else log2Val m e

/-- vftanh (R229). -/
def fTanh : Val → Val
  | .nan => .nan
  | .inf s => .fin s 1 0
  | .fin s m e => if m = 0 then .fin s 0 0 else tanhVal s m e

end Sys2Proof.Machine
end

