-- ==== Sys2Proof/Machine/DevRows.lean ====
section
/-! DEFINITION. The rows of device memory: their channels, poison, dirty bits and access counters (R344 to R347, R354, R364,
R365). -/

namespace Sys2Proof.Machine

def State.updFe (s : State) (f : Fe → Fe) : State := { s with fe := f s.fe }

/-- An event of code `c` is written at TAIL with the GTC of the west die; when the ring is full the oldest entry is lost (R421,
R422; log 24). -/
def State.record (s : State) (c detail : Nat) : State :=
  let gtc := BitVec.ofNat 64 s.now + (match s.atoll 0 with
    | some a => a.st.gtcOff
    | none => 0)
  s.updFe fun f =>
    let t := (f.evtail + 1) % 256
    { f with evlog := SMap.set (SMap.set f.evlog (2 * f.evtail) gtc) (2 * f.evtail + 1) (BitVec.ofNat 64 (c + detail))
             evtail := t, evhead := if t = f.evhead then (t + 1) % 256 else f.evhead
             evlost := if t = f.evhead then min (2 ^ 32 - 1) (f.evlost + 1) else f.evlost }

/-- The page tables that stand at a root (R163, log 25). -/
def State.tableOf (s : State) (root : Nat) : List PageMap := ((s.fe.tables.find? fun t => t.1 == root).map fun t => t.2).getD []

/-! ## Rows and channels (R344 to R347) -/

def State.updDev (s : State) (f : Dev → Dev) : State := { s with dev := f s.dev }

/-- The channel of a device-memory row (R344). -/
def Dev.chanOf (d : Dev) (row : Nat) : Nat := d.live.getD (row % max 1 d.live.length) 0

/-- The row within its channel (R344). -/
def Dev.chanRow (d : Dev) (row : Nat) : Nat := row / max 1 d.live.length

def Dev.chan (d : Dev) (c : Nat) : Chan := (d.chans.find? fun x => x.c == c).getD (Chan.init c)

def Dev.updChan (d : Dev) (c : Nat) (f : Chan → Chan) : Dev :=
  { d with chans := d.chans.map fun x => if x.c = c then f x else x }

def State.updChan (s : State) (c : Nat) (f : Chan → Chan) : State := s.updDev fun d => d.updChan c f

/-- The row is past the live channels, or its channel is fenced: no access changes it (R347). -/
def Dev.dead (d : Dev) (row : Nat) : Bool := decide (12582912 * d.live.length ≤ row) || (d.chan (d.chanOf row)).state != 0

/-- An access to the row completes as an access to a poisoned row (R347, R354). -/
def Dev.bad (d : Dev) (row : Nat) : Bool := d.dead row || d.poison.contains row

/-- The page of 64 KiB of a row (R364). -/
def pageOf (row : Nat) : Nat := row / 512

/-- A demand access reads a row: an error that it finds is corrected and counted, or the row is poisoned and the error counted (R353,
R354, log 79). -/
def State.findError (s : State) (row : Nat) : State :=
  if s.dev.dead row then s else
  match s.dev.errs.find? fun e => e.1 == row with
  | some (_, false) => s.updDev fun d => d.updChan (d.chanOf row) fun x => { x with ce := min 65535 (x.ce + 1) }
  | some (_, true) =>
    s.updDev fun d => ({ d with mem := d.mem.setRow row 0, poison := row :: d.poison.filter fun p => p != row
                                errs := d.errs.filter fun e => e.1 != row } : Dev).updChan (d.chanOf row) fun x =>
      { x with ue := min 65535 (x.ue + 1) }
  | none => s

/-- An access that the controller serves counts there, and the page is reported when its counter reaches the threshold; `wr` says whether
it is a write, and `dirty` whether the write is made.  A fenced channel serves none (R347, R364, R365). -/
def State.touch (s : State) (row : Nat) (wr dirty : Bool) : State :=
  if s.dev.dead row then s else
  let c := s.dev.chanOf row
  let k := pageOf row * 256 + c
  let n := (SMap.get s.dev.acc k).toNat
  let n' := min 255 (n + 1)
  let s1 := s.updDev fun d => { d with acc := SMap.set d.acc k (BitVec.ofNat 8 n')
                                       dirty := if dirty && !d.dirty.contains (pageOf row) then d.dirty ++ [pageOf row] else d.dirty }
  if n < s.fe.acthr ∧ s.fe.acthr ≤ n' then s1.sched s.now 6 .none .accessCounterNotify (.n3 (pageOf row) c wr.toNat) else s1

/-- A demand read of a row: zero, and bad, for a poisoned one (R354). -/
def State.gmRead (s : State) (row : Nat) : (Row × Bool) × State :=
  let s := s.findError row
  ((if s.dev.bad row then 0 else s.dev.mem.row row, s.dev.bad row), s.touch row false false)

/-- A demand read of a word (R354). -/
def State.gmReadWord (s : State) (byte : Nat) : (Word × Bool) × State :=
  let r := s.gmRead (byte / 128)
  ((bits r.1.1 (byte % 128 / 8 * 64) 64, r.1.2), r.2)

/-- A write of a whole row clears its poison; a dead channel takes nothing (R347, R354). -/
def State.gmWrite (s : State) (row : Nat) (v : Row) : State :=
  if s.dev.dead row then s
  else (s.updDev fun d => { d with mem := d.mem.setRow row v, poison := d.poison.filter fun p => p != row
                                   errs := d.errs.filter fun e => e.1 != row }).touch row true true

/-- The controller writes the poison pattern over a row (R354, R435). -/
def State.gmPoison (s : State) (row : Nat) : State :=
  if s.dev.dead row then s
  else (s.updDev fun d =>
    { d with mem := d.mem.setRow row 0, poison := row :: d.poison.filter fun p => p != row
             errs := d.errs.filter fun e => e.1 != row }).touch row true true

/-- A write of a word into a row; it is discarded when the row is poisoned (R354). -/
def State.gmWriteWord (s : State) (byte : Nat) (v : Word) : Bool × State :=
  if s.dev.bad (byte / 128) then (true, s.touch (byte / 128) true false)
  else (false, (s.updDev fun d => { d with mem := d.mem.setWord byte v }).touch (byte / 128) true true)

end Sys2Proof.Machine
end

