-- ==== Sys2Proof/Machine/System.lean ====
section
/-! DEFINITION. The meanings of the system-register, stopping, time and code instructions of class 0x3
(R120, R142 to R147), and the walk of the page tables for code (R109, R163). -/

namespace Sys2Proof.Machine

/-- mfsr: sd takes the register as it stood at issue, at t+2 (R113, R120). -/
def execMfsr (o : MfsrOp) (s : State) : Res := .next (s.landIn 2 (.s o.d) (s.sysRead o.sr))

/-- The registers a user may write (R120). -/
def userWrites : SysReg → Bool
  | .aclass | .sbmode | .tvec | .idlemx | .lc | .trpc | .trcause | .trinfo => true
  | _ => false

/-- A user write of a privileged register, or of a privileged handler address to TVEC (R120, R122). -/
def trapsMtsr (o : MtsrOp) (s : State) : Option Trap :=
  firstTrap [trapIf (!s.privileged && !userWrites o.sr) tPriv (s.privInfo 1),
    trapIf (!s.privileged && o.sr == .tvec && (s.rdS o.a).getLsbD 47) tPriv (s.privInfo 6)]

/-- mtsr: the register's writable fields take sa, in force from t+1 (R113, R120). -/
def execMtsr (o : MtsrOp) (s : State) : Res :=
  s.unless (trapsMtsr o s)
    (let s1 := s.landIn 1 (.sys o.sr s.now) (s.rdS o.a)
     if o.sr = .idlemx then s1.regate (s.coreT 1) else s1)

/-- halt: the strand issues nothing more, and stops once its atoll has drained (R146). -/
def execHalt (s : State) : Res :=
  s.unless s.rgnIll
    (((s.updSt fun st => { st with run := .halting, pc := st.npc }).noFetchOf s.a.n).sched s.now 6 .none .strandStop .none)

/-- The step is work of the vector engine, the arrays, PP or the lanes that halt waits for (R146). -/
def Ev.drains (n : Nat) (e : Ev) : Bool :=
  e.atoll == n && (e.dom == .vx || e.dom == .mx || e.dom == .rt || e.dom == .ring)

/-- The command is PP's, or a copy whose destination is the scratchpad of the atoll that issued it (R146). -/
def CCmd.ownWork (n : Nat) (c : CCmd) : Bool := c.kind == .ppcmp || (decide (c.dst.sp ≤ 1) && c.dst.atoll == n)

/-- A copy whose destination is the strand's own scratchpad, or a command of PP, has not arrived on its barrier (R146). -/
def Atoll.copyIn (a : Atoll) : Bool := a.cq.any (CCmd.ownWork a.n) || !a.arriving.isEmpty

/-- The strand stops when nothing of its own atoll is left to do; else it looks again when the last thing due is
done, or when such a command arrives (R146). -/
def execStrandStop (s : State) : Res :=
  if s.a.st.run = .halting then
    let due := (s.agenda.filter (Ev.drains s.a.n)).foldl (fun m e => max m e.tick) 0
    if s.agenda.any (Ev.drains s.a.n) then .next (s.sched (edgeAt s.a.div.core (max due s.now)) 6 .none .strandStop .none)
    else if s.a.copyIn then .next s
    else .next (s.stopStrand .halted)
  else .next s

/-- iinv 0: every line but the pinned ones is invalid; the next bundle is not put off (R109, R147, log 101). -/
def execIinvAll (s : State) : Res := s.unless s.rgnIll (s.updSt fun st => { st with istore := [] })

/-- iinv 1: the line that holds address sa is invalid (R147). -/
def execIinvLine (o : SyA) (s : State) : Res :=
  s.unless s.rgnIll
    (s.updSt fun st => { st with istore := st.istore.filter fun l => l.1 != fld (s.rdS o.a) 7 41 })

/-- iinv 2: the lines of the 64 KiB page that holds sa are invalid (R147). -/
def execIinvPage (o : SyA) (s : State) : Res :=
  s.unless s.rgnIll
    (s.updSt fun st => { st with istore := st.istore.filter fun l => l.1 / 512 != fld (s.rdS o.a) 16 32 })

/-- rdgtc: sd takes GTC at the first tick of the issue cycle, at t+1 (R113, R144). -/
def execRdgtc (o : SyD) (s : State) : Res := .next (s.landIn 1 (.s o.d) s.gtc)

/-- brk: with breakpoints armed for the launch the strand stops and its launch is pre-empted with reason 4, and the
debug window shows n; else T_DATA of kind 0x02 (R143). -/
def execBrk (o : SyImm) (s : State) : Res :=
  s.unless s.rgnIll
    (match s.launch with
     | some l =>
       if l.brken then
         let s := (s.updSt fun st => { st with pc := st.npc, bpc := st.npc, wait := .stopped, more := [] }).noFetchOf s.a.n
         { s with fe := { s.fe with brkn := o.imm.toNat } }.later s.a.n .preemptRequest (.n2 s.a.slot 4)
       else s.takeTrap tData (0x20000 + o.imm.toNat) s.a.st.npc false
     | none => s.takeTrap tData (0x20000 + o.imm.toNat) s.a.st.npc false)

/-- The mapping of an address through the page tables of the strand's launch (R163). -/
def State.walkVa (s : State) (va : Nat) : Option PageMap :=
  match s.launch with
  | some l => walk (s.tableOf (l.desc.getD 5 0).toNat) va
  | none => none

/-- The device-memory row of a code line: its 128 bytes lie in one page (R109). -/
def codeRow (e : PageMap) (line : Nat) : Nat :=
  (e.frame * 2 ^ 16 + line * 128 % (if e.big then 2 ^ 21 else 2 ^ 16)) / 128

end Sys2Proof.Machine
end

