-- ==== Sys2Proof/Machine/Memory.lean ====
section
/-! DEFINITION. The meanings of class 0x4: loads, stores, atomics, handles, fences, barriers and address waits
(R149 to R189), and the steps at the bank units that carry them out. -/

namespace Sys2Proof.Machine

/-! ## Writes of the scratchpad and address waits -/

/-- The wait of an await on a word. -/
def Wait.awaits (byte : Nat) : Wait → Bool
  | .await _ _ b => b == byte
  | _ => false

/-- A monitor entry of the atoll in focus fires: it is free, an await on it ends with sd := 0, and the wake latch is
set (R119, R187, R188). -/
def State.fire (s : State) (byte : Nat) : State :=
  let s := s.updSt fun st =>
    { st with mons := st.mons.map fun m => match m with
        | some e => if e.byte = byte then none else some e
        | none => none }
  match s.waiting (Wait.awaits byte) with
  | some (.await t d b) => ((s.landIn 1 (.s d) 0).resume (.await t d b) 1).setWake
  | _ => s.setWake

/-- The armed entries that a write of `n` bytes at `byte` leaves different from their comparands (R187). -/
def Atoll.fired (a : Atoll) (byte n : Nat) : List Nat :=
  a.st.mons.filterMap fun m => match m with
    | some e =>
      if byte ≤ e.byte ∧ e.byte < byte + n ∧ Mem.word a.sp e.byte ≠ e.cmp then some e.byte else none
    | none => none

/-- A row of the scratchpad of the atoll in focus is written (R151). -/
def State.spSetRow (s : State) (row : Nat) (v : Row) : State :=
  let s := s.updA fun a => { a with sp := a.sp.setRow row v }
  (s.a.fired (128 * row) 128).foldl State.fire s

/-- A word of the scratchpad of the atoll in focus is written. -/
def State.spSetWord (s : State) (byte : Nat) (v : Word) : State :=
  let s := s.updA fun a => { a with sp := a.sp.setWord byte v }
  (s.a.fired (byte / 8 * 8) 8).foldl State.fire s

/-! ## The bank unit (R151, R177, R181) -/

/-- The new value an atomic writes, if it writes (R177). -/
def amoNew (k : AmoOp) (w v : Word) : Option Word :=
  match k with
  | .add => some (w + v)
  | .xor => some (w ^^^ v)
  | .min => some (if w.toInt ≤ v.toInt then w else v)
  | .max => some (if w.toInt ≤ v.toInt then v else w)
  | .swp => some v
  | .cas c => if w = c then some v else none

/-- The atomic is E-class, so the word's old 1-bits are erased (R177). -/
def amoErases : AmoOp → Bool
  | .add | .xor => false
  | _ => true

/-- complete of R181: the phase flips, COUNT clears, GEN counts, and a fault code enters the error phase. -/
def barComplete (b : Word) (c : Option Nat) : Word :=
  let b := setBits (setBits (setBits b 63 1 (fld b 63 1 + 1)) 16 16 0) 0 16 (fld b 0 16 + 1)
  match c with
  | none => b
  | some c => setBits (setBits b 62 1 1) 54 8 (fld b 54 8 ^^^ c)

/-- arrive_at of R181: the new word, and whether a strand over-arrived. -/
def barArrive (b : Word) (ph engine : Bool) (code : Nat) : Word × Bool :=
  if b.getLsbD 62 then (b, false)
  else if engine && code != 0 then (barComplete b (some code), false)
  else if ph != b.getLsbD 63 then (if engine then (barComplete b (some 0), false) else (b, true))
  else
    let b := setBits b 16 16 (fld b 16 16 + 1)
    (if fld b 16 16 = fld b 32 16 then barComplete b none else b, false)

/-- The phase named by ph is complete: PHASE differs from it, or ERROR is set (R181). -/
def barDone (b : Word) (ph : Bool) : Bool := b.getLsbD 63 != ph || b.getLsbD 62

/-- The outcome at a word: the value returned, the charge of the write beside the access's own, and an over-arrival. -/
structure Bank where
  v : Word
  chg : Nat
  over' : Bool
deriving DecidableEq, Repr

/-- The bank unit of the atoll in focus performs an access to one word as a single event (R151, R178, R181). -/
def State.bank (s : State) (x : Acc) : Bank × State :=
  let w := Mem.word s.a.sp x.byte
  match x.op with
  | .read => (⟨w, 0, false⟩, s)
  | .test ph => (⟨if barDone w ph then 1 else 0, 0, false⟩, s)
  | .wait ph => (⟨if barDone w ph then 1 else 0, 0, false⟩, s)
  | .write v => (⟨w, ajErase * pop w, false⟩, s.spSetWord x.byte v)
  | .amo k v =>
    match amoNew k w v with
    | some n => (⟨w, ajRow + (if amoErases k then ajErase * pop w else 0), false⟩, s.spSetWord x.byte n)
    | none => (⟨w, 0, false⟩, s)
  | .arrive ph engine code =>
    let r := barArrive w ph engine code
    (⟨r.1, 0, r.2⟩, s.spSetWord x.byte r.1)

/-- An engine's arrival, which no order of the strand's accesses holds back (R175). -/
def AccOp.byEngine : AccOp → Bool
  | .arrive _ e _ => e
  | _ => false

/-- The station reads the row for an access, and may write it (R152). -/
def AccOp.writes : AccOp → Bool
  | .read | .test _ | .wait _ => false
  | _ => true

/-- The first read of a bwait has still to perform, or the read that returns is on its way to CC. -/
def State.bwaitReading (s : State) : Bool :=
  s.agenda.any fun e => e.atoll == s.a.n && match e.arg with
    | .acc ⟨.wait _, _, _, _, _, _, _⟩ => true
    | .reply .none _ _ _ => e.i == .scalarRowReturn
    | _ => false

/-- The wait of a bwait. -/
def Wait.onBarrier : Wait → Bool
  | .bwait _ _ => true
  | _ => false

/-- A bwait of the atoll in focus on barrier word `byte` reads it again after an arrival; the read that finds the
phase complete returns to CC and is charged, once (R184). -/
def State.bwaitRecheck (s : State) (byte : Nat) : State :=
  match s.waiting (fun w => w.onBarrier) with
  | some (.bwait b ph) =>
    if b / 8 = byte / 8 ∧ barDone (Mem.word s.a.sp b) ph ∧ !s.bwaitReading then
      let h := hops (stationPos (station (b / 128))) posCC
      (s.charge ajRow).sched (s.now + h * s.a.div.ring) 3 .none .scalarRowReturn (.reply .none 1 none 0)
    else s
  | _ => s

/-! ## Addresses and checks at issue -/

/-- A scratchpad access of a syllable whose prefix names another space.  It names no handle: TRINFO[8:4] is 0 (R56, log 93). -/
def State.pfxLocal (s : State) : Option Trap := trapIf (decide (2 ≤ s.pfxSpace)) tHandle 4

/-- T_DATA of a scratchpad address (R150). -/
def State.eaTrap (s : State) (ea : Word) (localOnly : Bool) : Option Trap :=
  (s.eaCode ea localOnly).map fun c => ⟨tData, c⟩

/-- The lanes and ports of a local access of CC (R158): the ports at T + h, the data out, the row back. -/
def State.ccReq (s : State) (row : Nat) (wr out back : Bool) : List (Nat × Nat) :=
  let k := station row
  let h := hops (stationPos k) posCC
  let r := s.a.div.ring
  [(s.ringT + h * r, portCode k false)] ++ (if wr then [(s.ringT + h * r, portCode k true)] else []) ++
    (if out then path r k posCC (stationPos k) s.ringT else []) ++
    (if back then path r k (stationPos k) posCC (s.ringT + h * r) else [])

/-- Hops between CC and the station of a row, and between XB and it (R157). -/
def ccHops (row : Nat) : Nat := hops (stationPos (station row)) posCC
def xbHops (row : Nat) : Nat := hops (stationPos (station row)) posXB

/-- The shape of a scratchpad access: whether it writes its row, sends data out, returns a row; and whether it must be
local and is illegal in a region when remote (R150, R160). -/
structure Shape where
  wr : Bool
  data : Bool
  back : Bool
  localOnly : Bool
deriving DecidableEq, Repr

def shLoad : Shape := ⟨false, false, true, false⟩
def shStore : Shape := ⟨true, true, false, false⟩
def shAmo : Shape := ⟨true, true, true, false⟩
def shArrive : Shape := ⟨true, false, false, false⟩
def shTest : Shape := ⟨false, false, false, true⟩

/-- The checks at issue of a scratchpad access (R56, R129, R150, R155, R167). -/
def State.accTraps (s : State) (ea : Word) (f : Shape) : Option Trap :=
  firstTrap [if eaRemote ea && !f.localOnly then s.rgnIll else none, s.pfxLocal, s.eaTrap ea f.localOnly,
    if eaRemote ea then none else s.laneTrap (s.ccReq (eaRow ea) f.wr f.data f.back)]

/-- A request of CC that XB carries to atoll k.  Its data, if it has any, takes the lane from CC to XB; one for another package
first waits at its own atoll until the order of its strand lets it go (R153, R167, R172). -/
def State.toOwner (s : State) (data : Bool) (k : Nat) (i : Instr) (x : Acc) : State :=
  let r := if data then s.ride (fnLane posCC) posCC posXB s.ringT else (s.ringT + hops posCC posXB * s.a.div.ring, s)
  if 1000 ≤ k then r.2.laterBy (r.1 - s.now) s.a.n i (.accTo k x) else r.2.acrossFrom r.1 k i (.acc x)

/-- An access of CC to a word: at its own station at the fixed ring cycle of R158, or by XB at the owner (R167). -/
def State.access (s : State) (ea : Word) (f : Shape) (op : AccOp) (dst : Dst) (chg chgFar : Nat) : State :=
  let row := eaRow ea
  if eaRemote ea then
    s.toOwner f.data (s.owner ea) .remoteAccessArrival ⟨op, eaByte ea, dst, chgFar, s.cls 0, s.a.n, s.scope⟩
  else
    let req := s.ccReq row f.wr f.data f.back
    let d := s.laneDelay req
    (s.reserve req d).sched (s.ringT + (ccHops row + d) * s.a.div.ring) (if f.wr then 1 else 0) .ring
      .scalarStationAccess (.acc ⟨op, eaByte ea, dst, chg, s.cls 0, s.a.n, s.scope⟩)

/-- An access of CC to device or host memory leaves by XB, its data on the lane from CC (R153, R168, R178). -/
def State.toMemory (s : State) (data : Bool) (i : Instr) (x : GAcc) : State :=
  let r := if data then s.ride (fnLane posCC) posCC posXB s.ringT else (s.ringT + hops posCC posXB * s.a.div.ring, s)
  r.2.laterBy (r.1 - s.now) s.a.n i (.gacc x)

/-! ## Loads, stores and atomics of scratchpads -/

def trapsLds (o : MLd) (s : State) : Option Trap := s.accTraps (s.ea o.a o.off) shLoad

/-- lds (R167). -/
def execLds (o : MLd) (s : State) : Res :=
  let ea := s.ea o.a o.off
  s.unless (trapsLds o s)
    (s.access ea shLoad .read (.s o.d) (ajRow + ajHop * ccHops (eaRow ea)) (ajRow + ajHop * (xbHops (eaRow ea) + 2)))

def trapsSts (o : MSt) (s : State) : Option Trap := s.accTraps (s.ea o.a o.off) shStore

/-- sts (R167). -/
def execSts (o : MSt) (s : State) : Res :=
  let ea := s.ea o.a o.off
  s.unless (trapsSts o s)
    (s.access ea shStore (.write (s.rdS o.b)) .none (ajRow + ajHop * ccHops (eaRow ea))
      (ajRow + ajHop * (2 + xbHops (eaRow ea))))

/-- binit: the expected count is 1 to 65,535 (R150, R182). -/
def trapsBinit (o : MSt) (s : State) : Option Trap :=
  firstTrap [s.accTraps (s.ea o.a o.off) shStore,
    trapIf (s.rdS o.b == 0 || decide (65535 < (s.rdS o.b).toNat)) tData 0x20]

/-- binit writes the whole barrier word: PHASE from PH, EXPECT from sb, the rest zero (R182). -/
def execBinit (o : MSt) (s : State) : Res :=
  let ea := s.ea o.a o.off
  let word := BitVec.ofNat 64 ((eaPh ea).toNat * 2 ^ 63 + fld (s.rdS o.b) 0 16 * 2 ^ 32)
  s.unless (trapsBinit o s)
    (s.access ea shStore (.write word) .none (ajRow + ajHop * ccHops (eaRow ea))
      (ajRow + ajHop * (2 + xbHops (eaRow ea))))

/-- The checks of an access through a handle register; `sp` is the prefix's space (R162). -/
def State.handleTrap (s : State) (h : HReg) (o : Int) (wr amo : Bool) : Option Trap :=
  (handleReason (s.rdH h) o wr amo s.pfxSpace).map fun r => ⟨tHandle, r + h.toNat * 16⟩

def trapsAmo (o : Amo) (s : State) : Option Trap :=
  if o.G then firstTrap [s.rgnIll, s.handleTrap o.h (handleOff (s.rdS o.a) o.off) true true]
  else s.accTraps (s.ea o.a o.off) shAmo

/-- An atomic: at the bank unit of the word's station, or at the reef of its channel (R177, R178).  Its charges are
those of R169; the write's part is added where the write is made. -/
def amo (k : AmoOp) (o : Amo) (s : State) : Res :=
  let ea := s.ea o.a o.off
  let off := handleOff (s.rdS o.a) o.off
  s.unless (trapsAmo o s)
    (if o.G then
       s.toMemory true .reefAtomic ⟨false, handleByte (s.rdH o.h) off, .amo k (s.rdS o.b), .s o.d,
         2 * ajMemRow + 4 * ajHop, s.cls 0, s.a.n, hFrame (s.rdH o.h), s.scope⟩
     else
       s.access ea shAmo (.amo k (s.rdS o.b)) (.s o.d) (ajRow + 2 * ajHop * ccHops (eaRow ea))
         (ajRow + ajHop * (4 + 2 * xbHops (eaRow ea))))

/-- Atomic add (R177). -/
def execAmoadd (o : Amo) (s : State) : Res := amo .add o s
/-- Atomic xor (R177). -/
def execAmoxor (o : Amo) (s : State) : Res := amo .xor o s
/-- Atomic signed minimum (R177). -/
def execAmomin (o : Amo) (s : State) : Res := amo .min o s
/-- Atomic signed maximum (R177). -/
def execAmomax (o : Amo) (s : State) : Res := amo .max o s
/-- Atomic swap (R177). -/
def execAmoswp (o : Amo) (s : State) : Res := amo .swp o s
/-- Atomic compare and swap, with sd before the bundle as comparand (R177). -/
def execAmocas (o : Amo) (s : State) : Res := amo (.cas (s.rdS o.d)) o s

/-! ## Device and host memory -/

def trapsGld (o : GLdOp) (s : State) : Option Trap :=
  firstTrap [s.rgnIll, s.handleTrap o.h (handleOff (s.rdS o.a) o.off) false false]

/-- gld: one word of device or host memory through a handle (R162, R168). -/
def execGld (o : GLdOp) (s : State) : Res :=
  let h := s.rdH o.h
  s.unless (trapsGld o s)
    (s.toMemory false .gmAccess ⟨hSpace h == 3, handleByte h (handleOff (s.rdS o.a) o.off), .read, .s o.d,
      ajMemRow + 2 * ajHop, s.cls 0, s.a.n, hFrame h, s.scope⟩)

def trapsGst (o : GStOp) (s : State) : Option Trap :=
  firstTrap [s.rgnIll, s.handleTrap o.h (handleOff (s.rdS o.a) o.off) true false]

/-- gst (R162, R168). -/
def execGst (o : GStOp) (s : State) : Res :=
  let h := s.rdH o.h
  s.unless (trapsGst o s)
    (s.toMemory true .gmAccess ⟨hSpace h == 3, handleByte h (handleOff (s.rdS o.a) o.off), .write (s.rdS o.b),
      .none, ajMemRow + 2 * ajHop, s.cls 0, s.a.n, hFrame h, s.scope⟩)

/-! ## Handles and fences -/

/-- T_XLAT for a virtual address: TRINFO holds va[47:0] and the fault argument (R163, R164). -/
def xlatInfo (va : Word) : Nat := fld va 0 48 + (if fld va 48 16 ≠ 0 then 2 ^ 48 else 0)

/-- What the walk of xlat finds for a virtual address (R163). -/
def State.xlatWalk (s : State) (va : Word) : Option Word :=
  if fld va 48 16 ≠ 0 then none else (s.walkVa va.toNat).map handleOf

/-- xlat in its 24th core cycle: its walk has found no entry (R163). -/
def trapsXlat (o : XlatOp) (s : State) : Option Trap :=
  firstTrap [s.rgnIll, match s.a.st.walked with
    | some none => some ⟨tXlat, xlatInfo (s.rdS o.a)⟩
    | _ => none]

/-- xlat: on reaching issue the walk begins and the bundle waits 23 core cycles; in the 24th the handle is written,
landing at its end (R163). -/
def execXlat (o : XlatOp) (s : State) : Res :=
  s.unless (trapsXlat o s)
    (match s.a.st.walked with
     | some (some h) => (s.updSt fun st => { st with walked := none }).landIn 1 (.h o.h) h
     | _ => (s.noFetchOf s.a.n).sched (s.coreT 23) 4 .none .xlatWalkDone (.walk o.h (s.rdS o.a)))

/-- The walk has ended: the waiting bundle issues in this cycle, with the handle or the fault (R163). -/
def execXlatWalkDone (s : State) : Res :=
  match s.ev.arg with
  | .walk _ va =>
    .next ((s.updSt fun st => { st with pc := st.bpc, walked := some (s.xlatWalk va) }).fetchAt s.now)
  | _ => .next s

/-- hinv clears V of hN, landing at t+1 (R165). -/
def execHinv (o : HinvOp) (s : State) : Res :=
  s.unless s.rgnIll (s.landIn 1 (.h o.h) (s.rdH o.h &&& 0x7FFFFFFFFFFFFFFF))

/-- The ordering class of a fixed access: that of CC's access, or that which its bundle's vector memory syllable took; the rows of an
array and of an exchange have none (R54, R171, R270). -/
def State.fixedClass (s : State) (e : Ev) : Option (BitVec 4) :=
  match e.arg with
  | .acc x => some x.cls
  | .key _ => none
  | _ => (s.a.st.vk.find? fun v => v.1 == e.seq).map fun v => v.2

/-- The access of a step has a class in a fence's mask, and has still to perform at its scope (R174). -/
def State.inMask (s : State) (mask : BitVec 16) (e : Ev) : Bool :=
  (e.fixed s.a.n && !e.arrayAccess && match s.fixedClass e with
    | some k => mask.getLsbD k.toNat
    | none => false) ||
    match e.pendingAccess s.a.n with
    | some p => mask.getLsbD p.k.toNat && p.owed e.seq
    | none => false

/-- The accesses of earlier bundles of the strand whose class is in a fence's mask and that have not performed (R174). -/
def State.fenced (s : State) (mask : BitVec 16) (q : Nat) : List Ev :=
  s.agenda.filter fun e => decide (e.seq < q) && s.inMask mask e

/-- An access of a class in the mask is under way in another package (R174). -/
def State.fencedAbroad (s : State) (mask : BitVec 16) : Bool := s.a.st.ext.any fun x => mask.getLsbD x.2.cls.toNat

/-- fence holds later memory bundles until the accesses in its mask have performed (R174). -/
def execFence (o : FenceOp) (s : State) : Res :=
  if s.fenced o.mask s.ev.seq = [] ∧ !s.fencedAbroad o.mask then .next s
  else .next ((s.updSt fun st => { st with fences := st.fences ++ [(o.mask, s.ev.seq)] }).sched
    (max s.now (lastTick (s.fenced o.mask s.ev.seq))) 3 .none .fenceComplete (.fence o.mask s.ev.seq))

/-- Every access in the mask has performed, or the fence looks again when the last one due is done (R174). -/
def execFenceComplete (s : State) : Res :=
  match s.ev.arg with
  | .fence mask q =>
    if s.fenced mask q ≠ [] then .next (s.again (max (s.now + 1) (lastTick (s.fenced mask q))))
    else if s.fencedAbroad mask then .next (s.again (s.now + 4))
    else .next (s.updSt fun st => { st with fences := st.fences.filter fun f => f != (mask, q) })
  | _ => .next s

/-! ## Barriers and address waits -/

/-- The tick at which a local arrive performs: T + h, or one ring cycle after the last earlier fixed write, and no earlier than an
earlier fixed read (R183, log 103). -/
def State.arriveTick (s : State) (row : Nat) : Nat :=
  let earlier := s.agenda.filter fun e => e.fixed s.a.n && decide (e.seq < s.ev.seq)
  let w := lastPerform (earlier.filter (Ev.fixedWrite s.a.n))
  max (max (s.ringT + ccHops row * s.a.div.ring) (if w = 0 then 0 else w + s.a.div.ring))
    (edgeAt s.a.div.ring (lastPerform earlier))

/-- The ports of a local arrival, which is a bank-unit update (R152, R155). -/
def State.arriveReq (s : State) (row : Nat) : List (Nat × Nat) := portsAt (s.arriveTick row) row true true

def trapsArrive (o : MAd) (s : State) : Option Trap :=
  let ea := s.ea o.a o.off
  firstTrap [if eaRemote ea then s.rgnIll else none, s.pfxLocal, s.eaTrap ea false,
    if eaRemote ea then none else s.laneTrap (s.arriveReq (eaRow ea))]

/-- arrive: the arrival performs after every earlier access; outside a region the next bundle waits for its outcome (R183). -/
def execArrive (o : MAd) (s : State) : Res :=
  let ea := s.ea o.a o.off
  s.unless (trapsArrive o s)
    (let x : Acc := ⟨.arrive (eaPh ea) false 0, eaByte ea, .none, 2 * ajRow, s.cls 0, s.a.n, s.scope⟩
     let s1 := if s.a.st.rgn.isNone then s.waitFor .outcome else s
     if eaRemote ea then s1.toOwner false (s.owner ea) .barrierArrival x
     else
       let req := s.arriveReq (eaRow ea)
       let d := s.laneDelay req
       (s1.reserve req d).sched (s.arriveTick (eaRow ea) + d * s.a.div.ring) 1 .ring .barrierArrival (.acc x))

def trapsBwait (o : MAd) (s : State) : Option Trap :=
  firstTrap [s.rgnIll, s.accTraps (s.ea o.a o.off) shTest]

/-- bwait reads its barrier at the ring cycle of R158 and waits until the phase is complete (R184). -/
def execBwait (o : MAd) (s : State) : Res :=
  let ea := s.ea o.a o.off
  s.unless (trapsBwait o s)
    ((s.waitFor (.bwait (eaByte ea) (eaPh ea))).access ea shTest (.wait (eaPh ea)) .none ajRow 0)

def trapsBtest (o : MTest) (s : State) : Option Trap := s.accTraps (s.ea o.a o.off) shTest

/-- btest: pd tells whether the phase is complete, at t+2h+1 (R185). -/
def execBtest (o : MTest) (s : State) : Res :=
  let ea := s.ea o.a o.off
  s.unless (trapsBtest o s) (s.access ea shTest (.test (eaPh ea)) (.p o.p) ajRow 0)

def trapsAwait (o : MAwait) (s : State) : Option Trap :=
  firstTrap [s.rgnIll, s.pfxLocal, s.eaTrap (s.ea o.a o.off) true]

/-- The monitor table with an entry for the word: its own changed, else the first free one armed; none when full (R188). -/
def armMon (ms : List (Option Mon)) (byte : Nat) (c : Word) : Option (List (Option Mon)) :=
  if ms.any (fun m => match m with | some e => e.byte == byte | none => false) then
    some (ms.map fun m => match m with
      | some e => if e.byte = byte then some ⟨byte, c⟩ else some e
      | none => none)
  else match ms.findIdx? Option.isNone with
    | some k => some (ms.set k (some ⟨byte, c⟩))
    | none => none

/-- await tests its word, arms a monitor entry and waits for it to fire, or for 65,536 core cycles (R188). -/
def execAwait (o : MAwait) (s : State) : Res :=
  let byte := eaByte (s.ea o.a o.off) / 8 * 8
  let s0 := s.chargeAt (s.coreT 0) ajRow
  s.unless (trapsAwait o s)
    (if Mem.word s.a.sp byte ≠ s.rdS o.b then s0.landIn 1 (.s o.d) 0
     else match armMon s.a.st.mons byte (s.rdS o.b) with
       | none => s0.landIn 1 (.s o.d) 1
       | some ms =>
         let s1 := (s0.updSt fun st => { st with mons := ms }).newToken
         (s1.waitFor (.await s1.a.st.token o.d byte)).sched (s.coreT 65536) 3 .none .awaitTimeout (.n s1.a.st.token))

/-- The await whose timeout has token k. -/
def Wait.isAwait (k : Nat) : Wait → Bool
  | .await t _ _ => t == k
  | _ => false

/-- 65,536 core cycles have passed at await: sd := 2 and the entry stays armed (R188). -/
def execAwaitTimeout (s : State) : Res :=
  match s.ev.arg with
  | .n k =>
    match s.waiting fun w => w.isAwait k with
    | some (.await t d b) => .next ((s.landIn 1 (.s d) 2).resume (.await t d b) 1)
    | _ => .next s
  | _ => .next s

/-! ## The steps at the bank units -/

/-- The source row of an xsend is read; it will leave XB at the first mesh edge at or after R + t (R381). -/
def State.xsendRead (s : State) (k : XKey) : State :=
  match s.a.xs.find? fun e => e.key == k with
  | some e =>
    let v := s.a.sp.row e.dst
    let s1 := (s.updA fun a => { a with xs := a.xs.map fun x => if x.key = k then { x with row := v } else x }).charge
      (ajRow + ajHop * xbHops e.dst + ajStrait * s.straits k.rcv)
    s1.sched (edgeAt 4 (max (e.phase + k.t) (s.now + xbHops e.dst * s.a.div.ring))) 6 .none .xsendDepart (.key k)
  | none => s

/-- An earlier access of CC to the station of a row has not performed: they perform in program order (R158). -/
def State.behindCc (s : State) (row : Nat) : Bool :=
  s.a.st.rgn.isNone && s.agenda.any fun e => e.i == .scalarStationAccess && e.atoll == s.a.n && decide (e.seq < s.ev.seq) &&
    match e.arg with
    | .acc x => station (x.byte / 128) == station row
    | _ => false

/-- An access of CC returns its row. -/
def AccOp.returns : AccOp → Bool
  | .read | .test _ | .amo _ _ => true
  | _ => false

/-- A local access of CC performs at its station; what it returns travels back (R152, R158). -/
def execScalarStationAccess (s : State) : Res :=
  match s.ev.arg with
  | .acc x =>
    let row := x.byte / 128
    let k := station row
    if s.portHeld row true x.op.writes || s.behindCc row then
      .next (s.portWait fun t => portsAt t row true x.op.writes ++
        if x.op.returns then path s.a.div.ring k (stationPos k) posCC t else [])
    else
      let (b, s1) := s.bank x
      let back := s.now + ccHops row * s.a.div.ring
      match x.op with
      | .wait _ => if b.v = 1 then .next ((s1.charge x.chg).sched back 3 .none .scalarRowReturn (.reply .none 1 none 0)) else .next s1
      | .read | .test _ | .amo _ _ =>
        .next (s1.sched back 0 .ring .scalarRowReturn (.reply x.dst b.v none (x.chg + b.chg)))
      | _ => .next (s1.charge (x.chg + b.chg))
  | .key k =>
    match s.a.xs.find? fun e => e.key == k with
    | some e => .next (if s.portHeld e.dst true false then s.portWait (fun t => portsAt t e.dst true false) else s.xsendRead k)
    | none => .next s
  | _ => .next s

/-- A returned row has reached CC: its result lands at the next core edge, where its charges are applied; a bwait returns, whose
read was charged when it performed (R88, R158, R184). -/
def execScalarRowReturn (s : State) : Res :=
  match s.ev.arg with
  | .reply d v _ chg =>
    let s1 := s.chargeAt s.coreAfter chg
    match d, s.waiting Wait.onBarrier with
    | .none, some w => .next (s1.resumeAt w s.coreAfter)
    | .none, none => .next s1
    | _, _ => .next (s1.sched s.coreAfter 2 .ring .scalarResultLand (.land d v))
  | _ => .next s

/-- An access or arrival from elsewhere is not yet granted: its ring edge, its station's ports or the order of its
strand hold it back (R152, R172). -/
def State.remoteWait (s : State) (x : Acc) : Option Nat :=
  let row := x.byte / 128
  let e := s.a.edge 4 s.now
  if e ≠ s.now then some e
  else if s.portTaken row true x.op.writes || s.portHeld row true x.op.writes then some (s.now + s.a.div.ring)
  else if x.src < 1000 ∧ !x.op.byEngine then
    let w := s.a.n * 2 ^ 24 + x.byte / 8
    let b := s.blockers x.src s.ev.seq x.cls w
    if b ≠ [] ∨ s.extBlocks x.src x.cls w then some (max (s.now + s.a.div.ring) (edgeAt s.a.div.ring (lastTick b))) else none
  else none

/-- The station grants an access from elsewhere: it takes its ports in this ring cycle (R17, R152). -/
def State.granted (s : State) (x : Acc) : State := s.reserve (portsAt s.now (x.byte / 128) true x.op.writes) 0

/-- A reply to the atoll that issued an access: the word leaves the station for XB, and goes to this package or another (R153,
R167). -/
def State.replyTo (s : State) (x : Acc) (v : Word) (chg : Nat) : State :=
  let k := station (x.byte / 128)
  let r := s.ride k (stationPos k) posXB s.now
  if 1000 ≤ x.src then r.2.laterBy (r.1 - s.now) s.a.n .remoteReply (.accTo x.src { x with op := .write v, chg := chg })
  else r.2.acrossFrom r.1 x.src .remoteReply (.reply x.dst v none 0)

/-- A remote access has come to XB: data that it brings goes on to the station, and the access asks there, a read before what the
strand writes in that ring cycle (R152, R153). -/
def State.fromXb (s : State) (x : Acc) : State :=
  let k := station (x.byte / 128)
  let t := s.a.edge 4 s.now
  let r := match x.op with
    | .write _ | .amo _ _ => s.ride k posXB (stationPos k) t
    | _ => (t + hops posXB (stationPos k) * s.a.div.ring, s)
  { r.2 with agenda := insertEv { s.ev with tick := r.1, phase := if x.op.writes then 1 else 0 } r.2.agenda }

/-- An access for an atoll of another package leaves once those before it in its strand's order have performed (R172, R183). -/
def State.sendAbroad (s : State) (k : Nat) (x : Acc) : State :=
  (s.sendFrame (.access k x)).updSt fun st => { st with ext := st.ext ++ [(k, x)] }

/-- What an access that waits to leave the package waits for (R172). -/
def State.abroadWait (s : State) (k : Nat) (x : Acc) : Option Nat :=
  let w := (x.pend k).w
  let b := s.blockers s.a.n s.ev.seq x.cls w
  if b ≠ [] ∨ s.extBlocks s.a.n x.cls w then some (max (s.now + s.a.div.ring) (lastTick b)) else none

/-- A remote read, write or atomic is granted at the owner's station and performed there (R152, R167, R178). -/
def execRemoteAccessArrival (s : State) : Res :=
  match s.ev.arg with
  | .acc x =>
    if s.ev.phase = 6 then .next (s.fromXb x)
    else match s.remoteWait x with
    | some t => .next (s.again t)
    | none =>
      let (b, s0) := s.bank x
      let s2 := (s0.granted x).chargeOf x.src (x.chg + b.chg)
      match x.op with
      | .read | .amo _ _ => .next (s2.replyTo x b.v (x.chg + b.chg))
      | _ => .next (if 1000 ≤ x.src then s2.sendFrame (.reply x.src .none 0 (x.chg + b.chg) x.byte false) else s2)
  | .accTo k x => .next (match s.abroadWait k x with
    | some t => s.again t
    | none => s.sendAbroad k x)
  | _ => .next s

/-- A reply reaches XB of the issuing atoll: its charges are applied, a flag set, and its word goes to CC and lands; a reply for another
package leaves (R88, R153, R167, R168). -/
def execRemoteReply (s : State) : Res :=
  match s.ev.arg with
  | .reply d v f chg =>
    if s.a.n = s.ev.atoll then
      let r := ((s.chargeNow chg).flag f).ride (fnLane posXB) posXB posCC s.ringT
      .next (r.2.sched (s.a.edge 0 (r.1 + 1)) 2 .none .scalarResultLand (.land d v))
    else .next s
  | .accTo k ⟨.write v, byte, d, chg, _, _, _⟩ => .next (s.sendFrame (.reply k d v chg byte false))
  | _ => .next s

/-- A strand's arrive waits until every earlier access of its strand, of every class, has performed at its own scope (R183). -/
def State.releaseWait (s : State) (x : Acc) : Option Nat :=
  match x.op with
  | .arrive _ false _ =>
    let b := s.agenda.filter fun e =>
      decide (e.seq < s.ev.seq) && (e.fixed x.src || match e.pendingAccess x.src with
        | some p => { p with lv := x.lv }.owed e.seq
        | none => false)
    if b ≠ [] ∨ s.extOf x.src ≠ [] then some (max (s.now + s.a.div.ring) (edgeAt s.a.div.ring (lastTick b + 1))) else none
  | _ => none

/-- An engine's arrival that its strand's halt waits for has performed (R146). -/
def State.arrived (s : State) (src byte : Nat) : State :=
  if src < 1000 then
    (s.updAtoll src fun a => { a with arriving := a.arriving.erase (s.a.n, byte) }).schedAt src s.now 6 .none .strandStop .none
  else s

/-- An arrival performs at the bank unit of its barrier; a strand's outcome travels back, a waiting bwait looks again,
and the wake latch of the barrier's strand is set (R119, R181, R183, R184). -/
def execBarrierArrival (s : State) : Res :=
  match s.ev.arg with
  | .acc x =>
    let row := x.byte / 128
    let own := s.ev.dom == .ring
    match (if own then none else s.remoteWait x), s.releaseWait x with
    | some t, _ => .next (s.again t)
    | none, some t => .next (if own then s.askAt t fun t => portsAt t row true true else s.again t)
    | none, none =>
      if own && s.portHeld row true true then .next (s.portWait fun t => portsAt t row true true)
      else
      let (b, s1) := (if own then s else s.granted x).bank x
      let s2 := (s1.bwaitRecheck x.byte).setWake
      match x.op with
      | .arrive ph false _ =>
        let info := x.byte + ph.toNat * 2 ^ 23 + (if own then 0 else 2 ^ 24)
        let s3 := s2.chargeOf x.src x.chg
        if own then .next (s3.sched (s.now + ccHops row * s.a.div.ring) 3 .ring .arriveOutcome (.outcome b.over' info))
        else if 1000 ≤ x.src then .next (s3.sendFrame (.reply x.src .none (if b.over' then 1 else 0) x.chg x.byte true))
        else .next (s3.acrossFrom s.now x.src .arriveOutcome (.outcome b.over' info))
      | .arrive _ true _ => .next (s2.arrived x.src x.byte)
      | _ => .next s2
  | .accTo k x => .next (match s.releaseWait x with
    | some t => s.again t
    | none => s.sendAbroad k x)
  | _ => .next s

/-- The outcome of an arrive reaches CC: an over-arrival raises T_BARRIER, and otherwise a waiting strand goes on in
the core cycle after (R183). -/
def execArriveOutcome (s : State) : Res :=
  match s.ev.arg with
  | .outcome ovr info =>
    if ovr then .next (s.takeTrap tBarrier info s.a.st.pc s.a.st.rgn.isSome)
    else .next (if s.a.st.waits.contains .outcome then s.resumeAt .outcome s.coreAfter else s)
  | _ => .next s

/-- An engine command arrives once on its barrier, with its completion code (R186). -/
def State.engineArrive (s : State) (k byte : Nat) (ph : Bool) (code : Nat) : State :=
  let x : Acc := ⟨.arrive ph true code, byte, .none, 0, 0, s.a.n, 0⟩
  s.toAtoll k .barrierArrival (.acc x) (.access k x)

/-- The result of a scalar instruction, or of an engine for a scalar register, lands (R110, R112). -/
def execScalarResultLand (s : State) : Res :=
  match s.ev.arg with
  | .land d v => .next (s.land d v)
  | _ => .next s

end Sys2Proof.Machine
end

