-- ==== Sys2Proof/Machine/Operands.lean ====
section
/-! DEFINITION. The operand forms of the vector engine: elements and parts of registers, the source modifier, and the
ways in which a result enters a register (R45, R213, R214, R218 to R219, R223, R225, R231). -/

namespace Sys2Proof.Machine

/-! ## Elements -/

/-- Element `j` of `w` bits of a row (R5, R213). -/
def elem (w : Nat) (x : Row) (j : Nat) : Nat := x.toNat / 2 ^ (w * j) % 2 ^ w

/-- The number whose element `j` of `w` bits is `f j`, for the first elements. -/
def packEls (w : Nat) (f : Nat → Nat) : Nat → Nat
  | 0 => 0
  | n + 1 => packEls w f n + f n % 2 ^ w * 2 ^ (w * n)

/-- A row of `n` elements of `w` bits from element `lo` up; the others are 0 (R218). -/
def rowFrom (w lo n : Nat) (f : Nat → Nat) : Row := BitVec.ofNat 1024 (packEls w f n * 2 ^ (w * lo))

/-- A whole row of elements (R213). -/
def rowOf (w : Nat) (f : Nat → Nat) : Row := rowFrom w 0 (1024 / w) f

/-- The bits of elements `lo` to `lo + n - 1` of `w` bits: the part k of R231, with lo = k · m. -/
def partMask (w lo n : Nat) : Row := BitVec.ofNat 1024 ((2 ^ (w * n) - 1) * 2 ^ (w * lo))

/-- Every bit of a row. -/
def allBits : Row := BitVec.allOnes 1024

/-- The mask whose bit `j` is `f j`, for the first n elements (R213). -/
def maskOf (n : Nat) (f : Nat → Bool) : BitVec 128 := BitVec.ofNat 128 (packEls 1 (fun j => (f j).toNat) n)

/-- The element of b that the source modifier gives element j (R45). -/
def smodIndex (m : BitVec 12) (j : Nat) : Nat :=
  let seg := 2 ^ (bits m 6 4).toNat
  let dist := (bits m 0 6).toNat
  let base := j - j % seg
  match (bits m 10 2).toNat with
  | 0 => j
  | 1 => base + (j - base + dist) % seg
  | 2 => j ^^^ dist
  | _ => base + dist

/-- The ramp r of the field RAMP (R42). -/
def rampOf (r : BitVec 2) : Nat := 2 ^ r.toNat

/-! ## Registers of VX -/

def State.rdV (s : State) (r : VReg) : Row := SMap.get s.a.v r.toNat

def State.rdM (s : State) (m : MReg) : BitVec 128 := s.a.masks[m.toNat]'(m.isLt)

/-- The zero tag of a vector register (R80). -/
def State.tagV (s : State) (r : Nat) : Bool := SMap.get s.a.v r == 0

/-- Elements of d plus or minus elements of x, modulo 2^w (R223). -/
def addEls (w : Nat) (neg : Bool) (d x : Row) : Row :=
  rowOf w fun j => if neg then elem w d j + (2 ^ w - elem w x j) else elem w d j + elem w x j

/-- One write into the registers of VX, and the 1-bits it erases (R217, R218). -/
def VPut.apply (p : VPut) (a : Atoll) : Nat × Atoll :=
  let g := SMap.get a.v
  match p with
  | .xor d x => (0, { a with v := SMap.set a.v d (g d ^^^ x) })
  | .ovr d part x => (pop (g d &&& part), { a with v := SMap.set a.v d ((g d &&& ~~~part) ||| (x &&& part)) })
  | .add d w x => (0, { a with v := SMap.set a.v d (addEls w false (g d) x) })
  | .sub d w x => (0, { a with v := SMap.set a.v d (addEls w true (g d) x) })
  | .swap d e part =>
    let x := (g d ^^^ g e) &&& part
    (0, { a with v := SMap.set (SMap.set a.v d (g d ^^^ x)) e (g e ^^^ x) })
  | .mxor d x => (0, { a with masks := a.masks.set d.toNat (a.masks[d.toNat]'(d.isLt) ^^^ x) (d.isLt) })
  | .movr d x => (pop (a.masks[d.toNat]'(d.isLt)), { a with masks := a.masks.set d.toNat x (d.isLt) })

/-- The writes of one operation in order, and the 1-bits they erase together. -/
def applyPuts (l : List VPut) (a : Atoll) : Nat × Atoll :=
  l.foldl (fun (r : Nat × Atoll) (p : VPut) => (r.1 + (p.apply r.2).1, (p.apply r.2).2)) (0, a)

/-- deposit of R218 into a whole register or the bits of a part. -/
def putV (w : Bool) (d : VReg) (part f : Row) : VPut := if w then .ovr d.toNat part f else .xor d.toNat (f &&& part)

/-- deposit of R218 into a mask. -/
def putM (w : Bool) (d : MReg) (f : BitVec 128) : VPut := if w then .movr d f else .mxor d f

/-! ## Start and landing of a vector operation (R214, R215) -/

/-- The tick k vector cycles after now. -/
def State.vxT (s : State) (k : Nat) : Nat := s.now + k * s.a.div.vx

/-- A vector syllable: it occupies the engine from S and reads its registers at S, where `eff` runs with the scalar source as it
stood at issue and the tick `at'` that the issue fixes for it (R214). -/
def State.vxStartAt (s : State) (i : Instr) (occ : Nat) (sc : Word) (at' : Nat) (eff : Word → Nat → State → State) : State :=
  match s.ev.arg with
  | .restart c t => eff c t s
  | _ =>
    let s1 := s.updA fun a => { a with vbusy := s.vxS + occ * a.div.vx }
    if s.vxS = s.now then eff sc at' s1 else s1.sched s.vxS 4 .vx i (.restart sc at')

/-- A vector syllable that fixes no tick at issue but that of its issue (R214). -/
def State.vxStart (s : State) (i : Instr) (occ : Nat) (sc : Word) (eff : Word → Nat → State → State) : State :=
  s.vxStartAt i occ sc s.now eff

/-- A result of latency L at ramp r lands at S + r·L vector cycles, with its bit-steps charged then (R81, R86, R215, R219). -/
def State.vxLand (s : State) (ramp : BitVec 2) (lat steps : Nat) (l : List VPut) (f : Option Nat) : State :=
  s.sched (s.vxT (rampOf ramp * lat)) 2 .vx .vectorResultLand (.puts l (steps * ajStep (rampOf ramp)) f)

/-- A computed vector operation: latency, occupancy and bit-steps at ramp 1, and its writes as the registers at S
give them (R214, R215). -/
def State.vxOp (s : State) (i : Instr) (ramp : BitVec 2) (lat occ steps : Nat) (f : State → List VPut × Option Nat) : State :=
  s.vxStart i (occ * rampOf ramp) 0 fun _ _ s => s.vxLand ramp lat steps (f s).1 (f s).2

/-- The writes of a vector operation land: the erase is counted, the charges are applied and a data flag is set; the element of vext
lands in its scalar one core cycle after the next core edge (R88, R196, R215, R218, R219, R240). -/
def execVectorResultLand (s : State) : Res :=
  match s.ev.arg with
  | .puts l c f =>
    let r := applyPuts l s.a
    .next (({ s with a := r.2 }.charge (c + ajErase * r.1)).flag f)
  | .reply d v _ c =>
    let t := s.a.edge 0 s.now + s.a.div.core
    .next ((s.chargeAt t c).sched t 2 .vx .scalarResultLand (.land d v))
  | _ => .next s

end Sys2Proof.Machine
end

