-- ==== Sys2Proof/Machine/VecInt.lean ====
section
/-! DEFINITION. The meanings of class 0x5 (R221 to R227): integer and logic operations of the vector engine. -/

namespace Sys2Proof.Machine

/-- A V3 operation: f[j] from a[j] and the modified b[j], deposited whole (R45, R218, R222). -/
def v3 (i : Instr) (w : Bool) (lat steps : Nat) (f : BitVec 4 → Nat → Nat → Nat) (o : V3) (s : State) : State :=
  s.vxOp i o.ramp lat 1 steps fun s =>
    let n := etWidth o.et
    let a := s.rdV o.a
    let b := s.rdV o.b
    ([putV w o.d allBits (rowOf n fun j => f o.et (elem n a j) (elem n b (smodIndex o.smod j)))], none)

/-- A V3 operation that does not read b. -/
def v2 (i : Instr) (w : Bool) (lat occ steps : Nat) (f : BitVec 4 → Nat → Nat) (o : V2) (s : State) : State :=
  s.vxOp i o.ramp lat occ steps fun s =>
    let n := etWidth o.et
    let a := s.rdV o.a
    ([putV w o.d allBits (rowOf n fun j => f o.et (elem n a j))], none)

/-! ## Elements (R222); a result is taken modulo 2^w where it enters its element -/

def vAdd (_ : BitVec 4) (a b : Nat) : Nat := a + b
def vSub (et : BitVec 4) (a b : Nat) : Nat := a + (2 ^ etWidth et - b)
def vNeg (et : BitVec 4) (a : Nat) : Nat := 2 ^ etWidth et - a
def vAbs (et : BitVec 4) (a : Nat) : Nat := (intOf et a).natAbs
def vNot (et : BitVec 4) (a : Nat) : Nat := 2 ^ etWidth et - 1 - a
def vXor (_ : BitVec 4) (a b : Nat) : Nat := a ^^^ b
def vAnd (_ : BitVec 4) (a b : Nat) : Nat := a &&& b
def vOr (_ : BitVec 4) (a b : Nat) : Nat := a ||| b
def vXand (et : BitVec 4) (a b : Nat) : Nat := a &&& vNot et b
def vShl (et : BitVec 4) (a b : Nat) : Nat := a * 2 ^ (b % etWidth et)
def vShr (et : BitVec 4) (a b : Nat) : Nat := a / 2 ^ (b % etWidth et)
def vSra (et : BitVec 4) (a b : Nat) : Nat :=
  wrapTo (etWidth et) (signedOf (etWidth et) a / (2 ^ (b % etWidth et) : Nat))
def vRotl (et : BitVec 4) (a b : Nat) : Nat :=
  a * 2 ^ (b % etWidth et) + a / 2 ^ (etWidth et - b % etWidth et)
def vMin (et : BitVec 4) (a b : Nat) : Nat := if intOf et a ≤ intOf et b then a else b
def vMax (et : BitVec 4) (a b : Nat) : Nat := if intOf et a ≤ intOf et b then b else a
def vMul (_ : BitVec 4) (a b : Nat) : Nat := a * b
def vPopc (_ : BitVec 4) (a : Nat) : Nat := popNat 64 a
def vClz (et : BitVec 4) (a : Nat) : Nat := leadingZeros (etWidth et) a

/-- vadd (R222). -/
def execVadd (o : V3) (s : State) : Res := .next (v3 (.vadd o) false 2 2048 vAdd o s)

/-- evadd (R222). -/
def execEvadd (o : V3) (s : State) : Res := .next (v3 (.evadd o) true 2 2048 vAdd o s)

/-- vsub (R222). -/
def execVsub (o : V3) (s : State) : Res := .next (v3 (.vsub o) false 2 2048 vSub o s)

/-- evsub (R222). -/
def execEvsub (o : V3) (s : State) : Res := .next (v3 (.evsub o) true 2 2048 vSub o s)

/-- vxor (R222). -/
def execVxor (o : V3) (s : State) : Res := .next (v3 (.vxor o) false 2 1024 vXor o s)

/-- evxor (R222). -/
def execEvxor (o : V3) (s : State) : Res := .next (v3 (.evxor o) true 2 1024 vXor o s)

/-- vxand (R222). -/
def execVxand (o : V3) (s : State) : Res := .next (v3 (.vxand o) false 2 1024 vXand o s)

/-- evxand (R222). -/
def execEvxand (o : V3) (s : State) : Res := .next (v3 (.evxand o) true 2 1024 vXand o s)

/-- vshl (R222). -/
def execVshl (o : V3) (s : State) : Res := .next (v3 (.vshl o) false 2 2048 vShl o s)

/-- evshl (R222). -/
def execEvshl (o : V3) (s : State) : Res := .next (v3 (.evshl o) true 2 2048 vShl o s)

/-- vshr (R222). -/
def execVshr (o : V3) (s : State) : Res := .next (v3 (.vshr o) false 2 2048 vShr o s)

/-- evshr (R222). -/
def execEvshr (o : V3) (s : State) : Res := .next (v3 (.evshr o) true 2 2048 vShr o s)

/-- vsra (R222). -/
def execVsra (o : V3) (s : State) : Res := .next (v3 (.vsra o) false 2 2048 vSra o s)

/-- evsra (R222). -/
def execEvsra (o : V3) (s : State) : Res := .next (v3 (.evsra o) true 2 2048 vSra o s)

/-- vrotl (R222). -/
def execVrotl (o : V3) (s : State) : Res := .next (v3 (.vrotl o) false 2 2048 vRotl o s)

/-- evrotl (R222). -/
def execEvrotl (o : V3) (s : State) : Res := .next (v3 (.evrotl o) true 2 2048 vRotl o s)

/-- vand (R222). -/
def execVand (o : V3) (s : State) : Res := .next (v3 (.vand o) false 2 1024 vAnd o s)

/-- evand (R222). -/
def execEvand (o : V3) (s : State) : Res := .next (v3 (.evand o) true 2 1024 vAnd o s)

/-- vor (R222). -/
def execVor (o : V3) (s : State) : Res := .next (v3 (.vor o) false 2 1024 vOr o s)

/-- evor (R222). -/
def execEvor (o : V3) (s : State) : Res := .next (v3 (.evor o) true 2 1024 vOr o s)

/-- vmin (R222). -/
def execVmin (o : V3) (s : State) : Res := .next (v3 (.vmin o) false 2 2048 vMin o s)

/-- evmin (R222). -/
def execEvmin (o : V3) (s : State) : Res := .next (v3 (.evmin o) true 2 2048 vMin o s)

/-- vmax (R222). -/
def execVmax (o : V3) (s : State) : Res := .next (v3 (.vmax o) false 2 2048 vMax o s)

/-- evmax (R222). -/
def execEvmax (o : V3) (s : State) : Res := .next (v3 (.evmax o) true 2 2048 vMax o s)

/-- vmul (R222). -/
def execVmul (o : V3) (s : State) : Res := .next (v3 (.vmul o) false 4 3072 vMul o s)

/-- evmul (R222). -/
def execEvmul (o : V3) (s : State) : Res := .next (v3 (.evmul o) true 4 3072 vMul o s)

/-- vneg (R222). -/
def execVneg (o : V2) (s : State) : Res := .next (v2 (.vneg o) false 2 1 2048 vNeg o s)

/-- evneg (R222). -/
def execEvneg (o : V2) (s : State) : Res := .next (v2 (.evneg o) true 2 1 2048 vNeg o s)

/-- vnot (R222). -/
def execVnot (o : V2) (s : State) : Res := .next (v2 (.vnot o) false 2 1 1024 vNot o s)

/-- evnot (R222). -/
def execEvnot (o : V2) (s : State) : Res := .next (v2 (.evnot o) true 2 1 1024 vNot o s)

/-- vabs (R222). -/
def execVabs (o : V2) (s : State) : Res := .next (v2 (.vabs o) false 2 1 2048 vAbs o s)

/-- evabs (R222). -/
def execEvabs (o : V2) (s : State) : Res := .next (v2 (.evabs o) true 2 1 2048 vAbs o s)

/-- vpopc (R222). -/
def execVpopc (o : V2) (s : State) : Res := .next (v2 (.vpopc o) false 2 1 2048 vPopc o s)

/-- evpopc (R222). -/
def execEvpopc (o : V2) (s : State) : Res := .next (v2 (.evpopc o) true 2 1 2048 vPopc o s)

/-- vclz (R222). -/
def execVclz (o : V2) (s : State) : Res := .next (v2 (.vclz o) false 2 1 2048 vClz o s)

/-- evclz (R222). -/
def execEvclz (o : V2) (s : State) : Res := .next (v2 (.evclz o) true 2 1 2048 vClz o s)

/-- The row of products of a multiply-accumulate, each taken negative for the subtracting overwrite (R223). -/
def macRow (o : V3) (neg : Bool) (s : State) : Row :=
  let n := etWidth o.et
  let a := s.rdV o.a
  let b := s.rdV o.b
  rowOf n fun j =>
    let p := elem n a j * elem n b (smodIndex o.smod j) % 2 ^ n
    if neg then 2 ^ n - p else p

/-- vmac and vmas add into and subtract from d; evmac and evmas overwrite it (R223). -/
def vMac (i : Instr) (w sub : Bool) (o : V3) (s : State) : State :=
  s.vxOp i o.ramp 4 1 3072 fun s =>
    ([if w then .ovr o.d.toNat allBits (macRow o sub s)
      else if sub then .sub o.d.toNat (etWidth o.et) (macRow o false s)
      else .add o.d.toNat (etWidth o.et) (macRow o false s)], none)

/-- vmac (R223). -/
def execVmac (o : V3) (s : State) : Res := .next (vMac (.vmac o) false false o s)

/-- evmac (R223). -/
def execEvmac (o : V3) (s : State) : Res := .next (vMac (.evmac o) true false o s)

/-- vmas (R223). -/
def execVmas (o : V3) (s : State) : Res := .next (vMac (.vmas o) false true o s)

/-- evmas (R223). -/
def execEvmas (o : V3) (s : State) : Res := .next (vMac (.evmas o) true true o s)

/-- A compare writes the mask of the elements for which the condition holds (R224). -/
def vCmp (i : Instr) (w : Bool) (c : Int → Int → Bool) (o : V3M) (s : State) : State :=
  s.vxOp i o.ramp 2 1 2048 fun s =>
    let n := etWidth o.et
    let a := s.rdV o.a
    let b := s.rdV o.b
    ([putM w o.md (maskOf (1024 / n) fun j =>
      c (intOf o.et (elem n a j)) (intOf o.et (elem n b (smodIndex o.smod j))))], none)

/-- vcmpeq (R224). -/
def execVcmpeq (o : V3M) (s : State) : Res := .next (vCmp (.vcmpeq o) false (fun a b => decide (a = b)) o s)

/-- evcmpeq (R224). -/
def execEvcmpeq (o : V3M) (s : State) : Res := .next (vCmp (.evcmpeq o) true (fun a b => decide (a = b)) o s)

/-- vcmplt (R224). -/
def execVcmplt (o : V3M) (s : State) : Res := .next (vCmp (.vcmplt o) false (fun a b => decide (a < b)) o s)

/-- evcmplt (R224). -/
def execEvcmplt (o : V3M) (s : State) : Res := .next (vCmp (.evcmplt o) true (fun a b => decide (a < b)) o s)

/-- vcmple (R224). -/
def execVcmple (o : V3M) (s : State) : Res := .next (vCmp (.vcmple o) false (fun a b => decide (a ≤ b)) o s)

/-- evcmple (R224). -/
def execEvcmple (o : V3M) (s : State) : Res := .next (vCmp (.evcmple o) true (fun a b => decide (a ≤ b)) o s)

/-- vsel takes a[j] where the mask bit is 1, else b[j]; the mask is read at S (R224). -/
def vSelect (i : Instr) (w : Bool) (o : VMOp) (s : State) : State :=
  s.vxOp i o.ramp 2 1 1024 fun s =>
    let n := etWidth o.et
    let a := s.rdV o.a
    let b := s.rdV o.b
    let k := s.rdM o.m
    ([putV w o.d allBits (rowOf n fun j => if k.getLsbD j then elem n a j else elem n b j)], none)

/-- vsel (R224). -/
def execVsel (o : VMOp) (s : State) : Res := .next (vSelect (.vsel o) false o s)

/-- evsel (R224). -/
def execEvsel (o : VMOp) (s : State) : Res := .next (vSelect (.evsel o) true o s)

/-- vswap exchanges d and a whole (R225). -/
def execVswap (o : VSw) (s : State) : Res :=
  .next (s.vxOp (.vswap o) o.ramp 2 1 2048 fun _ => ([.swap o.d.toNat o.a.toNat allBits], none))

/-- vcswap exchanges the elements of d and a whose mask bit is 1 (R225). -/
def execVcswap (o : VCSw) (s : State) : Res :=
  .next (s.vxOp (.vcswap o) o.ramp 2 1 2048 fun s =>
    let k := s.rdM o.m
    ([.swap o.d.toNat o.a.toNat (rowOf (etWidth o.et) fun j =>
      if k.getLsbD j then 2 ^ etWidth o.et - 1 else 0)], none))

/-- The atoll as its registers of VX stand at S: what lands up to then has landed (R217, R226). -/
def State.vxAtStart (s : State) : Atoll :=
  (s.agenda.filter fun e => e.atoll == s.a.n && e.dom == .vx && decide (e.tick ≤ s.vxS)).foldl (fun a e => match e.arg with
    | .puts l _ _ => (applyPuts l a).2
    | _ => a) s.a

/-- vassz on a register whose zero tag is clear at S; the trap falls in the issue cycle (R226, log 35). -/
def trapsVassz (o : VA) (s : State) : Option Trap :=
  trapIf (!{ s with a := s.vxAtStart }.tagV o.a.toNat) tAssertz o.a.toNat

/-- vassz does nothing beyond its bundle when the tag is set (R226). -/
def execVassz (o : VA) (s : State) : Res := s.unless (trapsVassz o s) s

/-- The mask of the zero tags of 128 registers from a on (R227). -/
def vZeroMask (i : Instr) (w : Bool) (o : VZm) (s : State) : State :=
  s.vxOp i o.ramp 2 1 2048 fun s => ([putM w o.md (maskOf 128 fun j => s.tagV (o.a.toNat + j))], none)

/-- vzmask (R227). -/
def execVzmask (o : VZm) (s : State) : Res := .next (vZeroMask (.vzmask o) false o s)

/-- evzmask (R227). -/
def execEvzmask (o : VZm) (s : State) : Res := .next (vZeroMask (.evzmask o) true o s)

end Sys2Proof.Machine
end

