-- ==== Sys2Proof/Machine/VecFp.lean ====
section
/-! DEFINITION. The floating-point arithmetic of class 0x6 (R228 to R230): each element is computed exactly and rounded
once. -/

namespace Sys2Proof.Machine

/-- A floating operation on two elements, rounded once (R204, R228). -/
def fl2 (f : Val → Val → Val) (et : BitVec 4) (a b : Nat) : Nat := conv (f (valOf et a) (valOf et b)) et

/-- A floating operation on one element, rounded once (R228, R229). -/
def fl1 (f : Val → Val) (et : BitVec 4) (a : Nat) : Nat := conv (f (valOf et a)) et

/-- vfadd (R228). -/
def execVfadd (o : V3) (s : State) : Res := .next (v3 (.vfadd o) false 4 3072 (fl2 (Val.add)) o s)

/-- evfadd (R228). -/
def execEvfadd (o : V3) (s : State) : Res := .next (v3 (.evfadd o) true 4 3072 (fl2 (Val.add)) o s)

/-- vfsub (R228). -/
def execVfsub (o : V3) (s : State) : Res := .next (v3 (.vfsub o) false 4 3072 (fl2 (fun a b => a.add b.neg)) o s)

/-- evfsub (R228). -/
def execEvfsub (o : V3) (s : State) : Res := .next (v3 (.evfsub o) true 4 3072 (fl2 (fun a b => a.add b.neg)) o s)

/-- vfmul (R228). -/
def execVfmul (o : V3) (s : State) : Res := .next (v3 (.vfmul o) false 4 3072 (fl2 (Val.mul)) o s)

/-- evfmul (R228). -/
def execEvfmul (o : V3) (s : State) : Res := .next (v3 (.evfmul o) true 4 3072 (fl2 (Val.mul)) o s)

/-- vfmin (R228). -/
def execVfmin (o : V3) (s : State) : Res := .next (v3 (.vfmin o) false 4 3072 (fl2 (Val.min)) o s)

/-- evfmin (R228). -/
def execEvfmin (o : V3) (s : State) : Res := .next (v3 (.evfmin o) true 4 3072 (fl2 (Val.min)) o s)

/-- vfmax (R228). -/
def execVfmax (o : V3) (s : State) : Res := .next (v3 (.vfmax o) false 4 3072 (fl2 (Val.max)) o s)

/-- evfmax (R228). -/
def execEvfmax (o : V3) (s : State) : Res := .next (v3 (.evfmax o) true 4 3072 (fl2 (Val.max)) o s)

/-- vfneg (R228). -/
def execVfneg (o : V2) (s : State) : Res := .next (v2 (.vfneg o) false 2 1 1024 (fl1 Val.neg) o s)

/-- evfneg (R228). -/
def execEvfneg (o : V2) (s : State) : Res := .next (v2 (.evfneg o) true 2 1 1024 (fl1 Val.neg) o s)

/-- vfabs (R228). -/
def execVfabs (o : V2) (s : State) : Res := .next (v2 (.vfabs o) false 2 1 1024 (fl1 Val.abs) o s)

/-- evfabs (R228). -/
def execEvfabs (o : V2) (s : State) : Res := .next (v2 (.evfabs o) true 2 1 1024 (fl1 Val.abs) o s)

/-- vfrcp (R229). -/
def execVfrcp (o : V2) (s : State) : Res := .next (v2 (.vfrcp o) false 12 4 8192 (fl1 fRcp) o s)

/-- evfrcp (R229). -/
def execEvfrcp (o : V2) (s : State) : Res := .next (v2 (.evfrcp o) true 12 4 8192 (fl1 fRcp) o s)

/-- vfrsq (R229). -/
def execVfrsq (o : V2) (s : State) : Res := .next (v2 (.vfrsq o) false 12 4 8192 (fl1 fRsq) o s)

/-- evfrsq (R229). -/
def execEvfrsq (o : V2) (s : State) : Res := .next (v2 (.evfrsq o) true 12 4 8192 (fl1 fRsq) o s)

/-- vfexp2 (R229). -/
def execVfexp2 (o : V2) (s : State) : Res := .next (v2 (.vfexp2 o) false 12 4 8192 (fl1 fExp2) o s)

/-- evfexp2 (R229). -/
def execEvfexp2 (o : V2) (s : State) : Res := .next (v2 (.evfexp2 o) true 12 4 8192 (fl1 fExp2) o s)

/-- vflog2 (R229). -/
def execVflog2 (o : V2) (s : State) : Res := .next (v2 (.vflog2 o) false 12 4 8192 (fl1 fLog2) o s)

/-- evflog2 (R229). -/
def execEvflog2 (o : V2) (s : State) : Res := .next (v2 (.evflog2 o) true 12 4 8192 (fl1 fLog2) o s)

/-- vftanh (R229). -/
def execVftanh (o : V2) (s : State) : Res := .next (v2 (.vftanh o) false 12 4 8192 (fl1 fTanh) o s)

/-- evftanh (R229). -/
def execEvftanh (o : V2) (s : State) : Res := .next (v2 (.evftanh o) true 12 4 8192 (fl1 fTanh) o s)

/-- vfma: a · b + c with one rounding (R228). -/
def vFma (i : Instr) (w : Bool) (o : V4) (s : State) : State :=
  s.vxOp i o.ramp 5 1 4096 fun s =>
    let n := etWidth o.et
    let a := s.rdV o.a
    let b := s.rdV o.b
    let c := s.rdV o.c
    let v := fun (x : Row) (j : Nat) => valOf o.et (elem n x j)
    ([putV w o.d allBits (rowOf n fun j => conv (((v a j).mul (v b j)).add (v c j)) o.et)], none)

/-- vfma (R228). -/
def execVfma (o : V4) (s : State) : Res := .next (vFma (.vfma o) false o s)

/-- evfma (R228). -/
def execEvfma (o : V4) (s : State) : Res := .next (vFma (.evfma o) true o s)

/-- The conditions of vfcmp (R230). -/
def fCond (x : BitVec 4) (a b : Val) : Bool :=
  let un := a.isNan || b.isNan
  match x.toNat with
  | 0 => a.eq b
  | 1 => un || !a.eq b
  | 2 => a.lt b
  | 3 => a.lt b || a.eq b
  | 4 => un
  | _ => !un

/-- vfcmp writes the mask of the elements for which the condition holds (R230). -/
def vFcmp (i : Instr) (w : Bool) (o : VFc) (s : State) : State :=
  s.vxOp i o.ramp 4 1 3072 fun s =>
    let n := etWidth o.et
    let a := s.rdV o.a
    let b := s.rdV o.b
    ([putM w o.md (maskOf (1024 / n) fun j =>
      fCond o.x (valOf o.et (elem n a j)) (valOf o.et (elem n b j)))], none)

/-- vfcmp (R230). -/
def execVfcmp (o : VFc) (s : State) : Res := .next (vFcmp (.vfcmp o) false o s)

/-- evfcmp (R230). -/
def execEvfcmp (o : VFc) (s : State) : Res := .next (vFcmp (.evfcmp o) true o s)

end Sys2Proof.Machine
end

