-- ==== Sys2Proof/Machine/VecConv.lean ====
section
/-! DEFINITION. Conversion with residue, shoals, bit planes, reductions and scans (R231 to R239). -/

namespace Sys2Proof.Machine

/-- Code 0x30 when one of n elements of type et from element lo on is the reserved digit (R196, R231). -/
def digitFlag (et : BitVec 4) (x : Row) (lo n : Nat) : Option Nat :=
  if (List.range n).any fun j => digitBad et (elem (etWidth et) x (lo + j)) then some 0x30 else none

/-- The value of element `j` of part k of a register read as type et, m elements a part (R231). -/
def partVal (et : BitVec 4) (x : Row) (k m j : Nat) : Val := valOf et (elem (etWidth et) x (k * m + j))

/-- A deposit into the m elements of part k of register d, of type et (R218, R231). -/
def putPart (w : Bool) (d : VReg) (et : BitVec 4) (k m : Nat) (f : Nat → Nat) : VPut :=
  putV w d (partMask (etWidth et) (k * m) m) (rowFrom (etWidth et) (k * m) m f)

/-- vcvt: each element of the source part is converted once (R231). -/
def vConvert (i : Instr) (w : Bool) (o : VC) (s : State) : State :=
  s.vxOp i o.ramp 4 1 3072 fun s =>
    let m := 1024 / max (etWidth o.x) (etWidth o.y)
    let sk := if etWidth o.x < etWidth o.y then o.i.toNat else 0
    let dk := if etWidth o.y < etWidth o.x then o.i.toNat else 0
    let a := s.rdV o.a
    ([putPart w o.d o.y dk m fun j => conv (partVal o.x a sk m j) o.y], digitFlag o.x a (sk * m) m)

/-- The narrow code of vcvr: a finite value that would overflow to infinity takes the largest finite one (R232). -/
def narrowCode (v : Val) (y : BitVec 4) : Nat :=
  if v.isFinite && isFp y && !(valOf y (conv v y)).isFinite then toFp y (if v.isNeg then (largest y).neg else largest y)
  else conv v y

/-- The residue of vcvr; +0 when the source is not finite (R232). -/
def residueCode (v : Val) (nv : Nat) (y et : BitVec 4) : Nat :=
  if v.isFinite then conv (v.add (valOf y nv).neg) et else conv .zero et

/-- vcvr narrows into part i of d and keeps the residue in a part of b (R232). -/
def vResidue (i : Instr) (w : Bool) (o : VC) (s : State) : State :=
  s.vxOp i o.ramp 4 1 3072 fun s =>
    let wx := etWidth o.x
    let m := 1024 / wx
    let a := s.rdV o.a
    let nv := fun j => narrowCode (valOf o.x (elem wx a j)) o.y
    ([putPart w o.d o.y o.i.toNat m nv,
      putPart w o.b o.et (o.i.toNat % (wx / etWidth o.et)) m fun j => residueCode (valOf o.x (elem wx a j)) (nv j) o.y o.et],
     digitFlag o.x a 0 m)

/-- vmerge adds a narrow value and its residue; a zero residue keeps the sign of a zero, and a reserved digit in either is flagged
(R195, R196, R233). -/
def vJoin (i : Instr) (w : Bool) (o : VC) (s : State) : State :=
  s.vxOp i o.ramp 2 1 1024 fun s =>
    let m := 1024 / max (etWidth o.x) (max (etWidth o.y) (etWidth o.et))
    let a := s.rdV o.a
    let b := s.rdV o.b
    let k := o.i.toNat
    ([putPart w o.d o.y (k % (1024 / (m * etWidth o.y))) m fun j =>
        let nv := partVal o.x a k m j
        let rs := partVal o.et b (k % (1024 / (m * etWidth o.et))) m j
        conv (if rs.isZero then nv else nv.add rs) o.y],
     digitFlag o.x a (k * m) m <|> digitFlag o.et b (k % (1024 / (m * etWidth o.et)) * m) m)

/-- The limit L_y of a shoal target (R234). -/
def shoalLimit (y : BitVec 4) : Nat × Int :=
  match y.toNat with
  | 7 => (448, 0) | 8 => (57344, 0) | 9 => (6, 0) | 10 => (15, -1) | 0 => (127, 0) | _ => (1, 0)

/-- The smallest e with am · 2^−e at most the limit, for a nonzero finite am (R234). -/
def shoalFit (m : Nat) (k : Int) (l : Nat × Int) : Int :=
  let e := ((Nat.log2 m : Int) + k) - ((Nat.log2 l.1 : Int) + l.2)
  if (Val.fin false l.1 (l.2 + e)).lt (.fin false m k) then e + 1 else e

/-- The exponent byte that vshoal finds (R234). -/
def shoalByte (x y : BitVec 4) (a : Row) : Nat :=
  let vals := (List.range (1024 / etWidth x)).map fun j => (valOf x (elem (etWidth x) a j)).abs
  match vals.foldl (fun (g v : Val) => if v.isFinite then g.max v else g) Val.zero with
  | .fin _ m k => if m = 0 then 0x80 else wrapTo 8 (sat (shoalFit m k (shoalLimit y)) (-127) 127)
  | _ => 0x80

/-- vshoal writes the exponent into byte i (R234). -/
def vShoalOp (i : Instr) (w : Bool) (o : VC) (s : State) : State :=
  s.vxOp i o.ramp 2 1 2048 fun s =>
    ([putV w o.d allBits (rowFrom 8 o.i.toNat 1 fun _ => shoalByte o.x o.y (s.rdV o.a))], none)

/-- vscale: narrow, widen or fixed, under the exponent bytes of b (R235). -/
def vScaleOp (i : Instr) (w : Bool) (o : VC) (s : State) : State :=
  s.vxOp i o.ramp 4 1 2048 fun s =>
    let a := s.rdV o.a
    let b := s.rdV o.b
    let wx := etWidth o.x
    let wy := etWidth o.y
    let m := 1024 / max wx wy
    let k := o.i.toNat
    let ex := fun j => shoalExp (elem 8 b ((k * m + j) / 64))
    if o.x = 3#4 then
      ([putV w o.d allBits (rowOf 32 fun j => match ex j with
        | some e => conv ((valOf 3#4 (elem 32 a j)).scale (e - 24)) 6#4
        | none => 0)], none)
    else if etFloat o.x then
      ([putPart w o.d o.y k m fun j => match ex j with
        | some e => conv ((valOf o.x (elem wx a j)).scale (-e)) o.y
        | none => 0], none)
    else
      ([putV w o.d allBits (rowOf wy fun j => match ex j with
        | some e => conv ((partVal o.x a k m j).scale e) o.y
        | none => 0)],
       if (List.range m).any fun j => (ex j).isSome && digitBad o.x (elem wx a (k * m + j)) then some 0x30 else none)

/-- The digit of plane p of a value in a shoal of exponent e (R236). -/
def planeDigit (v : Val) (e : Int) (p : Nat) : Int :=
  match v with
  | .fin s m k =>
    let mg := min (roundTo m (k + (16 - e)) 0) (2 ^ 16 - 1)
    if mg / 2 ^ (16 - p) % 2 = 0 then 0 else if s then -1 else 1
  | _ => 0

/-- vbpenc writes plane i + 1 of a 512-element quarter (R236). -/
def vEncode (i : Instr) (w : Bool) (o : VC) (s : State) : State :=
  let f32 := o.x == 6#4
  s.vxOp i o.ramp (if f32 then 6 else 4) (if f32 then 4 else 2) 2048 fun s =>
    let wx := etWidth o.x
    let n := 1024 / wx
    let b := s.rdV o.b
    let src := fun g => valOf o.x (elem wx (SMap.get s.a.v (o.a.toNat + g / n)) (g % n))
    let ex := fun g => shoalExp (elem 8 b (g / 64))
    ([putV w o.d allBits (rowOf 2 fun g => match ex g with
        | some e => digitCode (planeDigit (src g) e (o.i.toNat + 1))
        | none => 0)],
     if (List.range 512).any fun g => (ex g).isSome && !(src g).isFinite then some 0x32 else none)

/-- vbpdec adds or subtracts one plane into 16 registers of INT32 (R237). -/
def vDecode (i : Instr) (w : Bool) (o : VC) (s : State) : State :=
  s.vxOp i o.ramp 6 4 2048 fun s =>
    let a := s.rdV o.a
    let p := 16 * (o.x.toNat % 2) + o.i.toNat + 1
    let sub := o.x.getLsbD 3
    let term := fun g => digitOf (elem 2 a g) * (2 ^ (24 - p) : Nat)
    ((List.range 16).map fun k =>
        if w then .ovr (o.d.toNat + k) allBits
          (rowOf 32 fun j => wrapTo 32 (if sub then -(term (32 * k + j)) else term (32 * k + j)))
        else if sub then .sub (o.d.toNat + k) 32 (rowOf 32 fun j => wrapTo 32 (term (32 * k + j)))
        else .add (o.d.toNat + k) 32 (rowOf 32 fun j => wrapTo 32 (term (32 * k + j))),
     digitFlag 11#4 a 0 512)

/-- One level of a pairwise sum of FP32 codes (R238). -/
def sumPairs : List Nat → List Nat
  | a :: b :: r => fl2 Val.add 6#4 a b :: sumPairs r
  | r => r

/-- The pairwise sum of a list of FP32 codes, by levels (R238). -/
def sumTree : Nat → List Nat → Nat
  | 0, l => l.headD 0
  | n + 1, l => sumTree n (sumPairs l)

/-- The one element of vredadd (R238). -/
def reduceAdd (o : VC) (a : Row) : Nat :=
  let n := 1024 / etWidth o.x
  if isFp o.x then sumTree 7 ((List.range n).map fun j => conv (valOf o.x (elem (etWidth o.x) a j)) 6#4)
  else wrapTo (etWidth o.y) ((List.range n).foldl (fun (g : Int) j => g + intOf o.x (elem (etWidth o.x) a j)) 0)

/-- The one element of vredmax or vredmin (R238). -/
def reduceBy (f : Val → Val → Val) (o : VC) (a : Row) : Nat :=
  let v := fun j => valOf o.x (elem (etWidth o.x) a j)
  conv ((List.range (1024 / etWidth o.x)).foldl (fun (g : Val) j => f g (v j)) (v 0)) o.x

/-- A reduction writes element i of f (R238). -/
def vReduce (i : Instr) (w : Bool) (f : VC → Row → Nat) (o : VC) (s : State) : State :=
  s.vxOp i o.ramp 6 1 4096 fun s =>
    ([putV w o.d allBits (rowFrom (etWidth o.y) o.i.toNat 1 fun _ => f o (s.rdV o.a))], none)

/-- The inclusive sum of a segment up to its element `j` (R239). -/
def scanTo (et : BitVec 4) (a : Row) (base : Nat) : Nat → Nat
  | 0 => conv (valOf et (elem (etWidth et) a base)) et
  | j + 1 =>
    let x := elem (etWidth et) a (base + j + 1)
    if isFp et then fl2 Val.add et (scanTo et a base j) x else (scanTo et a base j + x) % 2 ^ etWidth et

/-- vscan: prefix sums within segments of 2^i elements (R239). -/
def vScanOp (i : Instr) (w : Bool) (o : VC) (s : State) : State :=
  s.vxOp i o.ramp 6 1 4096 fun s =>
    let a := s.rdV o.a
    let seg := 2 ^ o.i.toNat
    ([putV w o.d allBits (rowOf (etWidth o.x) fun j => scanTo o.x a (j - j % seg) (j % seg))], none)

/-- vcvt (R231). -/
def execVcvt (o : VC) (s : State) : Res := .next (vConvert (.vcvt o) false o s)

/-- evcvt (R231). -/
def execEvcvt (o : VC) (s : State) : Res := .next (vConvert (.evcvt o) true o s)

/-- vcvr (R232). -/
def execVcvr (o : VC) (s : State) : Res := .next (vResidue (.vcvr o) false o s)

/-- evcvr (R232). -/
def execEvcvr (o : VC) (s : State) : Res := .next (vResidue (.evcvr o) true o s)

/-- vmerge (R233). -/
def execVmerge (o : VC) (s : State) : Res := .next (vJoin (.vmerge o) false o s)

/-- evmerge (R233). -/
def execEvmerge (o : VC) (s : State) : Res := .next (vJoin (.evmerge o) true o s)

/-- vshoal (R234). -/
def execVshoal (o : VC) (s : State) : Res := .next (vShoalOp (.vshoal o) false o s)

/-- evshoal (R234). -/
def execEvshoal (o : VC) (s : State) : Res := .next (vShoalOp (.evshoal o) true o s)

/-- vscale (R235). -/
def execVscale (o : VC) (s : State) : Res := .next (vScaleOp (.vscale o) false o s)

/-- evscale (R235). -/
def execEvscale (o : VC) (s : State) : Res := .next (vScaleOp (.evscale o) true o s)

/-- vbpenc (R236). -/
def execVbpenc (o : VC) (s : State) : Res := .next (vEncode (.vbpenc o) false o s)

/-- evbpenc (R236). -/
def execEvbpenc (o : VC) (s : State) : Res := .next (vEncode (.evbpenc o) true o s)

/-- vbpdec (R237). -/
def execVbpdec (o : VC) (s : State) : Res := .next (vDecode (.vbpdec o) false o s)

/-- evbpdec (R237). -/
def execEvbpdec (o : VC) (s : State) : Res := .next (vDecode (.evbpdec o) true o s)

/-- vredadd (R238). -/
def execVredadd (o : VC) (s : State) : Res := .next (vReduce (.vredadd o) false reduceAdd o s)

/-- evredadd (R238). -/
def execEvredadd (o : VC) (s : State) : Res := .next (vReduce (.evredadd o) true reduceAdd o s)

/-- vredmax (R238). -/
def execVredmax (o : VC) (s : State) : Res := .next (vReduce (.vredmax o) false (reduceBy Val.max) o s)

/-- evredmax (R238). -/
def execEvredmax (o : VC) (s : State) : Res := .next (vReduce (.evredmax o) true (reduceBy Val.max) o s)

/-- vredmin (R238). -/
def execVredmin (o : VC) (s : State) : Res := .next (vReduce (.vredmin o) false (reduceBy Val.min) o s)

/-- evredmin (R238). -/
def execEvredmin (o : VC) (s : State) : Res := .next (vReduce (.evredmin o) true (reduceBy Val.min) o s)

/-- vscan (R239). -/
def execVscan (o : VC) (s : State) : Res := .next (vScanOp (.vscan o) false o s)

/-- evscan (R239). -/
def execEvscan (o : VC) (s : State) : Res := .next (vScanOp (.evscan o) true o s)

end Sys2Proof.Machine
end

