-- ==== Sys2Proof/Machine/VecMove.lean ====
section
/-! DEFINITION. Moves, permutes and masks, loads and stores of rows, and the history stack (R92 to R95, R240 to R245),
with the steps that carry them out. -/

namespace Sys2Proof.Machine

/-- A V3 operation whose element reads all of a (R240). -/
def vPermute (i : Instr) (w : Bool) (o : V3) (s : State) : State :=
  s.vxOp i o.ramp 2 1 1024 fun s =>
    let n := etWidth o.et
    let a := s.rdV o.a
    let b := s.rdV o.b
    ([putV w o.d allBits (rowOf n fun j => elem n a (elem n b (smodIndex o.smod j) % (1024 / n)))], none)

/-- vperm (R240). -/
def execVperm (o : V3) (s : State) : Res := .next (vPermute (.vperm o) false o s)

/-- evperm (R240). -/
def execEvperm (o : V3) (s : State) : Res := .next (vPermute (.evperm o) true o s)

/-- vrmg: 1,024 bits of b and a from byte k on, k the low seven bits of the scalar (R240). -/
def vMergeRows (i : Instr) (w : Bool) (o : VR) (s : State) : State :=
  s.vxStart i (rampOf o.ramp) (s.rdS o.s) fun c _ s =>
    s.vxLand o.ramp 2 1024
      [putV w o.d allBits (BitVec.ofNat 1024
        (((s.rdV o.b).toNat * 2 ^ 1024 + (s.rdV o.a).toNat) / 2 ^ (8 * (c.toNat % 128))))] none

/-- vrmg (R240). -/
def execVrmg (o : VR) (s : State) : Res := .next (vMergeRows (.vrmg o) false o s)

/-- evrmg (R240). -/
def execEvrmg (o : VR) (s : State) : Res := .next (vMergeRows (.evrmg o) true o s)

/-- vbcast: the low bits of the scalar in every element (R240). -/
def vBroadcast (i : Instr) (w : Bool) (o : VBc) (s : State) : State :=
  s.vxStart i (rampOf o.ramp) (s.rdS o.s) fun c _ s =>
    s.vxLand o.ramp 2 1024 [putV w o.d allBits (rowOf (etWidth o.et) fun _ => c.toNat)] none

/-- vbcast (R240). -/
def execVbcast (o : VBc) (s : State) : Res := .next (vBroadcast (.vbcast o) false o s)

/-- evbcast (R240). -/
def execEvbcast (o : VBc) (s : State) : Res := .next (vBroadcast (.evbcast o) true o s)

/-- vins: the low bits of the scalar in element k alone (R240). -/
def vInsert (i : Instr) (w : Bool) (o : VIns) (s : State) : State :=
  s.vxStart i (rampOf o.ramp) (s.rdS o.s) fun c _ s =>
    s.vxLand o.ramp 2 1024 [putPart w o.d o.et o.imm.toNat 1 fun _ => c.toNat] none

/-- vins (R240). -/
def execVins (o : VIns) (s : State) : Res := .next (vInsert (.vins o) false o s)

/-- evins (R240). -/
def execEvins (o : VIns) (s : State) : Res := .next (vInsert (.evins o) true o s)

/-- ext of R240: the signed integer types are sign-extended, every other pattern zero-extended. -/
def extend (et : BitVec 4) (x : Nat) : Word :=
  if etInt et && isSigned et then BitVec.ofInt 64 (intOf et x) else BitVec.ofNat 64 x

/-- vext deposits an element into the scalar by XOR; it lands one core cycle after the first core edge at or after
S + 2r (R215, R240). -/
def execVext (o : VExt) (s : State) : Res :=
  .next (s.vxStart (.vext o) (rampOf o.ramp) 0 fun _ _ s =>
    s.sched (s.vxT (2 * rampOf o.ramp)) 2 .vx .vectorResultLand
      (.reply (.sx o.s) (extend o.et (elem (etWidth o.et) (s.rdV o.a) o.imm.toNat)) none (1024 * ajStep (rampOf o.ramp))))

/-- A mask operation, of latency 1 (R241). -/
def vMask (i : Instr) (w : Bool) (md : MReg) (ramp : BitVec 2) (f : State → BitVec 128) (s : State) : State :=
  s.vxOp i ramp 1 1 128 fun s => ([putM w md (f s)], none)

/-- mand (R241). -/
def execMand (o : VK) (s : State) : Res :=
  .next (vMask (.mand o) false o.md o.ramp (fun s => s.rdM o.ma &&& s.rdM o.mb) s)

/-- emand (R241). -/
def execEmand (o : VK) (s : State) : Res :=
  .next (vMask (.emand o) true o.md o.ramp (fun s => s.rdM o.ma &&& s.rdM o.mb) s)

/-- mor (R241). -/
def execMor (o : VK) (s : State) : Res :=
  .next (vMask (.mor o) false o.md o.ramp (fun s => s.rdM o.ma ||| s.rdM o.mb) s)

/-- emor (R241). -/
def execEmor (o : VK) (s : State) : Res :=
  .next (vMask (.emor o) true o.md o.ramp (fun s => s.rdM o.ma ||| s.rdM o.mb) s)

/-- mnot (R241). -/
def execMnot (o : VK2) (s : State) : Res :=
  .next (vMask (.mnot o) false o.md o.ramp (fun s => ~~~s.rdM o.ma) s)

/-- emnot (R241). -/
def execEmnot (o : VK2) (s : State) : Res :=
  .next (vMask (.emnot o) true o.md o.ramp (fun s => ~~~s.rdM o.ma) s)

/-! ## Loads and stores (R242 to R245) -/

/-- The address s + 128 · imm (R242). -/
def State.vea (s : State) (r : Reg) (imm : BitVec 17) : Word := s.rdS r + BitVec.ofNat 64 (128 * imm.toNat)

/-- Hops between VX and the station of a row (R243). -/
def vxHops (row : Nat) : Nat := hops (stationPos (station row)) posVX

/-- The read port and the lane of a load of a row whose request leaves at ring edge `t` (R243). -/
def State.loadReq (s : State) (row t : Nat) : List (Nat × Nat) :=
  let k := station row
  let at' := t + vxHops row * s.a.div.ring
  (at', portCode k false) :: path s.a.div.ring k (stationPos k) posVX at'

/-- The write port and the lane of a store that is written at tick `w` (R243). -/
def State.storeReq (s : State) (row w : Nat) : List (Nat × Nat) :=
  let k := station row
  (w, portCode k true) :: path s.a.div.ring k posVX (stationPos k) (w - vxHops row * s.a.div.ring)

/-- S + r(2h + 1) vector cycles: a load of ramp r is deposited no earlier (R243). -/
def State.loadLim (s : State) (row r : Nat) : Nat := s.vxS + r * (2 * vxHops row + 1) * s.a.div.vx

/-- The tick at which a row that was read at tick `t` is deposited (R243). -/
def State.depositTick (s : State) (row t lim : Nat) : Nat :=
  s.a.edge 1 (max lim (t + (vxHops row + 1) * s.a.div.ring))

/-- W of R243: the tick at which a store of ramp r issued now is written. -/
def State.storeTick (s : State) (row r : Nat) : Nat :=
  s.a.edge 4 (max (s.vxS + r * (vxHops row + 1) * s.a.div.vx) (s.ringT + (vxHops row + 1) * s.a.div.ring))

/-- A load of one row is taken up by the vector engine and its station (R242, R243). -/
def vLoad (w : Bool) (o : VLd) (s : State) : State :=
  let row := eaRow (s.vea o.s o.imm)
  let r := rampOf o.ramp
  let req := s.loadReq row s.ringT
  let d := s.laneDelay req
  let s1 := (s.reserve req d).updA fun a => { a with vbusy := s.vxS + r * a.div.vx }
  s1.sched (s.ringT + (vxHops row + d) * s.a.div.ring) 0 .vx .vldRowRead
    (.vread row o.d.toNat (if w then .ovr else .xor) (s.loadLim row r + d * s.a.div.ring)
      (1024 * ajStep r + ajRow + ajHop * vxHops row) 0)

/-- The checks of a row address (R56, R150, R155, R242). -/
def State.rowTraps (s : State) (ea : Word) (req : List (Nat × Nat)) : Option Trap :=
  firstTrap [s.pfxLocal, s.eaTrap ea true, s.laneTrap req]

def trapsVld (o : VLd) (s : State) : Option Trap :=
  let ea := s.vea o.s o.imm
  s.rowTraps ea (s.loadReq (eaRow ea) s.ringT)

/-- vld (R242). -/
def execVld (o : VLd) (s : State) : Res := s.unless (trapsVld o s) (vLoad false o s)

/-- evld (R242). -/
def execEvld (o : VLd) (s : State) : Res := s.unless (trapsVld o s) (vLoad true o s)

/-- A store of one row: the register is read at S and the row written at W (R242, R243). -/
def vStore (i : Instr) (w : Bool) (o : VSt) (s : State) : State :=
  let row := eaRow (s.vea o.s o.imm)
  let r := rampOf o.ramp
  let req := s.storeReq row (s.storeTick row r)
  let d := s.laneDelay req
  let t := s.storeTick row r + d * s.a.div.ring
  (match s.ev.arg with
   | .restart _ _ => s
   | _ => s.reserve req d).vxStartAt i r (BitVec.ofNat 64 row) t fun c t s =>
    s.sched t 1 .vx .vstRowWrite (.vwrite c.toNat (s.rdV o.a) w (1024 * ajStep r + ajRow + ajHop * vxHops c.toNat))

def trapsVst (o : VSt) (s : State) : Option Trap :=
  let ea := s.vea o.s o.imm
  s.rowTraps ea (s.storeReq (eaRow ea) (s.storeTick (eaRow ea) (rampOf o.ramp)))

/-- vst (R242). -/
def execVst (o : VSt) (s : State) : Res := s.unless (trapsVst o s) (vStore (.vst o) false o s)

/-- evst (R242). -/
def execEvst (o : VSt) (s : State) : Res := s.unless (trapsVst o s) (vStore (.evst o) true o s)

/-- Row k of the eight that vldx reads, one in each station (R244). -/
def gatherRow (a : Row) (k : Nat) : Nat := 8 * (elem 16 a k / 8 % 6144) + k

/-- The element j of the row in station c_j (R244). -/
def gather (w : Nat) (sel : Row) (rows : Nat → Row) : Row :=
  rowOf w fun j => elem w (rows (sel.toNat / 2 ^ (128 + 3 * j) % 8)) j

/-- The ports and lanes of the eight reads (R244). -/
def State.gatherReq (s : State) (a : Row) : List (Nat × Nat) :=
  (List.range 8).flatMap fun k => s.loadReq (gatherRow a k) s.ringT

/-- vldx reads its register at issue; the eight reads take place at T + h and the deposit lands at S + 15r (R244). -/
def vGather (w : Bool) (o : V2) (s : State) : State :=
  let a := s.rdV o.a
  let r := rampOf o.ramp
  let req := s.gatherReq a
  let d := s.laneDelay req
  let id := s.ev.seq * 8
  let s1 := (s.reserve req d).updA fun a => { a with vbusy := s.vxS + r * a.div.vx }
  let s2 := (List.range 8).foldl (fun (g : State) k =>
    g.sched (s.ringT + (vxHops k + d) * s.a.div.ring) 0 .vx .vldRowRead
      (.vread (gatherRow a k) o.d.toNat (.gather (id + k)) 0 0 0)) s1
  s2.sched (s.a.edge 1 (max (s.vxS + 15 * r * s.a.div.vx + d * s.a.div.ring) (s.ringT + (15 + d) * s.a.div.ring))) 2 .vx .vldDeposit
    (.vfill id o.d.toNat (etWidth o.et) a w (1024 * ajStep r + 8 * ajRow + 32 * ajHop))

def trapsVldx (o : V2) (s : State) : Option Trap := firstTrap [s.pfxLocal, s.laneTrap (s.gatherReq (s.rdV o.a))]

/-- vldx (R244). -/
def execVldx (o : V2) (s : State) : Res := s.unless (trapsVldx o s) (vGather false o s)

/-- evldx (R244). -/
def execEvldx (o : V2) (s : State) : Res := s.unless (trapsVldx o s) (vGather true o s)

/-- The deposit of a gather falls no earlier than tick t, when one of its rows can be deposited (R152, R243, R244). -/
def State.gatherNotBefore (s : State) (id t : Nat) : State :=
  let late := fun (e : Ev) => e.atoll == s.a.n && decide (e.tick < t) && match e.arg with
    | .vfill k _ _ _ _ _ => k / 8 == id / 8
    | _ => false
  { s with agenda := (s.agenda.filter late).foldl (fun (g : List Ev) (e : Ev) => insertEv { e with tick := t } g)
             (s.agenda.filter fun e => !late e) }

/-- A station reads a row for VX: it is deposited at its tick, or latched for a gather; hpop also clears the row
(R94, R152, R243 to R245). -/
def execVldRowRead (s : State) : Res :=
  match s.ev.arg with
  | .vread row d k lim chg clr =>
    let p := stationPos (station row)
    if s.portHeld row true false then
      .next (s.portWait fun t => portsAt t row true false ++ path s.a.div.ring (station row) p posVX t)
    else
      let v := s.a.sp.row row
      let t := s.depositTick row s.now lim
      let w := max clr (s.now + s.a.div.ring)
      match k with
      | .xor => .next (s.sched t 2 .vx .vldDeposit (.puts [.xor d v] chg none))
      | .ovr => .next (s.sched t 2 .vx .vldDeposit (.puts [.ovr d allBits v] chg none))
      | .gather id => .next ((s.updA fun a => { a with latch := a.latch ++ [(id, v)] }).gatherNotBefore id t)
      | .pop =>
        .next ((s.sched t 2 .vx .vldDeposit (.puts [.xor d v] 0 none)).sched w 1 .vx .vstRowWrite (.vwrite row v false chg))
  | _ => .next s

/-- A loaded row enters its register, or the gathered row once all eight have been read (R218, R243, R244). -/
def execVldDeposit (s : State) : Res :=
  match s.ev.arg with
  | .puts l c f =>
    let r := applyPuts l s.a
    .next (({ s with a := r.2 }.charge (c + ajErase * r.1)).flag f)
  | .vfill id d w sel ovr c =>
    let rows := fun k => s.a.latch.find? fun l => l.1 == id + k
    if (List.range 8).all fun k => (rows k).isSome then
      let f := gather w sel fun k => match rows k with
        | some l => l.2
        | none => 0
      let r := (if ovr then VPut.ovr d allBits f else VPut.xor d f).apply s.a
      .next ({ s with a := { r.2 with latch := r.2.latch.filter fun l => l.1 / 8 != id / 8 } }.charge (c + ajErase * r.1))
    else .next (s.again (s.now + s.a.div.vx))
  | _ => .next s

/-! ## The history stack (R92 to R95) -/

def Strand.grottoRows (st : Strand) : Nat := fld st.grRows 0 16
def Strand.grottoDepth (st : Strand) : Nat := fld st.grRows 32 32
def Strand.grottoBase (st : Strand) : Nat := fld st.grBase 0 16
def Strand.grottoSpill (st : Strand) : Nat := fld st.grBase 32 16

/-- H, the on-chip entries of the history stack (R92). -/
def Strand.histRows (st : Strand) : Nat := st.grottoRows - st.grottoSpill

/-- hrow(e) (R93). -/
def Strand.hrow (st : Strand) (e : Nat) : Nat := st.grottoBase + st.grottoSpill + e % st.histRows

/-- The grotto holds no history or runs past the scratchpad (R94). -/
def Strand.badGrotto (st : Strand) : Bool :=
  st.grottoRows ≤ st.grottoSpill || 49152 < st.grottoBase + st.grottoRows

/-- HOVF for entry e of the overflow area: no handle, outside its page, or not of the space that the prefix names (R56, R94). -/
def Strand.hovfTrap (st : Strand) (e sp : Nat) : Option Trap :=
  if st.histRows ≤ e then
    (if !hValid st.hovf then some ⟨tHandle, 1 + 2 ^ 9⟩
     else if hPage st.hovf ≤ 128 * (e - st.histRows) then some ⟨tHandle, 2 + 2 ^ 9⟩
     else trapIf (sp != 0 && sp != hSpace st.hovf) tHandle (4 + 2 ^ 9))
  else none

/-- The byte address of the overflow row of entry e (R93). -/
def Strand.hovfByte (st : Strand) (e : Nat) : Nat := handleByte st.hovf (128 * (e - st.histRows) : Nat)

/-- The traps of hpush (R94). -/
def trapsHpush (o : VA) (s : State) : Option Trap :=
  let st := s.a.st
  let e := st.grottoDepth
  let row := st.hrow e
  firstTrap [s.pfxLocal, trapIf st.badGrotto tData 1, trapIf (e == 2 ^ 32 - 1) tData 2, st.hovfTrap e s.pfxSpace,
    trapIf (decide (e < st.histRows) && s.a.sp.row row != 0) tAssertz (o.a.toNat + 2 ^ 11 + row * 2 ^ 12),
    s.laneTrap (s.storeReq row (s.storeTick row (rampOf o.ramp)))]

/-- Outside a region the strand waits for the history transfer of its bundle (R95). -/
def State.historyWait (s : State) : State := if s.a.st.rgn.isNone then s.waitFor .history else s

/-- The register of hpush is read at S: it is zero from S + 2r on, and its row takes it at W, over the spilled entry if there is one
(R94, R95, R245).  The scalar of a put-off hpush is its row, and 2^16 when it spills. -/
def hpushMove (o : VA) (c : Word) (t : Nat) (s : State) : State :=
  let v := s.rdV o.a
  let r := rampOf o.ramp
  let row := fld c 0 16
  let spill := c.getLsbD 16
  (s.sched (s.vxT (2 * r)) 2 .vx .vectorResultLand (.puts [.xor o.a.toNat v] 0 none)).sched t 1 .vx .vstRowWrite
    (.vwrite row v spill (1024 * ajStep r + ajRow + ajHop * vxHops row + if spill then ajRow else 0))

/-- The issue of hpush: lanes, depth, and the transfer of the spilled entry, which starts once the bundle has issued (R94, R95). -/
def hpushIssue (o : VA) (d : Nat) (s : State) : State :=
  let st := s.a.st
  let e := st.grottoDepth
  let row := st.hrow e
  let s1 := (s.reserve (s.storeReq row (s.storeTick row (rampOf o.ramp))) d).sched (s.coreT 1) 3 .core .scalarResultLand
    (.land (.depth true) 0)
  if st.histRows ≤ e then
    s1.historyWait.sched (s.coreT 1) 0 .none .historyTransferDone (.spill row (st.hovfByte e) (hFrame st.hovf))
  else s1

/-- hpush moves a register to the top of the history stack; a full on-chip part spills its oldest entry (R94, R95, R245). -/
def execHpush (o : VA) (s : State) : Res :=
  let e := s.a.st.grottoDepth
  let row := s.a.st.hrow e
  let r := rampOf o.ramp
  match s.ev.arg with
  | .restart c t => .next (hpushMove o c t s)
  | _ =>
    s.unless (trapsHpush o s)
      (let d := s.laneDelay (s.storeReq row (s.storeTick row r))
       let t := s.storeTick row r + d * s.a.div.ring
       (hpushIssue o d s).vxStartAt (.hpush o) r
         (BitVec.ofNat 64 (row + if s.a.st.histRows ≤ e then 2 ^ 16 else 0)) t fun c t s => hpushMove o c t s)

/-- The port and lane needs of hpop: a load and a store of its row, issued together (R95, R245). -/
def State.popReq (s : State) (row r : Nat) : List (Nat × Nat) :=
  s.loadReq row s.ringT ++ s.storeReq row (s.storeTick row r)

/-- The traps of hpop (R94). -/
def trapsHpop (o : VA) (s : State) : Option Trap :=
  let st := s.a.st
  let e := st.grottoDepth - 1
  firstTrap [s.pfxLocal, trapIf st.badGrotto tData 1, trapIf (st.grottoDepth == 0) tData 3,
    trapIf (!s.tagV o.a.toNat) tAssertz o.a.toNat, st.hovfTrap e s.pfxSpace,
    s.laneTrap (s.popReq (st.hrow e) (rampOf o.ramp))]

/-- hpop moves the newest entry to a clean register and clears its row, which an overflowed entry then refills
(R94, R95, R245).  It performs as a vld and a vst of the row, and is charged the hops of both (log 96). -/
def execHpop (o : VA) (s : State) : Res :=
  let st := s.a.st
  let e := st.grottoDepth - 1
  let row := st.hrow e
  let r := rampOf o.ramp
  s.unless (trapsHpop o s)
    (let req := s.popReq row r
     let d := s.laneDelay req
     let s1 := ((s.reserve req d).sched (s.coreT 1) 3 .core .scalarResultLand (.land (.depth false) 0)).updA fun a =>
       { a with vbusy := s.vxS + r * a.div.vx }
     let s2 := s1.sched (s.ringT + (vxHops row + d) * s.a.div.ring) 0 .vx .vldRowRead
       (.vread row o.a.toNat .pop (s.loadLim row r + d * s.a.div.ring) (1024 * ajStep r + 2 * ajRow + 2 * ajHop * vxHops row)
         (s.storeTick row r + d * s.a.div.ring))
     if st.histRows ≤ e then
       s2.historyWait.laterBy (s.coreT 1 - s.now) s.a.n .historyTransferDone (.hist true row (st.hovfByte e) (hFrame st.hovf) 0)
     else s2)

/-- The access of a step of VX to a row has not performed. -/
def Ev.ofRow (n row : Nat) (e : Ev) : Bool :=
  e.atoll == n && match e.arg with
    | .vread r _ _ _ _ _ | .vwrite r _ _ _ | .refill r _ => r == row
    | .restart c _ => e.storeDue && fld c 0 16 == row
    | _ => false

/-- The ring edge after the last write that accesses to a row leave to come, those of bundles up to q. -/
def State.rowFree (s : State) (row q : Nat) : Nat :=
  (s.agenda.filter fun e => e.ofRow s.a.n row && decide (e.seq ≤ q)).foldl (fun m e => match e.arg with
    | .vread _ _ _ _ _ clr => max m (max clr e.tick + 2 * s.a.div.ring)
    | _ => max m (e.performs + s.a.div.ring)) s.now

/-- The wait for a history transfer ends (R95). -/
def State.endHistory (s : State) : State := if s.a.st.waits.contains .history then s.resume .history 1 else s

/-- A step takes a port of a row's station: it asks again in the next ring cycle while the strand or a burst has it (R17, R152). -/
def State.takePort (s : State) (row : Nat) (wr : Bool) (f : State → State) : State :=
  let e := s.a.edge 4 s.now
  if e ≠ s.now then s.again e
  else if s.portTaken row (!wr) wr || s.portHeld row (!wr) wr then s.again (s.now + s.a.div.ring)
  else f (s.reserve (portsAt s.now row (!wr) wr) 0)

/-- The charges of an instruction of VX are applied together, with its last write: those of a row written while its register is still to
land go with the landing (R88). -/
def State.chargeLast (s : State) (c : Nat) : State :=
  let q := fun (e : Ev) => e.seq == s.ev.seq && e.atoll == s.a.n && (e.i == .vectorResultLand || e.i == .vldDeposit)
  if s.agenda.any q then
    { s with agenda := s.agenda.map fun e => match q e, e.arg with
        | true, .puts l c' f => { e with arg := .puts l (c' + c) f }
        | _, _ => e }
  else s.charge c

/-- A row from VX is written on arrival: by XOR, or over the old row with its old 1-bits erased (R242, R243); a refilled entry enters
its row (R94, R95). -/
def execVstRowWrite (s : State) : Res :=
  match s.ev.arg with
  | .vwrite row v ovr c =>
    if s.portHeld row false true then .next (s.portWait fun t => portsAt t row false true)
    else
      let old := s.a.sp.row row
      .next ((s.spSetRow row (if ovr then v else old ^^^ v)).chargeLast (c + if ovr then ajErase * pop old else 0))
  | .refill row v =>
    .next (s.takePort row true fun s => ((s.spSetRow row (s.a.sp.row row ^^^ v)).charge ajRow).endHistory)
  | _ => .next s

/-- The entry that a spill moves is read once what earlier bundles write into its row is there, and leaves for the overflow area
(R94, R95). -/
def State.spillRead (s : State) (row byte frame : Nat) : State :=
  let t := s.rowFree row (s.ev.seq - 1)
  if s.now < t then s.again t
  else s.takePort row false fun s => s.later s.a.n .historyTransferDone (.hist false row byte frame (s.a.sp.row row))

/-- A refilled entry is written into its row once the row is clear; one from a poisoned row is zero (R94, R95, R354). -/
def State.refillRow (s : State) (row : Nat) (v : Row) : State :=
  s.sched (s.a.edge 4 (s.rowFree row s.ev.seq)) 1 .vx .vstRowWrite (.refill row v)

/-- A history transfer of the atoll is under way; one that has still to read its row is, once nothing earlier is to write it (R95, R131,
log 104). -/
def State.historyDue (s : State) : Bool :=
  s.agenda.any fun e => e.i == .historyTransferDone && e.atoll == s.a.n &&
    match e.arg with
    | .spill row _ _ => !(s.agenda.any fun f => f.ofRow s.a.n row && decide (f.seq < e.seq))
    | _ => true

end Sys2Proof.Machine
end

