-- ==== Sys2Proof/Machine/Matrix.lean ====
section
/-! DEFINITION. The matrix array (R248 to R271): ring registers, format words, weights, the product commands and the
steps that carry them out. -/

namespace Sys2Proof.Machine

/-! ## Ring registers and format words -/

/-- The scratchpad row of ring position p, counted on past the end of the ring (R250). -/
def ringRow (r : Word) (p : Nat) : Nat := rBase r + p % rSize r

/-- The rows of ring x that commands in flight claim to read (R251, R280). -/
def Atoll.claimed (a : Atoll) (x : Ring) : Nat :=
  a.mjobs.foldl (fun n j => if j.ring = x then n + j.rows else n) 0 +
    a.rjobs.foldl (fun n j => n + (if j.xring = x then j.xrows else 0) +
      (if j.yring = x ∧ j.kind ≠ .qr then j.yrows else 0)) 0

/-- The positions of ring x that rtqr commands in flight claim to write: w of R255. -/
def Atoll.writeClaimed (a : Atoll) (x : Ring) : Nat :=
  a.rjobs.foldl (fun n j => if j.yring = x ∧ j.kind = .qr then n + j.yrows else n) 0

/-- The unclaimed count of ring x (R251). -/
def State.unclaimed (s : State) (x : Ring) : Nat := rCnt (s.ring x) - s.a.claimed x

/-- The first position that a new claim on ring x takes (R251). -/
def State.claimFirst (s : State) (x : Ring) : Nat := rHead (s.ring x) + s.a.claimed x

/-- A claim on ring x ends in this core cycle: a set or load that waits for it issues in the next (R254). -/
def State.freed (s : State) (x : Ring) : State := s.updA fun a => { a with freed := a.freed ++ [(x, s.now)] }

/-- A command in flight holds a claim on ring x, or did when this core cycle began (R254). -/
def Atoll.ringHeld (a : Atoll) (x : Ring) : Bool := a.claimed x + a.writeClaimed x != 0 || a.freed.any fun r => r.1 == x

/-- The claim of u rows of ring x is given up: HEAD moves on and CNT falls (R251). -/
def State.release (s : State) (x : Ring) (u : Nat) : State :=
  let r := s.ring x
  (s.setRing x (ringWord (rBase r) (rSize r) ((rHead r + u) % max 1 (rSize r)) (rCnt r - u))).freed x

def fAT (w : Word) : BitVec 4 := bits w 56 4
def fWT (w : Word) : BitVec 4 := bits w 52 4
def fCT (w : Word) : BitVec 4 := bits w 48 4
def fSA (w : Word) : Nat := fld w 46 2
def fSW (w : Word) : Nat := fld w 44 2
def fFB (w : Word) : Nat := fld w 38 6
def fKl (w : Word) : Nat := fld w 28 10 + 1
def fNl (w : Word) : Nat := fld w 21 7 + 1
def fMl (w : Word) : Nat := fld w 9 12 + 1

/-- The multiply-accumulates per cell and cycle of a pair of types; 0 for a pair that R210 does not list. -/
def fRate (w : Word) : Nat :=
  let a := (fAT w).toNat
  let b := (fWT w).toNat
  let exact := fCT w == 13#4
  if fCT w == 6#4 && a == b && (a == 4 || a == 5) && fSA w == 0 && fSW w == 0 && fFB w == 0 then 1
  else if exact && a ≤ 1 && b ≤ 1 then 2
  else if exact && (a == 7 || a == 8) && (b == 7 || b == 8) then 2
  else if exact && (a == 9 || a == 10) && (b == 9 || b == 10) then 4
  else if exact && a == 0 && b == 11 then 8
  else 0

/-- The format word is legal (R210). -/
def fLegal (w : Word) : Bool :=
  fld w 60 4 == 0 && fld w 0 9 == 0 && fRate w != 0 && fSA w ≤ 1 && fSW w ≤ 1 && fKl w ≤ 128 * fRate w &&
    (fSA w == 0 && fSW w == 0 || fKl w % 64 == 0)

/-- The floating group (R205). -/
def fFloating (w : Word) : Bool := fCT w == 6#4

/-- The fields that make the weight shape: WT, K, N and SW (R249, R258). -/
def shapeOf (w : Word) : Nat × Nat × Nat × Nat := ((fWT w).toNat, fKl w, fNl w, fSW w)

/-- α and β of R257, the rows of an activation vector and of a weight column, with their exponent rows. -/
def actRows (w : Word) : Nat := fRate w * etWidth (fAT w) / 8 + fSA w
def colRows (w : Word) : Nat := 2 + fSW w

/-- g and ρ of R257. -/
def accPer (w : Word) : Nat := if fFloating w then 32 else 16
def accRows (w : Word) : Nat := (fNl w + accPer w - 1) / accPer w

/-- The oldest word of FQ that no command has taken (R252). -/
def Atoll.fqNext (a : Atoll) : Option Word := (a.fq.find? fun e => e.1.isNone).map fun e => e.2

/-- The word of FQ that a command takes, marked with the command's number (R252). -/
def takeFq (id : Nat) : List (Option Nat × Word) → List (Option Nat × Word)
  | [] => []
  | (none, w) :: r => (some id, w) :: r
  | e :: r => e :: takeFq id r

/-! ## mring, mtail and fmtq -/

/-- The limits of a ring register (R250, R254). -/
def ringBad (b z : Nat) : Bool := z % 8 != 0 || 49152 < b + z

def trapsMringSet (o : MRing2) (s : State) : Option Trap :=
  firstTrap [s.rgnIll, trapIf (eaRemote (s.rdS o.a)) tData 0x12,
    trapIf (s.rdS o.b == 0 || ringBad (eaRow (s.rdS o.a)) (s.rdS o.b).toNat) tData 0x42]

/-- mring sets a ring register, in force from t+1 (R254). -/
def execMringSet (o : MRing2) (s : State) : Res :=
  s.unless (trapsMringSet o s)
    (s.landIn 1 (.ring o.x) (ringWord (eaRow (s.rdS o.a)) (s.rdS o.b).toNat 0 0))

/-- mring reads a ring register at t+2 (R254). -/
def execMringRead (o : MRing1) (s : State) : Res := .next (s.landIn 2 (.s o.a) (s.ring o.x))

/-- The 64-bit value of a load breaks the limits of R250. -/
def ringValueBad (v : Word) : Bool :=
  ringBad (rBase v) (rSize v) || (if rSize v = 0 then rHead v != 0 || rCnt v != 0
    else rSize v ≤ rHead v || rSize v < rCnt v)

def trapsMringLoad (o : MRing1) (s : State) : Option Trap :=
  firstTrap [trapIf (!s.privileged) tPriv (s.privInfo 7), s.rgnIll, trapIf (ringValueBad (s.rdS o.a)) tData 0x42]

/-- mring loads a ring register, in force from t+1 (R254). -/
def execMringLoad (o : MRing1) (s : State) : Res :=
  s.unless (trapsMringLoad o s)
    (s.landIn 1 (.ring o.x) (s.rdS o.a))

def trapsMtail (o : MRing1) (s : State) : Option Trap :=
  let v := (s.rdS o.a).toNat
  trapIf (decide (2 ^ 16 ≤ v) || decide (rSize (s.ring o.x) < rCnt (s.ring o.x) + v + s.a.writeClaimed o.x)) tData 0x40

/-- mtail publishes rows; the count is in force from t+1 (R255). -/
def execMtail (o : MRing1) (s : State) : Res :=
  s.unless (trapsMtail o s)
    (s.landIn 1 (.tail o.x) (s.rdS o.a))

/-- T_MISS with a reason and the region cycle (R262). -/
def State.missInfo (s : State) (reason : Nat) : Nat := reason + s.regionCycle * 2 ^ 16

/-- fmtq in a region when FQ is full (R256). -/
def trapsFmtq (_ : FmtqOp) (s : State) : Option Trap :=
  trapIf (s.a.st.rgn.isSome && decide (16 ≤ s.a.fq.length)) tMiss (s.missInfo 5)

/-- fmtq appends a word, which commands find from t+1 on (R256). -/
def execFmtq (o : FmtqOp) (s : State) : Res :=
  s.unless (trapsFmtq o s) (s.landIn 1 .fq (s.rdS o.a))

/-! ## Start of an array command (R262, R263) -/

/-- S: the first edge of the engine's clock, of domain k, at or after the issue tick, or after the start of region cycle st (R263). -/
def State.arrayS (s : State) (k : Nat) (stamp : Option (BitVec 10)) : Nat :=
  match stamp with
  | some t => s.a.edge k (s.coreT 0 + (t.toNat - s.regionCycle) * s.a.div.core)
  | none => s.a.edge k s.now

/-- A stamp outside a region makes the syllable illegal (R50). -/
def State.stampIll (s : State) (stamp : Option (BitVec 10)) : Option Trap :=
  trapIf (stamp.isSome && s.a.st.rgn.isNone) tIll s.a.st.pos

/-- A stamped command that issues after its cycle (R262). -/
def State.stampLate (s : State) (stamp : Option (BitVec 10)) : Option Trap :=
  match stamp with
  | some t => trapIf (decide (t.toNat < s.regionCycle)) tMiss (s.missInfo 1)
  | none => none

/-- A stamped command that finds its engine not free at S (R262); `free` is the tick from which it is free. -/
def State.stampBusy (s : State) (k free : Nat) (stamp : Option (BitVec 10)) : Option Trap :=
  trapIf (stamp.isSome && decide (s.arrayS k stamp < free)) tMiss (s.missInfo 2)

/-! ## The accesses of a command and their collisions (R155, R264, R266) -/

/-- The read port and lane of a row that goes from its station to position `pos`, read at tick `t`. -/
def readReq (ring pos row t : Nat) : List (Nat × Nat) :=
  (t, portCode (station row) false) :: path ring (station row) (stationPos (station row)) pos t

/-- The write port and lane of a row that comes from position `pos`, written at tick `t`. -/
def writeReq (ring pos row t : Nat) : List (Nat × Nat) :=
  let k := station row
  (t, portCode k true) :: path ring k pos (stationPos k) (t - hops pos (stationPos k) * ring)

/-- The accesses of a command in one cycle: offset from S, and its needs with S at tick 0 taken as `t`. -/
structure Group where
  k : Nat
  req : List (Nat × Nat)
deriving DecidableEq, Repr

/-- Two lists of groups, each in the order of their offsets, as one (at most `n` long). -/
def mergeGroups : Nat → List Group → List Group → List Group
  | 0, _, _ => []
  | _, [], r => r
  | _, r, [] => r
  | n + 1, x :: xs, y :: ys =>
    if x.k ≤ y.k then x :: mergeGroups n xs (y :: ys) else y :: mergeGroups n (x :: xs) ys

/-- The delays that collisions put before the offsets of a command: at each access that collides, whole cycles that also
delay everything after it (R266).  `acc` is the delay so far. -/
def delaysOf (res : List (Nat × Nat)) (cyc : Nat) : Nat → List Group → List (Nat × Nat)
  | _, [] => []
  | acc, g :: r =>
    let e := freeDelay res cyc (g.req.map fun q => (q.1 + acc * cyc, q.2)) (res.length * (g.req.length + 1) + 1) 0
    if e = 0 then delaysOf res cyc acc r else (g.k, e) :: delaysOf res cyc (acc + e) r

/-- The delay that has built up at offset k. -/
def delayAt (l : List (Nat × Nat)) (k : Nat) : Nat := l.foldl (fun n d => if d.1 ≤ k then n + d.2 else n) 0

/-- The delay that collisions before offset k have built up: the end of an occupancy of k cycles falls that much later (R265, R266). -/
def delayBefore (l : List (Nat × Nat)) (k : Nat) : Nat := l.foldl (fun n d => if d.1 < k then n + d.2 else n) 0

/-- The delays of a command's groups: none inside a region (R155). -/
def State.groupDelays (s : State) (l : List Group) : List (Nat × Nat) :=
  if s.a.st.rgn.isSome then [] else delaysOf s.a.res s.a.div.ring 0 l

/-- Reserves the lanes and ports of the groups, each with its delay. -/
def State.reserveGroups (s : State) (l : List Group) (d : List (Nat × Nat)) : State :=
  s.updA fun a => { a with res := a.res ++ l.flatMap (fun g =>
    g.req.map fun q => (q.1 + delayAt d g.k * a.div.ring, q.2)) }

/-- Puts the steps of command `id` from its offset k on off by one ring cycle, the end of its occupancy among them: one of its accesses
found its port held (R152, R266, R291). -/
def State.shiftJob (s : State) (dom : Dom) (id k : Nat) : State :=
  let mine := fun (e : Ev) => e.atoll == s.a.n && e.dom == dom &&
    (match e.arg with
     | .n3 i _ _ => i == id
     | _ => false)
  let late := fun (busy : Nat) (b : Bool) => if b && decide (s.now < busy) then busy + s.a.div.ring else busy
  let s := { s with agenda := (s.agenda.filter mine).foldl (fun (g : List Ev) (e : Ev) => insertEv { e with tick := e.tick + s.a.div.ring } g)
                      (s.agenda.filter fun e => !mine e) }
  s.updA fun a =>
    { a with mbusy := late a.mbusy (dom == Dom.mx && (a.mjobs.getLast?.map fun j => j.id) == some id)
             rbusy := late a.rbusy (dom == Dom.rt && (a.rjobs.getLast?.map fun j => j.id) == some id)
             mjobs := a.mjobs.map fun (j : MJob) => if j.id = id then { j with delays := j.delays ++ [(k, 1)] } else j
             rjobs := a.rjobs.map fun (j : RJob) => if j.id = id then { j with delays := j.delays ++ [(k, 1)] } else j }

/-- The access in hand of command `id`, at its offset k, waits for its port (R131, R152). -/
def State.jobWait (s : State) (id k : Nat) : State :=
  match s.a.st.rgn with
  | some _ => s.portWait fun _ => []
  | none => (s.again s.now).shiftJob s.ev.dom id k

/-- One of some rows has its port held by a copy burst (R152). -/
def State.rowsHeld (s : State) (rows : List Nat) (wr : Bool) : Bool :=
  rows.any fun r => s.portHeld r (!wr) wr

/-! ## The offsets of R264, in matrix cycles from S -/

def MJob.ml (j : MJob) : Nat := fMl j.word
def MJob.accum (j : MJob) : Bool := j.kind == .macr || j.kind == .masr || j.kind == .fma
def MJob.ca (j : MJob) : Nat := (actRows j.word + 7) / 8
def MJob.v (j : MJob) : Nat := j.ca + if j.accum then 1 else 0
def MJob.kAct (j : MJob) (m half : Nat) : Nat := 1 + j.ramp * j.v * m + half
def MJob.kAcc (j : MJob) (m : Nat) : Nat := 1 + j.ramp * j.v * m + j.ca
def MJob.kCap (j : MJob) (m : Nat) : Nat := 1 + j.ramp * j.v * m + j.v + 7
def MJob.kWrite (j : MJob) (m : Nat) : Nat := j.ramp * (j.v * m + j.v + 31)
def MJob.kCol (j : MJob) (c : Nat) : Nat := 1 + j.ramp * c
def MJob.kChange (j : MJob) (c : Nat) : Nat := j.ramp * c + 9

/-- The occupancy and the offset of retirement (R265). -/
def MJob.occ (j : MJob) : Nat :=
  match j.kind with
  | .clr => 1
  | .wld => j.ramp * fNl j.word
  | _ => j.ramp * j.v * j.ml

def MJob.kRetire (j : MJob) : Nat :=
  match j.kind with
  | .clr => 9
  | .wld => j.kChange (fNl j.word - 1)
  | _ => j.kWrite (j.ml - 1)

/-- The rows of vector m that are read in its cycle `half`, those of weight column m, or its accumulator rows. -/
def MJob.actRowsAt (j : MJob) (ring : Word) (m half : Nat) : List Nat :=
  let n := actRows j.word
  (List.range (min 8 (n - 8 * half))).map fun i => ringRow ring (j.first + n * m + 8 * half + i)

def MJob.colRowsAt (j : MJob) (ring : Word) (c : Nat) : List Nat :=
  (List.range (colRows j.word)).map fun i => ringRow ring (j.first + colRows j.word * c + i)

def MJob.accRowsAt (j : MJob) (m : Nat) : List Nat :=
  (List.range (accRows j.word)).map fun i => j.base + accRows j.word * m + i

/-- Every access of a command that starts at tick S (R264, R266). -/
def MJob.groups (j : MJob) (ring : Word) (cyc start : Nat) : List Group :=
  let rd := fun k rows => (⟨k, rows.flatMap fun r => readReq cyc posMX r (start + k * cyc)⟩ : Group)
  let wr := fun k rows => (⟨k, rows.flatMap fun r => writeReq cyc posMX r (start + k * cyc)⟩ : Group)
  match j.kind with
  | .clr => []
  | .wld => (List.range (fNl j.word)).map fun c => rd (j.kCol c) (j.colRowsAt ring c)
  | _ =>
    let reads := (List.range j.ml).flatMap fun m =>
      (List.range j.ca).map (fun h => rd (j.kAct m h) (j.actRowsAt ring m h)) ++
        (if j.accum then [rd (j.kAcc m) (j.accRowsAt m)] else [])
    let writes := (List.range j.ml).map fun m => wr (j.kWrite m) (j.accRowsAt m)
    mergeGroups (reads.length + writes.length) reads writes

/-- A step of a command at offset k of a command that starts at tick S. -/
def State.jobStep (s : State) (start k : Nat) (j : MJob) (phase : Nat) (i : Instr) (m half : Nat) : State :=
  s.sched (start + (k + delayAt j.delays k) * s.a.div.mx) phase .mx i (.n3 j.id m half)

/-- The next step of a command, from offset k to offset k'. -/
def State.jobNext (s : State) (j : MJob) (k k' phase : Nat) (i : Instr) (m half : Nat) : State :=
  s.sched (s.now + (k' - k + (delayAt j.delays k' - delayAt j.delays k)) * s.a.div.mx) phase .mx i (.n3 j.id m half)

/-- A command starts at S: its lanes and ports are reserved, its word taken, its first steps scheduled (R251, R252, R264). -/
def State.startJob (s : State) (start : Nat) (j : MJob) : State :=
  let g := j.groups (s.ring j.ring) s.a.div.mx start
  let j := { j with delays := s.groupDelays g, start := start }
  let s := (s.reserveGroups g j.delays).updA fun a =>
    { a with mjobs := a.mjobs ++ [j], mbusy := start + (j.occ + delayBefore j.delays j.occ) * a.div.mx
             fq := if j.kind = .clr then a.fq else takeFq j.id a.fq }
  let s := s.jobStep start j.kRetire j 3 .matrixRetire 0 0
  match j.kind with
  | .clr => s.jobStep start 9 j 1 .weightLoadChange 0 0
  | .wld => (s.jobStep start (j.kCol 0) j 0 .matrixActivationRead 0 0).jobStep start (j.kChange 0) j 1 .weightLoadChange 0 0
  | _ =>
    let s := s.jobStep start (j.kAct 0 0) j 0 .matrixActivationRead 0 0
    let s := if j.accum then s.jobStep start (j.kAcc 0) j 0 .matrixAccumulatorRead 0 0 else s
    (s.jobStep start (j.kCap 0) j 0 .matrixWeightCapture 0 0).jobStep start (j.kWrite 0) j 1 .matrixWriteback 0 0

/-- T_DATA 0x41: the matrix and ring divisors differ (R263). -/
def State.mxClockTrap (s : State) : Option Trap := trapIf (s.a.div.mx != s.a.div.ring) tData 0x41

/-- Steps 2 and 3 of R260: no untaken word, or an illegal one; the INFO of T_FQEMPTY is left open (log 21). -/
def State.wordTrap (s : State) : Option Trap :=
  match s.a.fqNext with
  | none => some ⟨tFqEmpty, (Config.freeWord s.free).toNat⟩
  | some w => trapIf (!fLegal w) tIll (s.a.st.pos + 2 ^ 8)

/-- The word that a command takes; zero when there is none, and then the command traps. -/
def State.nextWord (s : State) : Word := s.a.fqNext.getD 0

/-! ## mwld, emclr and the products -/

/-- The command that mwld starts (R258). -/
def mwldJob (o : MwldOp) (s : State) : MJob :=
  { id := s.ev.seq, kind := .wld, start := 0, word := s.nextWord, base := 0, ring := o.y, first := s.claimFirst o.y
    rows := colRows s.nextWord * fNl s.nextWord, ramp := rampOf o.ramp, delays := [], acts := [], accs := [], outs := []
    chg := 16 * 128 * fNl s.nextWord * ajStep (rampOf o.ramp), flag := none }

/-- T_LANE of a command in a region (R155). -/
def State.jobLane (s : State) (j : MJob) (stamp : Option (BitVec 10)) : Option Trap :=
  if s.a.st.rgn.isSome then
    s.laneTrap ((j.groups (s.ring j.ring) s.a.div.mx (s.arrayS 2 stamp)).flatMap Group.req)
  else none

def trapsMwld (o : MwldOp) (s : State) : Option Trap :=
  firstTrap [s.stampIll o.stamp, s.mxClockTrap, s.wordTrap, s.stampLate o.stamp,
    trapIf (decide (s.unclaimed o.y < (mwldJob o s).rows)) tMiss (s.missInfo 4),
    s.stampBusy 2 s.a.mbusy o.stamp, s.jobLane (mwldJob o s) o.stamp]

/-- mwld loads weights by XOR; the weight shape is the word's from issue on (R258). -/
def execMwld (o : MwldOp) (s : State) : Res :=
  s.unless (trapsMwld o s)
    ((s.startJob (s.arrayS 2 o.stamp) (mwldJob o s)).updA fun a => { a with shape := some s.nextWord })

def emclrJob (_ : StOp) (s : State) : MJob :=
  { id := s.ev.seq, kind := .clr, start := 0, word := 0, base := 0, ring := 0, first := 0, rows := 0, ramp := 1, delays := []
    acts := [], accs := [], outs := [], chg := 0, flag := none }

def trapsEmclr (o : StOp) (s : State) : Option Trap :=
  firstTrap [s.stampIll o.stamp, s.stampLate o.stamp, s.stampBusy 2 s.a.mbusy o.stamp]

/-- emclr clears every weight and exponent at S + 9; the shape is none from issue on (R259). -/
def execEmclr (o : StOp) (s : State) : Res :=
  s.unless (trapsEmclr o s)
    ((s.startJob (s.arrayS 2 o.stamp) (emclrJob o s)).updA fun a => { a with shape := none })

/-- The bit-steps of a multiply-accumulate (R86). -/
def macSteps (w : Word) : Nat :=
  if fFloating w then 48 else if fRate w = 2 then 24 else if fRate w = 4 then 12 else 6

/-- The command that a product starts (R260, R261, R267). -/
def productJob (k : MKind) (o : ProdOp) (s : State) : MJob :=
  let w := s.nextWord
  { id := s.ev.seq, kind := k, start := 0, word := w, base := eaRow (s.rdS o.a), ring := o.x, first := s.claimFirst o.x
    rows := actRows w * fMl w, ramp := rampOf o.ramp, delays := [], acts := [], accs := [], outs := []
    chg := macSteps w * fKl w * fNl w * fMl w * ajStep (rampOf o.ramp), flag := none }

/-- The checks of a product command, in the order of R260. -/
def trapsProduct (k : MKind) (o : ProdOp) (s : State) : Option Trap :=
  let w := s.nextWord
  let j := productJob k o s
  firstTrap [s.stampIll o.stamp, s.mxClockTrap, s.wordTrap,
    trapIf (s.a.shape.map shapeOf != some (shapeOf w)) tIll (s.a.st.pos + 2 ^ 9),
    trapIf (if fFloating w then k == .macr || k == .masr else k == .fma) tIll (s.a.st.pos + 2 ^ 9),
    trapIf (eaRemote (s.rdS o.a)) tData 0x12,
    trapIf (decide (49152 < j.base + accRows w * fMl w)) tData 0x10,
    s.stampLate o.stamp, trapIf (decide (s.unclaimed o.x < j.rows)) tMiss (s.missInfo 3),
    s.stampBusy 2 s.a.mbusy o.stamp, s.jobLane j o.stamp]

/-- A product command starts (R260 to R264). -/
def product (k : MKind) (o : ProdOp) (s : State) : Res :=
  s.unless (trapsProduct k o s) (s.startJob (s.arrayS 2 o.stamp) (productJob k o s))

/-- mmacr (R261). -/
def execMmacr (o : ProdOp) (s : State) : Res := product .macr o s
/-- mmasr (R261). -/
def execMmasr (o : ProdOp) (s : State) : Res := product .masr o s
/-- emmul (R261). -/
def execEmmul (o : ProdOp) (s : State) : Res := product .mul o s
/-- emfma (R261). -/
def execEmfma (o : ProdOp) (s : State) : Res := product .fma o s

/-! ## The arithmetic of a tile (R206 to R208, R261) -/

/-- Element i of w bits of a string of bits. -/
def elemNat (w x i : Nat) : Nat := x / 2 ^ (w * i) % 2 ^ w

/-- An operand element of the exact group: its value under its shoal exponent, and the flag it raises (R198, R199, R208). -/
def operand (et : BitVec 4) (code : Nat) (q : Option Nat) : Val × Option Nat :=
  let v := valOf et code
  match q.map shoalExp with
  | some none => (.zero, none)
  | some (some e) =>
    if !v.isFinite then (.zero, some 0x31) else (v.scale e, if digitBad et code then some 0x30 else none)
  | none => if !v.isFinite then (.zero, some 0x31) else (v, if digitBad et code then some 0x30 else none)

/-- The lower of two flags. -/
def minFlag : Option Nat → Option Nat → Option Nat
  | some a, some b => some (min a b)
  | none, x => x
  | x, none => x

/-- f of R207 for one output element: the floored terms added up, and the flags raised. -/
def exactSum (w : Word) (acts ax wts wx : Nat) : Int × Option Nat :=
  (List.range (fKl w)).foldl (fun (r : Int × Option Nat) i =>
    let a := operand (fAT w) (elemNat (etWidth (fAT w)) acts i) (if fSA w = 1 then some (elemNat 8 ax (i / 64)) else none)
    let b := operand (fWT w) (elemNat (etWidth (fWT w)) wts i) (if fSW w = 1 then some (elemNat 8 wx (i / 64)) else none)
    (r.1 + floorScaled (fFB w) (a.1.mul b.1), minFlag r.2 (minFlag a.2 b.2))) (0, none)

/-- The bits that rounding the exact sum m · 2^e to FP32 destroys (R87). -/
def lostBits : Val → Nat
  | .fin _ m e =>
    if m = 0 then 0
    else
      let q := ulpExp 23 (fpQmin 6#4) m e
      let q := if roundTo m e q = 2 ^ 24 then q + 1 else q
      if q ≤ e then 0 else popNat 24 (m % 2 ^ (q - e).toNat * 2 ^ 24 / 2 ^ (q - e).toNat)
  | _ => 0

/-- The FP32 accumulation of one output element, and the bits that its roundings destroy (R87, R206). -/
def floatSum (w : Word) (acts wts acc0 : Nat) : Nat × Nat :=
  (List.range (fKl w)).foldl (fun (r : Nat × Nat) i =>
    let x := (valOf 6#4 r.1).add
      ((valOf (fAT w) (elemNat 16 acts i)).mul (valOf (fWT w) (elemNat 16 wts i)))
    (conv x 6#4, r.2 + lostBits x)) (acc0, 0)

/-- The row of accumulator elements from column c0 on: new values for the active columns, and for the others the values
read, or 0 (R261). -/
def accRow (w : Word) (old : Row) (c0 : Nat) (keep : Bool) (f : Nat → Nat → Nat) : Row :=
  let width := etWidth (fCT w)
  rowOf width fun e =>
    if c0 + e < fNl w then f (c0 + e) (elem width old e) else if keep then elem width old e else 0

/-- The rows read for vector m, in order. -/
def rowsFor (m : Nat) (l : List (Nat × Row)) : List Row := (l.filter fun r => r.1 == m).map fun r => r.2

/-- Rows as one string of bits, the first lowest (R257). -/
def joinRows : List Row → Nat
  | [] => 0
  | r :: l => r.toNat + 2 ^ 1024 * joinRows l

/-- The outcome of vector m under the weights as they stand now: its accumulator rows, the bits that rounding destroys
and the flag (R206, R207, R261). -/
def vectorOut (a : Atoll) (j : MJob) (m : Nat) : List Row × Nat × Option Nat :=
  let w := j.word
  let act := rowsFor m j.acts
  let n := actRows w - fSA w
  let acts := joinRows (act.take n)
  let ax := joinRows (act.drop n)
  let old := rowsFor m j.accs
  let olds := fun c => elem (etWidth (fCT w)) (old.getD (c / accPer w) 0) (c % accPer w)
  let res := (List.range (fNl w)).map fun c =>
    let wts := (SMap.get a.weights c).toNat
    if fFloating w then
      let r := floatSum w acts wts (if j.kind = .fma then olds c else 0)
      (r.1, r.2, none)
    else
      let r := exactSum w acts ax wts (SMap.get a.exps c).toNat
      let v := wrapTo 64 (match j.kind with
        | .macr => olds c + r.1
        | .masr => olds c - r.1
        | _ => r.1)
      (v, 0, r.2)
  ((List.range (accRows w)).map fun i =>
      accRow w (old.getD i 0) (i * accPer w) j.accum fun c _ => (res.getD c (0, 0, none)).1,
   res.foldl (fun n r => n + r.2.1) 0, res.foldl (fun f r => minFlag f r.2.2) none)

/-! ## The steps of the array (R264, R265) -/

/-- The command of number id. -/
def Atoll.mjob (a : Atoll) (id : Nat) : Option MJob := a.mjobs.find? fun j => j.id == id

/-- Changes the command of number id. -/
def State.updJob (s : State) (id : Nat) (f : MJob → MJob) : State :=
  s.updA fun a => { a with mjobs := a.mjobs.map fun j => if j.id = id then f j else j }

/-- The hops of rows to or from MX. -/
def mxHops (rows : List Nat) : Nat := rows.foldl (fun n r => n + hops (stationPos (station r)) posMX) 0

/-- The charge of rows moved to or from MX (R267). -/
def mxRowCharge (rows : List Nat) : Nat := ajRow * rows.length + ajHop * mxHops rows

/-- Rows of a vector, or of a weight column, are read at their stations (R264). -/
def execMatrixActivationRead (s : State) : Res :=
  match s.ev.arg with
  | .n3 id m half =>
    match s.a.mjob id with
    | some j =>
      let wld := j.kind == .wld
      let rows := if wld then j.colRowsAt (s.ring j.ring) m else j.actRowsAt (s.ring j.ring) m half
      if s.rowsHeld rows false then .next (s.jobWait id (if wld then j.kCol m else j.kAct m half))
      else
        let s1 := s.updJob id fun j =>
          { j with acts := j.acts ++ rows.map fun r => (m, s.a.sp.row r), chg := j.chg + mxRowCharge rows }
        .next (if wld then
            (if m + 1 < fNl j.word then s1.jobNext j (j.kCol m) (j.kCol (m + 1)) 0 .matrixActivationRead (m + 1) 0 else s1)
          else if half + 1 < j.ca then
            s1.jobNext j (j.kAct m half) (j.kAct m (half + 1)) 0 .matrixActivationRead m (half + 1)
          else if m + 1 < j.ml then
            s1.jobNext j (j.kAct m half) (j.kAct (m + 1) 0) 0 .matrixActivationRead (m + 1) 0
          else s1)
    | none => .next s
  | _ => .next s

/-- The accumulator rows of a vector are read (R264). -/
def execMatrixAccumulatorRead (s : State) : Res :=
  match s.ev.arg with
  | .n3 id m _ =>
    match s.a.mjob id with
    | some j =>
      let rows := j.accRowsAt m
      if s.rowsHeld rows false then .next (s.jobWait id (j.kAcc m))
      else
        let s1 := s.updJob id fun j =>
          { j with accs := j.accs ++ rows.map fun r => (m, s.a.sp.row r), chg := j.chg + mxRowCharge rows }
        .next (if m + 1 < j.ml then s1.jobNext j (j.kAcc m) (j.kAcc (m + 1)) 0 .matrixAccumulatorRead (m + 1) 0 else s1)
    | none => .next s
  | _ => .next s

/-- A vector takes the weights as they stand, and its outputs follow from them (R206, R207, R264). -/
def execMatrixWeightCapture (s : State) : Res :=
  match s.ev.arg with
  | .n3 id m _ =>
    match s.a.mjob id with
    | some j =>
      let r := vectorOut s.a j m
      let s1 := s.updJob id fun j =>
        { j with outs := j.outs ++ [(m, r.1)], chg := j.chg + ajErase * r.2.1
                 flag := firstFlag s.a.div.core j.flag (r.2.2.map fun c => (s.now, c))
                 acts := j.acts.filter fun x => x.1 != m, accs := j.accs.filter fun x => x.1 != m }
      .next (if m + 1 < j.ml then s1.jobNext j (j.kCap m) (j.kCap (m + 1)) 0 .matrixWeightCapture (m + 1) 0 else s1)
    | none => .next s
  | _ => .next s

/-- A column's cells change under mwld, or every cell under emclr (R258, R259, R264). -/
def execWeightLoadChange (s : State) : Res :=
  match s.ev.arg with
  | .n3 id c _ =>
    match s.a.mjob id with
    | some j =>
      if j.kind = .clr then
        let n := s.a.weights.foldl (fun n x => n + pop x.2) 0 + s.a.exps.foldl (fun n x => n + pop x.2) 0
        .next ((s.updA fun a => { a with weights := [], exps := [] }).updJob id fun j => { j with chg := j.chg + ajErase * n })
      else
        let rows := rowsFor c j.acts
        let w := BitVec.ofNat 2048 (joinRows (rows.take 2))
        let x := BitVec.ofNat 128 (joinRows (rows.drop 2))
        let s1 := s.updA fun a => { a with weights := SMap.set a.weights c (SMap.get a.weights c ^^^ w)
                                           exps := SMap.set a.exps c (SMap.get a.exps c ^^^ x) }
        let s2 := s1.updJob id fun j => { j with acts := j.acts.filter fun r => r.1 != c }
        .next (if c + 1 < fNl j.word then s2.jobNext j (j.kChange c) (j.kChange (c + 1)) 1 .weightLoadChange (c + 1) 0 else s2)
    | none => .next s
  | _ => .next s

/-- The accumulator rows of a vector are written; an overwriting product erases their old bits (R264, R267). -/
def execMatrixWriteback (s : State) : Res :=
  match s.ev.arg with
  | .n3 id m _ =>
    match s.a.mjob id with
    | some j =>
      let rows := j.accRowsAt m
      if s.rowsHeld rows true then .next (s.jobWait id (j.kWrite m))
      else
        let out := match j.outs.find? fun x => x.1 == m with
          | some x => x.2
          | none => []
        let old := if j.kind = .mul then rows.foldl (fun n r => n + pop (s.a.sp.row r)) 0 else 0
        let s1 := (rows.zip out).foldl (fun (s : State) x => s.spSetRow x.1 x.2) s
        let s2 := s1.updJob id fun j =>
          { j with outs := j.outs.filter fun x => x.1 != m, chg := j.chg + mxRowCharge rows + ajErase * old }
        .next (if m + 1 < j.ml then s2.jobNext j (j.kWrite m) (j.kWrite (m + 1)) 1 .matrixWriteback (m + 1) 0 else s2)
    | none => .next s
  | _ => .next s

/-- A command retires: its claim and its word are given up, its charges applied, its flag set (R88, R196, R251, R252, R265). -/
def execMatrixRetire (s : State) : Res :=
  match s.ev.arg with
  | .n3 id _ _ =>
    match s.a.mjob id with
    | some j =>
      let s1 := s.updA fun a => { a with mjobs := a.mjobs.filter fun j => j.id != id
                                         fq := a.fq.filter fun e => e.1 != some id }
      .next (((if j.rows = 0 then s1 else s1.release j.ring j.rows).charge j.chg).flagAt j.flag)
    | none => .next s
  | _ => .next s

end Sys2Proof.Machine
end

