-- ==== Sys2Proof/Machine/Rotator.lean ====
section
/-! DEFINITION. The rotator array (R272 to R294): pair arithmetic, streaming and quiet commands, and the steps that
carry them out. -/

namespace Sys2Proof.Machine

/-! ## Pair arithmetic (R275 to R277) -/

/-- A pair of cell values, and whether a wr48 has changed its argument. -/
structure Pair where
  a : Int
  b : Int
  ov : Bool
deriving DecidableEq, Repr

/-- x modulo 2^48, read as two's complement (R275). -/
def wr48 (x : Int) : Int := (x + (2 ^ 47 : Nat)) % (2 ^ 48 : Nat) - (2 ^ 47 : Nat)

/-- The pair with values through wr48 (R275). -/
def Pair.put (p : Pair) (a b : Int) : Pair := ⟨wr48 a, wr48 b, p.ov || wr48 a != a || wr48 b != b⟩

/-- pre of R276. -/
def Pair.pre (q : Nat) (p : Pair) : Pair :=
  match q with
  | 0 => p
  | 1 => p.put p.b (-p.a)
  | 2 => p.put (-p.a) (-p.b)
  | _ => p.put (-p.b) p.a

/-- floor(x · 2^−k) (R200). -/
def floorShift (x : Int) (k : Nat) : Int := x / (2 ^ k : Nat)

/-- The number of terms of sig (R276). -/
def sigTerms (cm k : Nat) : Nat :=
  let n := (48 / k + 1) / 2
  if cm = 1 then min 2 n else if cm = 2 then min 1 n else n

/-- sig of R276: each term is floored on its own. -/
def sigSum (a : Int) (k : Nat) : Nat → Int
  | 0 => 0
  | j + 1 => sigSum a k j + (if j % 2 = 0 then floorShift a ((2 * j + 1) * k - 1) else -floorShift a ((2 * j + 1) * k - 1))

/-- micro of R276 for d = 1, or d = −1; unmicro is its inverse. -/
def Pair.micro (cm k : Nat) (d : Int) (p : Pair) : Pair :=
  let p := p.put (p.a + d * floorShift p.b k) p.b
  let p := p.put p.a (p.b - d * sigSum p.a k (sigTerms cm k))
  p.put (p.a + d * floorShift p.b k) p.b

def Pair.unmicro (cm k : Nat) (d : Int) (p : Pair) : Pair :=
  let p := p.put (p.a - d * floorShift p.b k) p.b
  let p := p.put p.a (p.b + d * sigSum p.a k (sigTerms cm k))
  p.put (p.a - d * floorShift p.b k) p.b

/-- d_k of an angle's D field (R278). -/
def turn (dw k : Nat) : Int := if dw / 2 ^ (k - 1) % 2 = 1 then -1 else 1

/-- rot of R276: the prerotation and the micro-rotations 1 to n. -/
def Pair.rot (n cm q dw : Nat) (p : Pair) : Pair :=
  (List.range n).foldl (fun (p : Pair) k => p.micro cm (k + 1) (turn dw (k + 1))) (p.pre q)

/-- unrot of R276: the micro-rotations n to 1 undone, then the prerotation. -/
def Pair.unrot (n cm q dw : Nat) (p : Pair) : Pair :=
  ((List.range n).foldr (fun k (p : Pair) => p.unmicro cm (k + 1) (turn dw (k + 1))) p).pre ((4 - q) % 4)

/-- The prerotation that vec chooses (R277). -/
def vecQ (a b : Int) : Nat :=
  if b.natAbs ≤ a then 0 else if (a.natAbs : Int) ≤ b then 1 else if (b.natAbs : Int) ≤ -a then 2 else 3

/-- vec of R277: q, D and the pair it leaves. -/
def Pair.vec (n cm : Nat) (p : Pair) : Nat × Nat × Pair :=
  let q := vecQ p.a p.b
  let r := (List.range n).foldl (fun (r : Nat × Pair) k =>
    if 0 ≤ r.2.b then (r.1, r.2.micro cm (k + 1) 1) else (r.1 + 2 ^ k, r.2.micro cm (k + 1) (-1))) (0, p.pre q)
  (q, r.1, r.2)

/-! ## Blocks (R278, R281 to R283) -/

def rtmN (r : Word) : Nat := fld r 0 5
def rtmGS (r : Word) : Nat := fld r 5 4
def rtmCM (r : Word) : Nat := fld r 9 2

/-- The value of cell T(i, j) (R273). -/
def cellAt (c : SMap 48) (i j : Nat) : Int := (SMap.get c (32 * i + j)).toInt

/-- An angle word (R278). -/
def angleWord (res : Int) (q dw : Nat) : Nat := wrapTo 38 res * 2 ^ 26 + q * 2 ^ 24 + dw

def angleQ (w : Nat) : Nat := w / 2 ^ 24 % 4
def angleD (w : Nat) : Nat := w % 2 ^ 24
def angleRes (w : Nat) : Int := signedOf 38 (w / 2 ^ 26 % 2 ^ 38)

/-- Word i of some rows of 64-bit words. -/
def rowWord (l : List Row) (i : Nat) : Nat := elem 64 (l.getD (i / 16) 0) (i % 16)

/-- n rows of 64-bit words. -/
def wordRows (n : Nat) (f : Nat → Nat) : List Row := (List.range n).map fun r => rowOf 64 fun j => f (16 * r + j)

/-- The row of a data row's elements lo to lo + n − 1, entered with the input gain (R275). -/
def enterRow (x : Row) (gs lo n : Nat) : List Int :=
  (List.range 32).map fun j =>
    if lo ≤ j ∧ j < lo + n then wr48 (signedOf 32 (elem 32 x j) * (2 ^ gs : Nat)) else 0

/-- The rows that a block deposits, from the row that has run through the cells and its angle words (R278, R281 to R283). -/
def blockRows (j : RJob) (b : RBlk) : List Row :=
  match j.kind with
  | .qr => wordRows ((j.p + 15) / 16) fun i => b.ang.getD i 0
  | .apl => wordRows 2 fun k => if j.p ≤ k ∧ k < j.p + j.c then wrapTo 64 (b.z.getD k 0) else 0
  | _ =>
    let lo := if j.kind = .invApl then j.p else 0
    let n := if j.kind = .invApl then j.c else j.p
    [rowOf 32 fun k => if lo ≤ k ∧ k < lo + n then wrapTo 32 (floorShift (b.z.getD k 0) (rtmGS j.rtm)) else 0]

/-! ## Claims, offsets and accesses (R280, R289 to R291) -/

/-- The directions of streaming commands: rtqr and rtapl in one, rtinv in the other (R288). -/
def RKind.forward : RKind → Bool
  | .qr | .apl => true
  | _ => false

def RKind.streams : RKind → Bool
  | .qr | .apl | .invQr | .invApl => true
  | _ => false

/-- A: the angle rows of a block (R278). -/
def RJob.aRows (j : RJob) : Nat := (j.p + 15) / 16

/-- Rows of ring x read in a block. -/
def RJob.nx (j : RJob) : Nat :=
  match j.kind with
  | .qr | .apl => 1
  | .invApl => 2
  | _ => 0

/-- The block that is processed as the k-th (R283). -/
def RJob.block (j : RJob) (k : Nat) : Nat := if j.kind.forward then k else j.m - 1 - k

def RJob.l (j : RJob) : Nat := rtmN j.rtm + 1

/-- The occupancy of a streaming command (R289). -/
def RJob.occ (j : RJob) : Nat := j.ramp * j.l * j.m

def RJob.kF (j : RJob) (k : Nat) : Nat := 1 + j.ramp * j.l * k

/-- C of R289: 0 for rtqr and for mode 0. -/
def RJob.cCols (j : RJob) : Nat :=
  match j.kind with
  | .apl | .invApl => j.c
  | _ => 0

def RJob.kW (j : RJob) (k : Nat) : Nat := j.kF k + 9 + j.ramp * ((rtmN j.rtm + 2) * j.p + j.cCols) + 8

/-- The offset of retirement (R289, R290). -/
def RJob.kRetire (j : RJob) : Nat :=
  match j.kind with
  | .qr | .apl => j.kW (j.m - 1)
  | .invQr | .invApl => j.kW (j.m - 1) + 1
  | .rd | .wr => 8 + j.c
  | .solve => j.ramp * 50 * j.p + 8
  | _ => 1

def RJob.xRowsAt (j : RJob) (a : Atoll) (k : Nat) : List Nat :=
  (List.range j.nx).map fun i => ringRow (a.rings[j.xring.toNat]'(j.xring.isLt)) (j.xfirst + j.nx * j.block k + i)

def RJob.yRowsAt (j : RJob) (a : Atoll) (k : Nat) : List Nat :=
  (List.range j.aRows).map fun i => ringRow (a.rings[j.yring.toNat]'(j.yring.isLt)) (j.yfirst + j.aRows * j.block k + i)

/-- The rows that the k-th block is written to. -/
def RJob.outRowsAt (j : RJob) (a : Atoll) (k : Nat) : List Nat :=
  match j.kind with
  | .qr => j.yRowsAt a k
  | .apl => [j.base + 2 * k, j.base + 2 * k + 1]
  | .invQr | .invApl => [j.base + j.block k]
  | .solve => [j.base, j.base + 1]
  | _ => [j.base + 2 * k, j.base + 2 * k + 1]

/-- The rows that rtinv clears after the k-th block (R283). -/
def RJob.clearRowsAt (j : RJob) (a : Atoll) (k : Nat) : List Nat :=
  match j.kind with
  | .invQr => j.yRowsAt a k
  | .invApl => j.xRowsAt a k
  | _ => []

/-- Every access of a command that starts at tick S (R289 to R291). -/
def RJob.groups (j : RJob) (a : Atoll) (start : Nat) : List Group :=
  let cyc := a.div.ring
  let rd := fun k rows => (⟨k, rows.flatMap fun r => readReq cyc posRT r (start + k * cyc)⟩ : Group)
  let wr := fun k rows => (⟨k, rows.flatMap fun r => writeReq cyc posRT r (start + k * cyc)⟩ : Group)
  match j.kind with
  | .qr | .apl | .invQr | .invApl =>
    let reads := (List.range j.m).flatMap fun k =>
      (if j.nx = 0 then [] else [rd (j.kF k) (j.xRowsAt a k)]) ++
        (if j.kind = .qr then [] else [rd (j.kF k + 1) (j.yRowsAt a k)])
    let writes := (List.range j.m).flatMap fun k =>
      [wr (j.kW k) (j.outRowsAt a k)] ++ (if j.kind.forward then [] else [wr (j.kW k + 1) (j.clearRowsAt a k)])
    mergeGroups (reads.length + writes.length) reads writes
  | .solve => [wr j.kRetire (j.outRowsAt a 0)]
  | .rd => (List.range j.c).map fun k => wr (9 + k) (j.outRowsAt a k)
  | .wr => (List.range j.c).map fun k => rd (1 + k) (j.outRowsAt a k)
  | _ => []

/-! ## Start of a command (R288) -/

/-- The tick at which command `id` retires. -/
def State.retireTick (s : State) (id : Nat) : Nat :=
  lastTick (s.agenda.filter fun e => e.i == .rotatorRetire && e.atoll == s.a.n &&
    (match e.arg with
     | .n3 i _ _ => i == id
     | _ => false))

/-- The tick from which the array is free for a command of kind k (R288). -/
def State.rtFree (s : State) (k : RKind) : Nat :=
  s.a.rjobs.foldl (fun m j =>
    if k.streams && j.kind.streams && (k.forward == j.kind.forward) then m else max m (s.retireTick j.id))
    (if k.streams then s.a.rbusy else 0)

def State.rtStep (s : State) (start k : Nat) (j : RJob) (phase : Nat) (i : Instr) (x y : Nat) : State :=
  s.sched (start + (k + delayAt j.delays k) * s.a.div.rt) phase .rt i (.n3 j.id x y)

/-- The next step of a command, from offset k to offset k'. -/
def State.rtNext (s : State) (j : RJob) (k k' phase : Nat) (i : Instr) (x y : Nat) : State :=
  s.sched (s.now + (k' - k + (delayAt j.delays k' - delayAt j.delays k)) * s.a.div.rt) phase .rt i (.n3 j.id x y)

/-- A command starts at S: its lanes and ports are reserved and its first steps scheduled (R280, R289, R290). -/
def State.startRt (s : State) (start : Nat) (j : RJob) : State :=
  let g := j.groups s.a start
  let j := { j with delays := s.groupDelays g, start := start }
  let s := (s.reserveGroups g j.delays).updA fun a =>
    { a with rjobs := a.rjobs ++ [j]
             rbusy := if j.kind.streams then start + (j.occ + delayBefore j.delays j.occ) * a.div.rt else a.rbusy }
  let s := s.rtStep start j.kRetire j 3 .rotatorRetire 0 0
  match j.kind with
  | .qr | .apl | .invApl => (s.rtStep start (j.kF 0) j 0 .rotatorRowRead 0 0).rtStep start (j.kW 0) j 1 .rotatorRowWrite 0 0
  | .invQr => (s.rtStep start (j.kF 0 + 1) j 0 .rotatorRowRead 0 1).rtStep start (j.kW 0) j 1 .rotatorRowWrite 0 0
  | .solve => (s.rtStep start 0 j 0 .rotatorQuietEvent 0 0).rtStep start j.kRetire j 1 .rotatorQuietEvent 0 1
  | .rd => s.rtStep start 9 j 1 .rotatorQuietEvent 0 1
  | .wr => (s.rtStep start 1 j 0 .rotatorQuietEvent 0 0).rtStep start 9 j 1 .rotatorQuietEvent 0 1
  | .gainSet | .clr => s.rtStep start 1 j 1 .rotatorQuietEvent 0 1
  | .gainRead => s

/-- T_DATA 0x41: the rotator and ring divisors differ (R288). -/
def State.rtClockTrap (s : State) : Option Trap := trapIf (s.a.div.rt != s.a.div.ring) tData 0x41

/-- The base address of a block of n rows (R279). -/
def baseTrap (ea : Word) (n : Nat) : Option Trap :=
  firstTrap [trapIf (eaRemote ea) tData 0x12, trapIf (decide (49152 < eaRow ea + n)) tData 0x10]

/-- m outside 1 to 4,096 (R279). -/
def mTrap (m : Word) : Option Trap := trapIf (m == 0 || decide (4096 < m.toNat)) tData 0x44

/-- The T_MISS reasons 0x3 and 0x4 of claims (R280). -/
def State.claimTrap (s : State) (x : Ring) (n reason also : Nat) : Option Trap :=
  trapIf (decide (s.unclaimed x < n + also)) tMiss (s.missInfo reason)

/-- The checks that come last: T_LANE in a region, after the start at S (R155, R288). -/
def State.rtStartTrap (s : State) (j : RJob) (stamp : Option (BitVec 10)) : Option Trap :=
  firstTrap [s.stampBusy 3 (s.rtFree j.kind) stamp,
    if s.a.st.rgn.isSome then s.laneTrap ((j.groups s.a (s.arrayS 3 stamp)).flatMap Group.req) else none]

/-- RTM as a command that issues now finds it at its start: that of the last rtgain in flight, behind which it starts (R288). -/
def Atoll.rtmNext (a : Atoll) : Word := ((a.rjobs.filter fun j => j.kind == .gainSet).getLast?.map fun j => j.rtm).getD a.rtm

/-- A command with no claims and no rows, to be filled in. -/
def rtJob (k : RKind) (s : State) : RJob :=
  { id := s.ev.seq, kind := k, start := 0, p := 0, c := 0, m := 0, base := 0, i0 := 0, xring := 0, xfirst := 0, xrows := 0, yring := 0
    yfirst := 0, yrows := 0, rtm := s.a.rtmNext, ramp := 1, delays := [], got := [], blks := [], outs := [], chg := 0, flag := none }

/-- The bit-steps of a streaming command (R292). -/
def RJob.steps (j : RJob) : Nat :=
  match j.kind with
  | .qr | .invQr => j.m * rtmN j.rtm * (96 * j.p + 64 * (j.p * (j.p - 1) / 2))
  | .apl | .invApl => j.m * rtmN j.rtm * 64 * j.p * j.c
  | .solve => 48 * (96 * j.p + 64 * (j.p * (j.p - 1) / 2))
  | _ => 0

def RJob.charged (j : RJob) : RJob := { j with chg := j.steps * ajStep j.ramp }

/-! ## The instructions -/

def rtqrJob (o : RtqrOp) (s : State) : RJob :=
  let p := o.p.toNat + 1
  let m := (s.rdS o.b).toNat
  ({ rtJob .qr s with
     p := p, m := m, ramp := rampOf o.ramp, xring := o.x, xfirst := s.claimFirst o.x, xrows := m, yring := o.y
     yfirst := rHead (s.ring o.y) + rCnt (s.ring o.y) + s.a.writeClaimed o.y, yrows := (p + 15) / 16 * m } : RJob).charged

def trapsRtqr (o : RtqrOp) (s : State) : Option Trap :=
  let j := rtqrJob o s
  firstTrap [s.stampIll o.stamp, s.rtClockTrap, mTrap (s.rdS o.b), s.stampLate o.stamp, s.claimTrap o.x j.xrows 3 0,
    trapIf (decide (rSize (s.ring o.y) < rCnt (s.ring o.y) + s.a.writeClaimed o.y + j.yrows)) tMiss (s.missInfo 6),
    s.rtStartTrap j o.stamp]

/-- rtqr rotates m data rows into the triangle and records the angles (R281). -/
def execRtqr (o : RtqrOp) (s : State) : Res :=
  s.unless (trapsRtqr o s) (s.startRt (s.arrayS 3 o.stamp) (rtqrJob o s))

/-- A command that reads ring x and then ring y: the y rows follow the x rows when the rings are the same (R280). -/
def rtaplJob (k : RKind) (o : RtaplOp) (s : State) : RJob :=
  let p := o.p.toNat + 1
  let m := (s.rdS o.b).toNat
  let nx := if k = .invApl then 2 * m else m
  ({ rtJob k s with
     p := p, c := o.c.toNat + 1, m := m, base := eaRow (s.rdS o.a), ramp := rampOf o.ramp, xring := o.x
     xfirst := s.claimFirst o.x, xrows := nx, yring := o.y
     yfirst := s.claimFirst o.y + (if o.x = o.y then nx else 0), yrows := (p + 15) / 16 * m } : RJob).charged

/-- The checks of rtapl and of rtinv in mode 1; `n` rows of destination a block (R279, R280). -/
def trapsRtaplOf (k : RKind) (n : Nat) (o : RtaplOp) (s : State) : Option Trap :=
  let j := rtaplJob k o s
  firstTrap [s.stampIll o.stamp, s.rtClockTrap, mTrap (s.rdS o.b), baseTrap (s.rdS o.a) (n * j.m), s.stampLate o.stamp,
    s.claimTrap o.x j.xrows 3 0, s.claimTrap o.y j.yrows 4 (if o.x = o.y then j.xrows else 0), s.rtStartTrap j o.stamp]

def trapsRtapl (o : RtaplOp) (s : State) : Option Trap := trapsRtaplOf .apl 2 o s

/-- rtapl applies recorded angles to further columns (R282). -/
def execRtapl (o : RtaplOp) (s : State) : Res :=
  s.unless (trapsRtapl o s) (s.startRt (s.arrayS 3 o.stamp) (rtaplJob .apl o s))

def trapsRtinvApl (o : RtaplOp) (s : State) : Option Trap := trapsRtaplOf .invApl 1 o s

/-- rtinv undoes an rtapl (R283). -/
def execRtinvApl (o : RtaplOp) (s : State) : Res :=
  s.unless (trapsRtinvApl o s) (s.startRt (s.arrayS 3 o.stamp) (rtaplJob .invApl o s))

def rtinvQrJob (o : RtinvQOp) (s : State) : RJob :=
  let p := o.p.toNat + 1
  let m := (s.rdS o.b).toNat
  ({ rtJob .invQr s with
     p := p, m := m, base := eaRow (s.rdS o.a), ramp := rampOf o.ramp, yring := o.y, yfirst := s.claimFirst o.y
     yrows := (p + 15) / 16 * m } : RJob).charged

def trapsRtinvQr (o : RtinvQOp) (s : State) : Option Trap :=
  let j := rtinvQrJob o s
  firstTrap [s.stampIll o.stamp, s.rtClockTrap, mTrap (s.rdS o.b), baseTrap (s.rdS o.a) j.m, s.stampLate o.stamp,
    s.claimTrap o.y j.yrows 4 0, s.rtStartTrap j o.stamp]

/-- rtinv undoes an rtqr (R283). -/
def execRtinvQr (o : RtinvQOp) (s : State) : Res :=
  s.unless (trapsRtinvQr o s) (s.startRt (s.arrayS 3 o.stamp) (rtinvQrJob o s))

/-- FB is carried in m. -/
def rtsolveJob (o : RtsolveOp) (s : State) : RJob :=
  ({ rtJob .solve s with
     p := o.n.toNat + 1, c := o.c.toNat, m := (s.rdS o.b).toNat, base := eaRow (s.rdS o.a), ramp := rampOf o.ramp } :
     RJob).charged

def trapsRtsolve (o : RtsolveOp) (s : State) : Option Trap :=
  firstTrap [s.stampIll o.stamp, s.rtClockTrap, trapIf (decide (47 < (s.rdS o.b).toNat)) tData 0x43,
    baseTrap (s.rdS o.a) 2, s.stampLate o.stamp, s.rtStartTrap (rtsolveJob o s) o.stamp]

/-- rtsolve back-solves the triangle (R285). -/
def execRtsolve (o : RtsolveOp) (s : State) : Res :=
  s.unless (trapsRtsolve o s) (s.startRt (s.arrayS 3 o.stamp) (rtsolveJob o s))

def rtrwJob (k : RKind) (o : RtrwOp) (s : State) : RJob :=
  { rtJob k s with i0 := o.i.toNat, c := o.c.toNat + 1, base := eaRow (s.rdS o.a) }

def trapsRtrw (k : RKind) (o : RtrwOp) (s : State) : Option Trap :=
  firstTrap [s.stampIll o.stamp, s.rtClockTrap, baseTrap (s.rdS o.a) (2 * (o.c.toNat + 1)), s.stampLate o.stamp,
    s.rtStartTrap (rtrwJob k o s) o.stamp]

def trapsRtrd (o : RtrwOp) (s : State) : Option Trap := trapsRtrw .rd o s

/-- rtrd deposits triangle rows (R286). -/
def execRtrd (o : RtrwOp) (s : State) : Res :=
  s.unless (trapsRtrd o s) (s.startRt (s.arrayS 3 o.stamp) (rtrwJob .rd o s))

def trapsRtwr (o : RtrwOp) (s : State) : Option Trap := trapsRtrw .wr o s

/-- rtwr takes triangle rows by XOR (R286). -/
def execRtwr (o : RtrwOp) (s : State) : Res :=
  s.unless (trapsRtwr o s) (s.startRt (s.arrayS 3 o.stamp) (rtrwJob .wr o s))

/-- RTM of the fields of rtgain (R274). -/
def gainWord (o : RtgainOp) : Word := BitVec.ofNat 64 (o.n.toNat + o.gs.toNat * 2 ^ 5 + o.cm.toNat * 2 ^ 9)

/-- rtgain sets RTM at S + 1 (R286, R290). -/
def execRtgainSet (o : RtgainOp) (s : State) : Res :=
  .next (s.startRt (s.arrayS 3 none) { rtJob .gainSet s with rtm := gainWord o })

/-- rtgain reads RTM, at t+2 (R286, R290). -/
def execRtgainRead (o : FmtqOp) (s : State) : Res :=
  .next ((s.landIn 2 (.s o.a) s.a.rtm).startRt (s.arrayS 3 none) (rtJob .gainRead s))

def trapsErtclr (o : StOp) (s : State) : Option Trap :=
  firstTrap [s.stampIll o.stamp, s.rtClockTrap, s.stampLate o.stamp, s.rtStartTrap (rtJob .clr s) o.stamp]

/-- ertclr clears every cell at S + 1 (R286, R290). -/
def execErtclr (o : StOp) (s : State) : Res :=
  s.unless (trapsErtclr o s) (s.startRt (s.arrayS 3 o.stamp) (rtJob .clr s))

/-! ## The steps of the array -/

def Atoll.rjob (a : Atoll) (id : Nat) : Option RJob := a.rjobs.find? fun j => j.id == id

def State.updRt (s : State) (id : Nat) (f : RJob → RJob) : State :=
  s.updA fun a => { a with rjobs := a.rjobs.map fun j => if j.id = id then f j else j }

def rtHops (rows : List Nat) : Nat := rows.foldl (fun n r => n + hops (stationPos (station r)) posRT) 0

/-- The charge of rows moved to or from RT (R292). -/
def rtRowCharge (rows : List Nat) : Nat := ajRow * rows.length + ajHop * rtHops rows

/-- A visit of block k of command `id` to cell T(i, col), and its tick (R289). -/
structure Visit where
  tick : Nat
  id : Nat
  k : Nat
  i : Nat
  col : Nat
deriving DecidableEq, Repr

def insertVisit (v : Visit) : List Visit → List Visit
  | [] => [v]
  | y :: r => if y.tick ≤ v.tick then y :: insertVisit v r else v :: y :: r

/-- The columns of row i that a command turns: its boundary cell and those right of it, or the further columns (R281 to R283). -/
def RJob.colsOf (j : RJob) (i : Nat) : List Nat :=
  match j.kind with
  | .qr | .invQr => (List.range (j.p - i)).map fun t => i + t
  | _ => (List.range j.c).map fun t => j.p + t

/-- The visits of the k-th block with their offsets from S: level by level, from the bottom for rtinv (R289). -/
def RJob.visitsOf (j : RJob) (k : Nat) : List (Nat × Nat × Nat) :=
  (List.range j.p).flatMap fun n =>
    let i := if j.kind.forward then n else j.p - 1 - n
    (j.colsOf i).map fun c => (j.kF k + 9 + j.ramp * ((rtmN j.rtm + 2) * n + (max c i - min c i)), i, c)

/-- The visits of a command's blocks that are due and not yet made. -/
def RJob.due (j : RJob) (rt now : Nat) : List Visit :=
  j.blks.flatMap fun b => (j.visitsOf b.k).filterMap fun v =>
    let t := (j.start + ((v.1 + delayAt j.delays v.1) * rt : Nat)).toNat
    if t ≤ now ∧ !b.seen.contains v.2 then some ⟨t, j.id, b.k, v.2.1, v.2.2⟩ else none

/-- The flag of a pair operation (R287). -/
def Pair.flag (q : Pair) : Option Nat := if q.ov then some 0x34 else none

/-- A residual that RES cannot hold (R287). -/
def longRes (res : Int) : Bool := decide (res < -(2 ^ 37 : Nat)) || decide (((2 ^ 37 : Nat) : Int) ≤ res)

/-- One visit of a block to a cell: the cell, the row and the angle word after it, and the flag it raises (R281 to R283, R287). -/
def RJob.visit (j : RJob) (v : Visit) (c : SMap 48) (b : RBlk) : SMap 48 × RBlk × Option Nat :=
  let n := rtmN j.rtm
  let cm := rtmCM j.rtm
  let w := b.ang.getD v.i 0
  let p : Pair := ⟨cellAt c v.i v.col, b.z.getD v.col 0, false⟩
  let put := fun (q : Pair) (ang : List Nat) (f : Option Nat) =>
    (SMap.set c (32 * v.i + v.col) (BitVec.ofInt 48 q.a),
      ({ b with z := b.z.set v.col q.b, ang := ang, seen := b.seen ++ [(v.i, v.col)] } : RBlk), f)
  match j.kind, v.col == v.i with
  | .qr, true =>
    let r := p.vec n cm
    put r.2.2 (b.ang.set v.i (angleWord r.2.2.b r.1 r.2.1)) (if r.2.2.ov then some 0x34 else if longRes r.2.2.b then some 0x35 else none)
  | .qr, false | .apl, _ =>
    let q := p.rot n cm (angleQ w) (angleD w)
    put q b.ang q.flag
  | .invQr, true =>
    let q := Pair.unrot n cm (angleQ w) (angleD w) ⟨cellAt c v.i v.col, angleRes w, false⟩
    put q b.ang q.flag
  | _, _ =>
    let q := p.unrot n cm (angleQ w) (angleD w)
    put q b.ang q.flag

/-- One visit is made. -/
def Atoll.visit (a : Atoll) (v : Visit) : Atoll :=
  match a.rjob v.id with
  | some j =>
    match j.blks.find? fun b => b.k == v.k with
    | some b =>
      let r := j.visit v a.cells b
      { a with cells := r.1
               rjobs := a.rjobs.map fun x => if x.id = v.id then
                   { x with blks := x.blks.map fun y => if y.k = v.k then r.2.1 else y
                            flag := firstFlag a.div.core x.flag (r.2.2.map fun c => (v.tick, c)) }
                 else x }
    | none => a
  | none => a

/-- The blocks of the commands in flight have gone as far as the present tick lets them: the visits that are due are made in the order of
their ticks, whichever command they are of (R289). -/
def Atoll.rotate (now : Nat) (a : Atoll) : Atoll :=
  ((a.rjobs.flatMap fun j => j.due a.div.rt now).foldl (fun l v => insertVisit v l) []).foldl Atoll.visit a

/-- A block whose rows have been read is to enter level 0; the key of a row read is 2k for ring x and 2k + 1 for ring y (R281 to
R283, R289). -/
def RJob.enter (j : RJob) (got : List (Nat × Row)) (k : Nat) : RBlk :=
  let xs := rowsFor (2 * k) got
  let ys := rowsFor (2 * k + 1) got
  let words := (List.range 32).map fun i => rowWord ys i
  let z := match j.kind with
    | .qr => enterRow (xs.getD 0 0) (rtmGS j.rtm) 0 j.p
    | .apl => enterRow (xs.getD 0 0) (rtmGS j.rtm) j.p j.c
    | .invQr => List.replicate 32 0
    | _ => (List.range 32).map fun k => if j.p ≤ k ∧ k < j.p + j.c then signedOf 48 (rowWord xs k % 2 ^ 48) else 0
  ⟨k, z, if j.kind = .qr then List.replicate 32 0 else words, []⟩

/-- Ring rows of a streaming block are read at their stations (R289). -/
def execRotatorRowRead (s : State) : Res :=
  match s.ev.arg with
  | .n3 id k part =>
    match s.a.rjob id with
    | some j =>
      let rows := if part = 0 then j.xRowsAt s.a k else j.yRowsAt s.a k
      if s.rowsHeld rows false then .next (s.jobWait id (j.kF k + part))
      else
        let got := j.got ++ rows.map fun r => (2 * k + part, s.a.sp.row r)
        let s1 := s.updRt id fun r => { r with got := got, chg := r.chg + rtRowCharge rows }
        let k0 := j.kF k + part
        if part = 0 ∧ j.kind ≠ .qr then .next (s1.rtNext j k0 (j.kF k + 1) 0 .rotatorRowRead k 1)
        else
          let s2 := s1.updRt id fun r => { r with blks := r.blks ++ [j.enter got k] }
          let next := if j.kind = .invQr then 1 else 0
          .next (if k + 1 < j.m then s2.rtNext j k0 (j.kF (k + 1) + next) 0 .rotatorRowRead (k + 1) next else s2)
    | none => .next s
  | _ => .next s

/-- The rows of a block are written by XOR, and rtinv clears the rows it has undone a cycle later (R283, R289). -/
def execRotatorRowWrite (s : State) : Res :=
  match s.ev.arg with
  | .n3 id k part =>
    match s.a.rjob id with
    | some j =>
      let rows := if part = 0 then j.outRowsAt s.a k else j.clearRowsAt s.a k
      let vals := if part = 0 then (match j.blks.find? fun b => b.k == k with
          | some b => blockRows j b
          | none => [])
        else rowsFor (if j.kind = .invQr then 2 * k + 1 else 2 * k) j.got
      if s.rowsHeld rows true then .next (s.jobWait id (j.kW k + part))
      else
        let s1 := (rows.zip vals).foldl (fun (s : State) x => s.spSetRow x.1 (s.a.sp.row x.1 ^^^ x.2)) s
        let s2 := s1.updRt id fun r =>
          { r with chg := r.chg + rtRowCharge rows, blks := if part = 0 then r.blks.filter fun b => b.k != k else r.blks }
        let k0 := j.kW k + part
        if part = 0 ∧ j.kind.forward = false then .next (s2.rtNext j k0 (j.kW k + 1) 1 .rotatorRowWrite k 1)
        else .next (if k + 1 < j.m then s2.rtNext j k0 (j.kW (k + 1)) 1 .rotatorRowWrite (k + 1) 0 else s2)
    | none => .next s
  | _ => .next s

/-- The first flag stands. -/
def keepFlag (old new : Option Nat) : Option Nat :=
  match old with
  | some f => some f
  | none => new

/-- num / den to the nearest integer, ties to even, for a nonzero den (R203, R285). -/
def divRound (num den : Int) : Int :=
  let q := num.natAbs / den.natAbs
  let r := num.natAbs % den.natAbs
  let n : Nat := if 2 * r < den.natAbs then q else if den.natAbs < 2 * r then q + 1 else q + q % 2
  if decide (num < 0) != decide (den < 0) then -(n : Int) else n

/-- The back-solve: z for rows i and above, and the flags raised (R285). -/
def backSolve (c : SMap 48) (n col fb : Nat) : List Int × Option Nat :=
  (List.range n).foldr (fun i (r : List Int × Option Nat) =>
    let num := cellAt c i col * (2 ^ fb : Nat) -
      (List.range (n - (i + 1))).foldl (fun (g : Int) t => g + cellAt c i (i + 1 + t) * r.1.getD t 0) 0
    let den := cellAt c i i
    if den = 0 then (0 :: r.1, keepFlag r.2 (some 0x36))
    else
      let z := divRound num den
      let y := sat z (-(2 ^ 63 : Nat)) ((2 ^ 63 - 1 : Nat) : Int)
      (y :: r.1, if z = y then r.2 else keepFlag r.2 (some 0x34))) ([], none)

/-- The cells of triangle row i as 64-bit elements (R286). -/
def triangleRows (c : SMap 48) (i : Nat) : List Row := wordRows 2 fun j => if j < i then 0 else wrapTo 64 (cellAt c i j)

/-- Triangle row i takes the low 48 bits of elements j ≥ i by XOR (R286). -/
def takeTriangle (c : SMap 48) (i : Nat) (rows : List Row) : SMap 48 :=
  (List.range (32 - i)).foldl (fun (c : SMap 48) t =>
    SMap.set c (32 * i + i + t) (SMap.get c (32 * i + i + t) ^^^ BitVec.ofNat 48 (rowWord rows (i + t)))) c

/-- A step of a quiet command (R285, R286, R290). -/
def execRotatorQuietEvent (s : State) : Res :=
  match s.ev.arg with
  | .n3 id k part =>
    match s.a.rjob id with
    | some j =>
      let rows := j.outRowsAt s.a k
      match j.kind with
      | .gainSet => .next (s.updA fun a => { a with rtm := j.rtm })
      | .clr =>
        let n := s.a.cells.foldl (fun n x => n + pop x.2) 0
        .next ((s.updA fun a => { a with cells := [] }).updRt id fun r => { r with chg := ajErase * n })
      | .solve =>
        if part = 0 then
          let z := backSolve s.a.cells j.p j.c j.m
          .next (s.updRt id fun r =>
            { r with outs := [(0, wordRows 2 fun i => wrapTo 64 (z.1.getD i 0))]
                     flag := firstFlag s.a.div.core r.flag (z.2.map fun c => (s.now, c)) })
        else if s.rowsHeld rows true then .next (s.jobWait id j.kRetire)
        else
          let vals := match j.outs with
            | x :: _ => x.2
            | [] => []
          .next (((rows.zip vals).foldl (fun (s : State) x => s.spSetRow x.1 (s.a.sp.row x.1 ^^^ x.2)) s).updRt id fun r =>
            { r with chg := r.chg + rtRowCharge rows })
      | .rd =>
        if s.rowsHeld rows true then .next (s.jobWait id (9 + k))
        else
          let vals := triangleRows s.a.cells (j.i0 + k)
          let s1 := ((rows.zip vals).foldl (fun (s : State) x => s.spSetRow x.1 (s.a.sp.row x.1 ^^^ x.2)) s).updRt id
            fun r => { r with chg := r.chg + rtRowCharge rows }
          .next (if k + 1 < j.c then s1.rtNext j (9 + k) (10 + k) 1 .rotatorQuietEvent (k + 1) 1 else s1)
      | .wr =>
        if part = 0 then
          if s.rowsHeld rows false then .next (s.jobWait id (1 + k))
          else
            let s1 := s.updRt id fun r =>
              { r with got := r.got ++ rows.map fun x => (k, s.a.sp.row x), chg := r.chg + rtRowCharge rows }
            .next (if k + 1 < j.c then s1.rtNext j (1 + k) (2 + k) 0 .rotatorQuietEvent (k + 1) 0 else s1)
        else
          let s1 := s.updA fun a => { a with cells := takeTriangle a.cells (j.i0 + k) (rowsFor k j.got) }
          .next (if k + 1 < j.c then s1.rtNext j (9 + k) (10 + k) 1 .rotatorQuietEvent (k + 1) 1 else s1)
      | _ => .next s
    | none => .next s
  | _ => .next s

/-- A command retires: claims are given up, the angle rows of rtqr are published, the charges applied and the flag set
(R88, R196, R280, R289). -/
def execRotatorRetire (s : State) : Res :=
  match s.ev.arg with
  | .n3 id _ _ =>
    match s.a.rjob id with
    | some j =>
      let s1 := s.updA fun a => { a with rjobs := a.rjobs.filter fun j => j.id != id }
      let s2 := if j.xrows = 0 then s1 else s1.release j.xring j.xrows
      let r := s2.ring j.yring
      let s3 := if j.yrows = 0 then s2
        else if j.kind = .qr then (s2.setRing j.yring (ringWord (rBase r) (rSize r) (rHead r) (rCnt r + j.yrows))).freed j.yring
        else s2.release j.yring j.yrows
      .next ((s3.charge j.chg).flagAt j.flag)
    | none => .next s
  | _ => .next s

end Sys2Proof.Machine
end

