-- ==== Sys2Proof/Machine/Power.lean ====
section
/-! DEFINITION. Power and clocks of an atoll: idle gating, wake and gate, divisor changes, the meter read, lagoon holds and
the compute rail (R19, R20, R27, R91, R96 to R103). -/

namespace Sys2Proof.Machine

/-! ## Idle gating (R98 to R100); engine k is 0 VX, 1 MX, 2 RT, 3 CP -/

def Atoll.gateSt (a : Atoll) (k : Nat) : GateSt :=
  match k with
  | 0 => a.gvx
  | 1 => a.gmx
  | 2 => a.grt
  | _ => a.gcp

def Atoll.setGate (a : Atoll) (k : Nat) (g : GateSt) : Atoll :=
  match k with
  | 0 => { a with gvx := g }
  | 1 => { a with gmx := g }
  | 2 => { a with grt := g }
  | _ => { a with gcp := g }

/-- Changes the gating state of engine k. -/
def State.updGate (s : State) (k : Nat) (f : GateSt → GateSt) : State := s.updA fun a => a.setGate k (f (a.gateSt k))

/-- The wake latency of an engine in ticks (R99). -/
def wakeTicks (k : Nat) : Nat := if k = 1 then 1600 else 800

/-- 16 · c core cycles, c the idle count of engine k in IDLEMX; 0 when it never gates on its own (R98). -/
def State.idleLimit (s : State) (k : Nat) : Nat := 16 * fld s.a.st.idlemx (8 * k) 8

/-- The idle core cycles of an engine up to tick t, of which the last ran at the core divisor `div` (R98). -/
def GateSt.idle (g : GateSt) (div t : Nat) : Nat := g.cnt + (t - g.since) / div

/-- The idle count starts again at tick t. -/
def GateSt.restart (t : Nat) (g : GateSt) : GateSt := { g with since := t, cnt := 0 }

/-- The steps of engine k that are due. -/
def State.engineSteps (s : State) (k : Nat) : List Ev :=
  s.agenda.filter fun e => e.atoll == s.a.n &&
    match k with
    | 0 => e.dom == .vx
    | 1 => e.dom == .mx
    | 2 => e.dom == .rt
    | _ => false

/-- Engine k has an operation in progress, and the tick at which it is to be looked at again (R98). -/
def State.engineBusy (s : State) (k : Nat) : Option Nat :=
  let busy := match k with
    | 0 => s.a.vbusy
    | 1 => s.a.mbusy
    | 2 => s.a.rbusy
    | _ => 0
  let t := max busy (lastTick (s.engineSteps k))
  if k = 3 then (if s.a.cq = [] then none else some 0)
  else if s.now < busy ∨ s.engineSteps k ≠ [] then some (max t (s.now + 1)) else none

/-- Engine k gates when it is marked or its idle count has run out, and has no operation in progress; never in a region,
whose end makes it look again (R98, R100). -/
def execEngineGate (s : State) : Res :=
  match s.ev.arg with
  | .n k =>
    let g := s.a.gateSt k
    let c := s.idleLimit k
    if s.a.st.rgn.isSome ∨ g.g ≠ .awake then .next s
    else match s.engineBusy k with
      | some t =>
        let s1 := s.updGate k (GateSt.restart (max t s.now))
        .next (if k = 3 then s1 else s1.checkGate k t)
      | none =>
        if g.mark.isSome ∨ (c ≠ 0 ∧ c ≤ g.idle s.a.div.core s.now) then .next (s.updGate k fun g => ⟨.gated, g.since, 0, none⟩)
        else if c = 0 then .next s
        else .next (s.checkGate k (max (s.now + 1) (g.since + (c - g.cnt) * s.a.div.core)))
  | _ => .next s

/-- A wake has completed (R99); the idle count starts again. -/
def execEngineWakeDone (s : State) : Res :=
  match s.ev.arg with
  | .n k => .next ((s.updGate k fun g => ⟨.awake, s.now, 0, g.mark⟩).checkGate k s.now)
  | _ => .next s

/-- The wake of a gated engine starts; the idle count of an awake one starts again (R99, R100). -/
def State.wakeEngine (s : State) (k : Nat) : State :=
  match (s.a.gateSt k).g with
  | .gated =>
    let t := s.coreT 0 + wakeTicks k
    (s.updGate k fun g => ⟨.waking t, g.since, 0, g.mark⟩).sched t 3 .none .engineWakeDone (.n k)
  | .waking _ => s
  | .awake => (s.updGate k (GateSt.restart (s.coreT 0))).checkGate k (s.coreT 0)

/-- An operation is issued to engine k: its idle count starts again, and a mark made in the open region goes (R98, R100). -/
def State.useEngine (s : State) (k : Nat) : State :=
  (s.updGate k fun g =>
    ⟨g.g, max g.since s.now, 0, if s.a.st.rgn.isSome && g.mark == some true then none else g.mark⟩).checkGate k s.now

/-- The engines that a mask names (R100). -/
def engines (mask : BitVec 4) : List Nat := (List.range 4).filter fun k => mask.getLsbD k

/-- wake (R100). -/
def execWake (o : EngOp) (s : State) : Res := .next ((engines o.mask).foldl State.wakeEngine s)

/-- gate marks engines, which gate as soon as they have no operation in progress (R100). -/
def execGate (o : EngOp) (s : State) : Res :=
  .next ((engines o.mask).foldl (fun (s : State) k =>
    (s.updGate k fun g =>
      if g.g = .gated then g else { g with mark := some s.a.st.rgn.isSome }).checkGate k (s.coreT 0)) s)

/-! ## Divisors (R19, R20, R101 to R103) -/

/-- The smallest divisor for a rail voltage (R20). -/
def railFloor (mv : Nat) : Nat := if 580 ≤ mv then 2 else if 540 ≤ mv then 3 else if 500 ≤ mv then 4 else 6

/-- The clock whose edges a step of an atoll falls on; none for a step of no settable clock (R19). -/
def Ev.clk (e : Ev) : Option Nat :=
  match e.i with
  | .bundleFetch | .scalarResultLand | .xlatWalkDone | .rdmeterDrainDone | .idleTimeout | .awaitTimeout => some 0
  | .vldRowRead | .vstRowWrite | .scalarStationAccess | .scalarRowReturn | .arriveOutcome => some 4
  | .barrierArrival => if e.dom = .ring then some 4 else none
  | _ => match e.dom with
    | .vx => some 1
    | .mx => some 2
    | .rt => some 3
    | _ => none

/-- A tick of the old clock, of divisor `d`, at or after E, counted on in the new clock, of divisor `n`, which in the alternate mode does
no work at its first edge E (R102). -/
def newTick (d n E : Nat) (alt : Bool) (t : Nat) : Nat := if t < E then t else E + n * ((t - edgeAt d E) / d + alt.toNat)

/-- The ticks of domain k in the argument of a step: the vector edge before which a load is not deposited, and the ring edges of row
writes to come (R103). -/
def Arg.retime (k : Nat) (f : Nat → Nat) : Arg → Arg
  | .vread r d x lim c clr => .vread r d x (if k = 1 then f lim else lim) c (if k = 4 ∧ clr ≠ 0 then f clr else clr)
  | .restart c t => .restart c (if k = 4 then f t else t)
  | a => a

/-- The engines' idle cycles up to E are counted at the old core divisor (R98, R103). -/
def GateSt.rebase (d E : Nat) (g : GateSt) : GateSt := if g.since < E then { g with cnt := g.idle d E, since := E } else g

/-- The start of a rotator command as the new clock counts its offsets from it (R103). -/
def RJob.retime (d n E : Nat) (alt : Bool) (j : RJob) : RJob :=
  { j with start := (E : Int) + (n : Int) * ((j.start - (edgeAt d E : Int)) / (d : Int) + (alt.toNat : Int)) }

/-- The domain runs at divisor n from its edge E on; what its clock still has to do is counted on in the new clock
(R102, R103). -/
def State.setDivisor (s : State) (k n E : Nat) (alt : Bool) : State :=
  let d := s.a.div.get k
  let f := newTick d n E alt
  let mine := fun (e : Ev) => e.atoll == s.a.n && e.clk == some k
  let moved := (s.agenda.filter mine).map fun (e : Ev) => { e with tick := f e.tick }
  let retimed := fun (e : Ev) => if e.atoll = s.a.n then { e with arg := e.arg.retime k f } else e
  let s := { s with agenda := (moved.foldl (fun (g : List Ev) e => insertEv e g) (s.agenda.filter fun e => !mine e)).map retimed }
  let g := fun (x : GateSt) => if k = 0 then x.rebase d E else x
  s.updA fun a =>
    { a with div := a.div.set k n
             hand := a.hand.filter fun h => h != k
             idleAt := if alt then a.idleAt.set k E else a.idleAt
             gvx := g a.gvx, gmx := g a.gmx, grt := g a.grt, gcp := g a.gcp
             res := if k = 4 then a.res.map fun (r : Nat × Nat) => (f r.1, r.2) else a.res
             ures := if k = 4 then a.ures.map fun (r : Nat × Nat) => (f r.1, r.2) else a.ures
             vbusy := if k = 1 then f a.vbusy else a.vbusy
             mbusy := if k = 2 then f a.mbusy else a.mbusy
             rbusy := if k = 3 then f a.rbusy else a.rbusy
             rjobs := if k = 3 then a.rjobs.map (RJob.retime d n E alt) else a.rjobs
             st := if k = 0 then { a.st with due := a.st.due.map fun c => (f c.1, c.2), ready := f a.st.ready, atcAt := E }
                   else a.st }

/-- The last tick at which something of domain k is in progress; timeouts of past waits are not. -/
def State.domainDue (s : State) (k : Nat) : Nat :=
  max (lastTick (s.agenda.filter fun e => e.atoll == s.a.n && e.clk == some k && e.i != .bundleFetch &&
      e.i != .idleTimeout && e.i != .awaitTimeout))
    (match k with
     | 1 => (s.engineBusy 0).getD 0
     | 2 => (s.engineBusy 1).getD 0
     | 3 => (s.engineBusy 2).getD 0
     | 5 => if s.a.cq.any CCmd.started then s.now + s.a.div.copy else 0
     | _ => 0)

/-- The divisor that a request takes: no lower than the floor of the die's rail now (R20, R101). -/
def State.acceptDivisor (s : State) (o : ClkOp) : Nat := max (o.n.toNat + 1) (railFloor (s.railOf s.a.n))

def trapsClkdiv (_ : ClkOp) (s : State) : Option Trap := s.rgnIll

/-- clkdiv: a divisor that is the current one is answered at t+1; else the domain is handed over, in the alternate mode after
512 ticks, in the handshake mode once it is idle, with the strand waiting (R101, R102). -/
def execClkdiv (o : ClkOp) (s : State) : Res :=
  let k := o.dom.toNat
  let n := s.acceptDivisor o
  s.unless (trapsClkdiv o s)
    (if n = s.a.div.get k then s.landIn 1 (.s o.a) (BitVec.ofNat 64 n)
     else
       let s1 := s.updA fun a => { a with hand := a.hand ++ [k] }
       if s.a.st.idlemx.getLsbD 63 then
         (s1.waitFor (.clock s.now)).sched (s.now + 1) 6 .none .clockHandover (.clock (8 + k) n o.a)
       else s1.sched (edgeAt n (s.now + 512) - 1) 6 .none .clockHandover (.clock k n o.a))

/-- The wait of a clkdiv for its hand-over. -/
def Wait.isClock : Wait → Bool
  | .clock _ => true
  | _ => false

/-- A hand-over: the new clock begins at the next tick.  In the handshake mode (8 + k) the domain is first idle, its FIFOs take 64
ticks and the mesh windows 256, and then (16 + k) it restarts and the strand goes on (R102, R103). -/
def execClockHandover (s : State) : Res :=
  match s.ev.arg with
  | .clock k n d =>
    let E := s.now + 1
    if 16 ≤ k then
      let s1 := ((s.setDivisor (k - 16) n E false).regate E).sched E 2 .core .scalarResultLand (.land (.s d) (BitVec.ofNat 64 n))
      .next (match s.waiting Wait.isClock with
        | some w => s1.resumeAt w (edgeAt s1.a.div.core E)
        | none => s1)
    else if 8 ≤ k then
      let t := s.domainDue (k - 8)
      let t0 := match s.waiting Wait.isClock with
        | some (.clock t0) => t0
        | _ => s.now
      if s.now < t then .next (s.again t)
      else
        .next (s.sched (edgeAt n (max (s.now + 64) (t0 + 256)) - 1) 6 .none .clockHandover (.clock (k + 8) n d))
    else
      .next ((s.setDivisor k n E true).regate E |>.sched (E + n) 2 .core .scalarResultLand (.land (.s d) (BitVec.ofNat 64 n)))
  | _ => .next s

/-! ## rdmeter (R91) -/

/-- The value of rdmeter from a balance: the part of the quota used, at most 2^64 − 1, or the balance as a signed word (R91). -/
def meterValue (bal : Bool) (quota : Nat) (x : Int) : Word :=
  if bal then BitVec.ofInt 64 (min (max x (-(2 ^ 63 : Nat))) ((2 ^ 63 - 1 : Nat) : Int))
  else BitVec.ofInt 64 (min (quota - x) ((2 ^ 64 - 1 : Nat) : Int))

def trapsRdmeter (o : RdmOp) (s : State) : Option Trap := if o.drain then s.rgnIll else none

/-- rdmeter: the meter at the end of the cycle before issue, at t+2; with drain, once the charges of earlier work are
applied (R91). -/
def rdmeter (bal : Bool) (o : RdmOp) (s : State) : Res :=
  s.unless (trapsRdmeter o s)
    (if o.drain then (s.waitFor .drain).sched (s.coreT 0) 6 .core .rdmeterDrainDone (.drain o.a bal)
     else s.landIn 2 (.s o.a) (meterValue bal s.a.st.quota s.a.st.bal))

/-- rdmeter used (R91). -/
def execRdmeterUsed (o : RdmOp) (s : State) : Res := rdmeter false o s
/-- rdmeter bal (R91). -/
def execRdmeterBal (o : RdmOp) (s : State) : Res := rdmeter true o s

/-- The wait of rdmeter with drain: the work of VX, the arrays, PP and the lanes that earlier bundles issued (R91). -/
def State.drainSteps (s : State) : List Ev :=
  s.agenda.filter fun e => e.atoll == s.a.n && decide (e.seq < s.ev.seq) &&
    (e.dom == .vx || e.dom == .mx || e.dom == .rt || e.dom == .ring)

/-- The charges of earlier work are applied: the value leaves out the bundle's own charge, and the next bundle issues in the
core cycle after (R91). -/
def execRdmeterDrainDone (s : State) : Res :=
  match s.ev.arg with
  | .drain d bal =>
    let E := max (s.coreT 0) (s.a.st.due.foldl (fun m c => max m c.1) 0)
    if s.drainSteps ≠ [] then .next (s.again (edgeAt s.a.div.core (max (s.now + 1) (lastTick s.drainSteps))))
    else if s.now < E then .next (s.again E)
    else
      let x := meterSub s.a.st.bal (s.a.st.due.foldl (fun n c => n + c.2) 0) + (ajBundle : Int)
      let s1 := s.landIn 2 (.s d) (meterValue bal s.a.st.quota x)
      .next (if s.a.st.waits.contains .drain then s1.resume .drain 1 else s1)
  | _ => .next s

/-! ## Lagoon and rail (R27, R96, R97) -/

/-- A sample of the lagoon voltage: a hold begins below THRESH and ends at THRESH + 10 (R96, R97). -/
def State.lagoonSample (s : State) (mv : Nat) : State :=
  let th := fld s.a.st.laglvl 16 12
  s.updSt fun st =>
    { st with laglvl := setBits st.laglvl 0 12 mv
              lagHold := decide (mv < th) || (st.lagHold && decide (mv < th + 10)) }

/-- LEVEL has fallen: a hold begins when it is below THRESH (R97). -/
def execLagoonHoldBegin (s : State) : Res :=
  match s.ev.arg with
  | .n mv => .next (s.lagoonSample mv)
  | _ => .next s

/-- LEVEL has risen: a hold ends when it is at THRESH + 10 or above (R97). -/
def execLagoonHoldEnd (s : State) : Res :=
  match s.ev.arg with
  | .n mv => .next (s.lagoonSample mv)
  | _ => .next s

/-- One core cycle of a hold: HELD counts it (R96). -/
def Strand.countHeld (st : Strand) : Strand :=
  { st with laglvl := setBits st.laglvl 32 32 (min (fld st.laglvl 32 32 + 1) (2 ^ 32 - 1)) }

/-- The strand of an atoll runs. -/
def Run.running : Run → Bool
  | .run | .halting => true
  | _ => false

/-- A strand runs on a die (R12, R27). -/
def State.dieBusy (s : State) (die : Nat) : Bool := (s.a :: s.others).any fun a => a.n / 80 == die && a.st.run.running

/-- The rail of a die takes a voltage, and the lagoon registers of its atolls follow it (R27, R96). -/
def State.setRail (s : State) (die mv : Nat) : State :=
  let f := fun (a : Atoll) =>
    if a.n / 80 = die then { a with st := { a.st with laglvl := setBits (setBits a.st.laglvl 0 12 mv) 16 12 (mv - 40) } } else a
  { s with fe := { s.fe with rail := if die = 0 then (mv, s.fe.rail.2) else (s.fe.rail.1, mv) }
           a := f s.a, others := s.others.map f }

/-- The rail of a die changes once no strand runs on it, and then the front end sets the other die's to the same value; LEVEL of idle
lagoons follows (R27, R96, log 10). -/
def execRailChange (s : State) : Res :=
  match s.ev.arg with
  | .n2 die mv =>
    if mv < 420 ∨ 600 < mv then .next s
    else if s.dieBusy die then .next (s.again (s.now + 4))
    else
      let s1 := s.setRail die mv
      .next (if s1.fe.rail.1 = s1.fe.rail.2 then s1 else s1.sched s.now 6 .none .railChange (.n2 (if die = 0 then 1 else 0) mv))
  | _ => .next s

end Sys2Proof.Machine
end

