-- ==== Sys2Proof/Machine/Device.lean ====
section
/-! DEFINITION. Device memory: the rows and their channels, poison, dirty bits and access counters, the reef graphs, the
scripted channels, and the steps of the controllers (R344 to R365). -/

namespace Sys2Proof.Machine

/-! ## The reef (R355 to R358) -/

/-- 32-bit floating words (R357). -/
def reefFp (f : Val → Val → Val) (a b : Nat) : Nat := conv (f (valOf 6#4 a) (valOf 6#4 b)) 6#4

/-- The cell operations (R357). -/
def reefOp (op a b : Nat) : Nat :=
  let sh := b % 32
  let sa := signedOf 32 a
  let sb := signedOf 32 b
  match op with
  | 0x01 => (a + b) % 2 ^ 32
  | 0x02 => (a + 2 ^ 32 - b) % 2 ^ 32
  | 0x03 => a * b % 2 ^ 32
  | 0x04 => a &&& b
  | 0x05 => a ||| b
  | 0x06 => a ^^^ b
  | 0x07 => a * 2 ^ sh % 2 ^ 32
  | 0x08 => a / 2 ^ sh
  | 0x09 => wrapTo 32 (sa / (2 ^ sh : Nat))
  | 0x0A => if sa ≤ sb then a else b
  | 0x0B => if sa ≤ sb then b else a
  | 0x0C => reefFp Val.add a b
  | 0x0D => reefFp (fun x y => x.add y.neg) a b
  | 0x0E => reefFp Val.mul a b
  | 0x0F => reefFp Val.min a b
  | 0x10 => reefFp Val.max a b
  | 0x11 => conv (valOf 3#4 a) 6#4
  | 0x12 => conv (valOf 6#4 a) 3#4
  | 0x13 => if (valOf 6#4 a).lt (valOf 6#4 b) then 0xFFFFFFFF else 0
  | _ => a

/-- Word i of a graph image (R356). -/
def imgWord (img : List Word) (i : Nat) : Word := img.getD i 0

/-- An operand of a cell: ports and earlier cells turn, pw and constants do not (R356). -/
def reefSource (img : List Word) (pw : Word) (pa pb : Row) (prev : List Row) (sel rot j : Nat) : Nat :=
  let k := (j + 8 * rot) % 32
  if sel = 0 then elem 32 pa k
  else if sel = 1 then elem 32 pb k
  else if sel = 2 then fld pw 0 32
  else if sel = 3 then fld pw 32 32
  else if sel < 8 then elem 32 (prev.getD (sel - 4) 0) k
  else fld (imgWord img (18 + (sel - 16) / 2)) (32 * ((sel - 16) % 2)) 32

/-- The four cells of a column (R355, R356). -/
def reefColumn (img : List Word) (pw : Word) (pa pb : Row) (prev : List Row) (c : Nat) : List Row :=
  (List.range 4).map fun k =>
    let w := imgWord img (1 + 4 * c + k)
    rowOf 32 fun j =>
      reefOp (fld w 0 5) (reefSource img pw pa pb prev (fld w 5 5) (fld w 15 2) j)
        (reefSource img pw pa pb prev (fld w 10 5) (fld w 17 2) j)

/-- The row that a graph gives (R355). -/
def reefOut (img : List Word) (pw : Word) (pa pb : Row) : Row :=
  let cols := (List.range 4).foldl (fun (r : List Row × List Row) c =>
    let col := reefColumn img pw pa pb r.2 c
    (r.1 ++ col, col)) ([], [])
  let w := imgWord img 17
  let out := cols.1.getD (fld w 0 4) 0
  rowOf 32 fun j => if w.getLsbD (32 + j) then elem 32 out j else elem 32 pa j

/-- A cell word is legal (R356 to R358). -/
def cellOk (c : Nat) (w : Word) : Bool :=
  let selOk := fun (x : Nat) => decide (x < 4) || decide (16 ≤ x) || (decide (x < 8) && c != 0)
  let op := fld w 0 5
  fld w 19 45 == 0 && decide (op ≤ 0x13) && selOk (fld w 5 5) && selOk (fld w 10 5) &&
    (!(op == 0 || op == 0x11 || op == 0x12) || (fld w 10 5 == 0 && fld w 17 2 == 0))

/-- An image that may be loaded (R356, R358). -/
def imageOk (img : List Word) : Bool :=
  let h := imgWord img 0
  img.length == 256 && fld h 0 8 == 1 && fld h 10 54 == 0 && (h.getLsbD 8 || h.getLsbD 9) && fld (imgWord img 17) 4 28 == 0 &&
    ((List.range 16).all fun k => cellOk (k / 4) (imgWord img (1 + k))) && ((List.range 230).all fun k => imgWord img (26 + k) == 0)

/-- The image of a slot index of the launch of the atoll in focus, if it has the mark at bit `m` of its header (R358). -/
def State.graph (s : State) (slot m : Nat) : Option (List Word) :=
  match s.launch with
  | some l => match l.graphs.find? fun g => g.1 == slot with
    | some g => if (imgWord g.2 0).getLsbD m then some g.2 else none
    | none => none
  | none => none

/-! ## Channel clocks and scripted service (R345, R349 to R352) -/

/-- The tick of edge k of the channel clock, which runs at 1.25 GHz beside the 4.4 GHz of RCLK (R345). -/
def ckTick (k : Nat) : Nat := (88 * k + 24) / 25

/-- The first edge of the channel clock at or after a tick. -/
def ckAt (t : Nat) : Nat := if t = 0 then 0 else 25 * (t - 1) / 88 + 1

/-- Where a row lies in its channel: bank and DRAM row (R345). -/
def Dev.bankOf (d : Dev) (row : Nat) : Nat := d.chanRow row / 16 % 32
def Dev.dramRow (d : Dev) (row : Nat) : Nat := d.chanRow row / 512

/-- A channel serves a request of launch slot `n` for a row now: in dynamic mode always, in scripted mode the owner by a slot and
the others in a DYN window (R350, R352). -/
def State.served (s : State) (row n : Nat) (wr : Bool) : Bool :=
  let c := s.dev.chan (s.dev.chanOf row)
  if !c.running then true
  else if n ≠ c.owner then c.dyn
  else c.slot == some (wr, s.dev.bankOf row, s.dev.dramRow row) && c.slotAt == s.now

/-- The slot that served a request is used up (R350). -/
def State.useSlot (s : State) (row : Nat) : State :=
  s.updChan (s.dev.chanOf row) fun c => if c.running then { c with slot := none } else c

/-- The tick at which a request that was not served asks again (R352). -/
def State.nextCk (s : State) : Nat := ckTick (ckAt (s.now + 1))

/-! ## Words of device and host memory (R168, R177, R363) -/

/-- The launch slot of an atoll (R375). -/
def State.slotOf (s : State) (k : Nat) : Nat := ((s.atoll k).map fun a => a.slot).getD 0

/-- An access that waits for the order of its strand (R172), or for its channel (R352). -/
def State.gmWait (s : State) (x : GAcc) (wr : Bool) : Option Nat :=
  let w := 2 ^ 60 + (if x.host then 2 ^ 50 else 0) + x.byte / 8
  let b := s.blockers x.src s.ev.seq x.cls w
  if b ≠ [] ∨ s.extBlocks x.src x.cls w then some (max (s.now + 1) (lastTick b + 1))
  else if !x.host && !s.served (x.byte / 128) (s.slotOf x.src) wr then some s.nextCk
  else none

/-- A gld or gst is served, and its reply goes back (R168, R169, R354). -/
def execGmAccess (s : State) : Res :=
  match s.ev.arg with
  | .gacc x =>
    let wr := match x.op with
      | .write _ => true
      | _ => false
    match s.gmWait x wr with
    | some t => .next (s.again t)
    | none =>
      let s1 := s.useSlot (x.byte / 128)
      match x.op with
      | .write v =>
        if x.host then .next (({ s1 with host := s1.host.setWord x.byte v }).chargeNow x.chg)
        else
          let r := s1.gmWriteWord x.byte v
          if r.1 then .next (r.2.later x.src .remoteReply (.reply .none 0 (some 0x72) x.chg))
          else .next (r.2.chargeNow x.chg)
      | _ =>
        if x.host then .next (s1.later x.src .remoteReply (.reply x.dst (s.host.word x.byte) none x.chg))
        else
          let r := s1.gmReadWord x.byte
          .next (r.2.later x.src .remoteReply (.reply x.dst r.1.1 (if r.1.2 then some 0x70 else none) x.chg))
  | _ => .next s

/-- An atomic at the reef of its channel: one indivisible read and write (R177, R354, R363). -/
def execReefAtomic (s : State) : Res :=
  match s.ev.arg with
  | .gacc x =>
    match s.gmWait x true with
    | some t => .next (s.again t)
    | none =>
      let s1 := s.useSlot (x.byte / 128)
      let row := x.byte / 128
      let s2 := s1.findError row
      if s2.dev.bad row then .next ((s2.touch row false false).later x.src .remoteReply (.reply x.dst 0 (some 0x71) x.chg))
      else
        let w := s2.dev.mem.word x.byte
        match x.op with
        | .amo k v => match amoNew k w v with
          | some n => .next ((s2.gmWriteWord x.byte n).2.later x.src .remoteReply (.reply x.dst w none x.chg))
          | none => .next ((s2.touch row false false).later x.src .remoteReply (.reply x.dst w none x.chg))
        | _ => .next s1
  | _ => .next s

/-- A history transfer: the spilled entry is read, it reaches the overflow area, or an overflow row comes back for its on-chip row; a
poisoned row reads zero and sets the data flag (R94, R95, R352, R354). -/
def execHistoryTransferDone (s : State) : Res :=
  match s.ev.arg with
  | .spill row byte frame => .next (s.spillRead row byte frame)
  | .hist refill row byte _ r =>
    if !s.served (byte / 128) s.a.slot (!refill) then .next (s.again s.nextCk)
    else
      let s1 := s.useSlot (byte / 128)
      if refill then
        let g := s1.gmRead (byte / 128)
        .next (((g.2.chargeNow ajMemRow).flag (if g.1.2 then some 0x73 else none)).refillRow row g.1.1)
      else .next (((s1.gmWrite (byte / 128) r).chargeNow ajMemRow).endHistory)
  | _ => .next s

/-! ## Scrubbing, refresh and failures (R347, R348, R353) -/

/-- The patrol scrubber reads a row and finds nothing new (0), an error that it corrects (1) or one that it cannot (2); or the cells of a
row go bad, in a way that can be corrected (3) or not (4), which the next read of the row finds (R353, R354, log 79). -/
def execPatrolScrub (s : State) : Res :=
  match s.ev.arg with
  | .n2 row outcome =>
    let c := s.dev.chanOf row
    let clean := fun (d : Dev) => { d with errs := d.errs.filter fun e => e.1 != row }
    if s.dev.dead row then .next s
    else if outcome = 0 then .next ((s.findError row).updDev clean)
    else if outcome = 1 then .next ((s.updChan c fun x => { x with ce := min 65535 (x.ce + 1) }).updDev clean)
    else if outcome = 3 ∨ outcome = 4 then .next (s.updDev fun d => { clean d with errs := (row, outcome == 4) :: (clean d).errs })
    else if outcome = 2 then
      .next (s.updDev fun d => ({ clean d with mem := d.mem.setRow row 0
                                               poison := row :: d.poison.filter fun p => p != row } : Dev).updChan c fun x =>
        { x with ue := min 65535 (x.ue + 1) })
    else .next s
  | _ => .next s

/-- The refresh interval of a layer's temperature, in channel clocks (R348). -/
def refreshCk (temp : Nat) : Nat := if temp < 85 then 4880 else if temp < 95 then 2440 else if temp < 105 then 1220 else 610

/-- A layer's temperature sets its interval from the next boundary on (R348). -/
def execLayerTempSample (s : State) : Res :=
  match s.ev.arg with
  | .n3 stack layer temp =>
    let s1 := s.updDev fun d => { d with temps := SMap.set d.temps (16 * stack + layer) (BitVec.ofNat 16 (refreshCk temp)) }
    .next (if 105 ≤ temp then s1.record 2 (stack * 2 ^ 8 + layer * 2 ^ 16 + temp * 2 ^ 24) else s1)
  | _ => .next s

/-- The interval in force for a layer of a channel (R348). -/
def Dev.interval (d : Dev) (c layer : Nat) : Nat :=
  let n := (SMap.get d.temps (16 * (c / 32) + layer)).toNat
  if n = 0 then 4880 else n

/-- A failed check of a script: no further word, dynamic mode with its debts repaid, and the owner's queues at rung 3 (R352). -/
def State.scriptFault (s : State) (c check : Nat) : State :=
  let ch := s.dev.chan c
  let s1 := (s.updChan c fun x => { x with running := false, script := [], dyn := false, slot := none, debts := x.debts.map (min 1) })
  ((s1.record 3 (c * 2 ^ 8 + ch.wi * 2 ^ 16 + check * 2 ^ 32 + ch.owner * 2 ^ 40)).unsched fun e => e.i == .scriptWord && e.arg == .n c).sched s.now 6 .none .ladderT2Expiry
    (.n2 ch.owner 6)

/-- A refresh interval ends: the layer's debt rises; a dynamic controller keeps it at 1, and a debt of 9 is a script fault (R348,
R351). -/
def execRefreshInterval (s : State) : Res :=
  match s.ev.arg with
  | .n2 c layer =>
    let ch := s.dev.chan c
    let n := ch.debts.getD layer 0 + 1
    let s1 := s.updChan c fun x => { x with debts := x.debts.set layer (if x.running && !x.dyn then n else min 1 n) }
    if ch.script = [] then .next s1
    else
      let s2 := s1.sched (ckTick (ckAt s.now + s.dev.interval c layer)) 6 .none .refreshInterval (.n2 c layer)
      .next (if ch.running && decide (9 ≤ n) then s2.scriptFault c 13 else s2)
  | _ => .next s

/-- A channel fails in service and is fenced until a start retires it (R347). -/
def execChannelFail (s : State) : Res :=
  match s.ev.arg with
  | .n c => .next (s.updChan c fun x => { x with state := if x.state = 0 then 1 else x.state, running := false, script := [] })
  | _ => .next s

/-- System software names the channels that the next start retires (R347). -/
def execRetirementRecordWrite (s : State) : Res :=
  match s.ev.arg with
  | .list _ l => .next (s.updDev fun d => { d with retire := l })
  | _ => .next s

/-! ## Scripts (R350, R351) -/

def swCmd (w : Word) : Nat := fld w 60 4
def swDt (w : Word) : Nat := fld w 48 12
def swBank (w : Word) : Nat := fld w 43 5
def swLayer (w : Word) : Nat := fld w 38 5
def swRow (w : Word) : Nat := fld w 22 16
def swLen (w : Word) : Nat := fld w 10 12

/-- A timeline word is legal: its command and its reserved bits, and the fields that its command uses (R350, log 105). -/
def scriptWordOk (w : Word) : Bool :=
  let c := swCmd w
  decide (c < 8) && fld w 0 10 == 0 && (c != 5 || swLayer w ≤ 15 || swLayer w == 31) && (c != 1 || decide (swRow w < 24576)) &&
    (c != 7 || swLen w != 0)

/-- The words of a lap, which ends with the first WRAP (R350). -/
def lapOf : List Word → List Word
  | [] => []
  | w :: r => if swCmd w = 6 then [w] else w :: lapOf r

/-- A lap without DYN is too long (R350). -/
def lapTooLong (l : List Word) : Bool :=
  !((lapOf l).any fun w => swCmd w == 7) && decide (65536 < (lapOf l).foldl (fun n w => n + swDt w) 0)

/-- A timeline image that may be loaded (R349, R350). -/
def scriptOk (l : List Word) : Bool :=
  decide (1 ≤ l.length) && decide (l.length ≤ 4096) && l.all scriptWordOk && (l.any fun w => swCmd w == 6) && !lapTooLong l

/-- At least n channel clocks have passed since an earlier command, if there was one. -/
def since (now n : Nat) (t : Option Nat) : Bool := match t with
  | some t => decide (t + n ≤ now)
  | none => true

/-- The layer that a REF is for: with 31 the lowest of greatest debt (R350). -/
def refLayer (debts : List Int) (layer : Nat) : Nat :=
  if layer = 31 then
    let top := debts.foldl max (debts.getD 0 0)
    (debts.findIdx? fun d => d == top).getD 0
  else layer

/-- The banks of a layer. -/
def layerBanks (l : Nat) : List Nat := [2 * l, 2 * l + 1]

def Chan.bank (ch : Chan) (b : Nat) : Bank' := ch.banks.getD b ⟨none, none, none, none, none⟩

/-- The first check of R351 that a word fails in channel clock t. -/
def Chan.failed (ch : Chan) (t : Nat) (w : Word) : Option Nat :=
  let b := ch.bank (swBank w)
  let lastOf := fun (f : Bank' → Option Nat) => (ch.banks.filterMap f).foldl (fun (m : Option Nat) x => some (max x (m.getD x))) none
  let cmd := swCmd w
  let refOk := since t 160 (ch.refs.getD (swBank w / 2) none)
  let rw := fun (_ : Unit) =>
    if !since t 18 b.act then some 1
    else if !(since t 2 (lastOf fun x => x.rd) && since t 2 (lastOf fun x => x.wr)) then some 7
    else if cmd = 3 ∧ !since t 10 (lastOf fun x => x.wr) then some 8
    else if !refOk then some 11
    else if b.row.isNone then some 12 else none
  match cmd with
  | 1 =>
    if !since t 18 b.pre then some 2
    else if !since t 60 b.act then some 4
    else if !since t 4 (ch.acts.head?) then some 5
    else if !since t 16 (ch.acts[3]?) then some 6
    else if !refOk then some 11
    else if b.row.isSome then some 12 else none
  | 2 =>
    if !since t 42 b.act then some 3
    else if !since t 20 b.wr then some 9
    else if !since t 6 b.rd then some 10
    else if !refOk then some 11
    else if b.row.isNone then some 12 else none
  | 3 => rw ()
  | 4 => rw ()
  | 5 =>
    let l := refLayer ch.debts (swLayer w)
    if ch.debts.getD l 0 ≤ -8 then none
    else if !since t 160 (ch.refs.getD l none) then some 11
    else if (layerBanks l).any fun k => (ch.bank k).row.isSome then some 12 else none
  | 7 => if ch.banks.any fun b => b.row.isSome then some 12 else none
  | _ => none

/-- The controller after a good word in channel clock t (R350). -/
def Chan.apply (ch : Chan) (t now : Nat) (w : Word) : Chan :=
  let k := swBank w
  let b := ch.bank k
  let ch := { ch with wi := if swCmd w = 6 then 0 else ch.wi + 1, slot := none }
  match swCmd w with
  | 1 => { ch with banks := ch.banks.set k { b with row := some (swRow w), act := some t }, acts := t :: ch.acts.take 3 }
  | 2 => { ch with banks := ch.banks.set k { b with row := none, pre := some t } }
  | 3 => { ch with banks := ch.banks.set k { b with rd := some t }, slot := some (false, k, b.row.getD 0), slotAt := now }
  | 4 => { ch with banks := ch.banks.set k { b with wr := some t }, slot := some (true, k, b.row.getD 0), slotAt := now }
  | 5 =>
    let l := refLayer ch.debts (swLayer w)
    if ch.debts.getD l 0 ≤ -8 then ch
    else { ch with debts := ch.debts.set l (ch.debts.getD l 0 - 1), refs := ch.refs.set l (some t) }
  | 7 => { ch with dyn := true }
  | _ => ch

/-- The first word of a script executes at the first edge of the channel clock at or after its start tick, which counts in the
controller's copy of GTC; when that has passed, at the first edge after now (R349). -/
def State.scriptDue (s : State) (c : Nat) : State :=
  let ch := s.dev.chan c
  let left := (BitVec.ofNat 64 ch.start - (BitVec.ofNat 64 s.now + ch.gtcOff)).toInt
  let t := if left < 0 then ckTick (ckAt (s.now + 1)) else ckTick (ckAt (s.now + left.toNat))
  if ch.script = [] ∨ ch.running then s
  else (s.unsched fun e => e.i == .scriptWord && e.arg == .n c).sched t 4 .none .scriptWord (.n c)

/-- A timeline word comes due: it is checked and executed, and the next follows DT channel clocks later (R349 to R352). -/
def execScriptWord (s : State) : Res :=
  match s.ev.arg with
  | .n c =>
    let ch := s.dev.chan c
    let t := ckAt s.now
    let s0 := s.updChan c fun x => { x with running := true }
    match ch.script[ch.wi]? with
    | none => .next s
    | some w =>
      match ch.failed t w with
      | some k => .next (s0.scriptFault c k)
      | none =>
        let s1 := s0.updChan c fun x => x.apply t s.now w
        let s2 := if swCmd w = 7 then
            (s1.unsched fun e => e.i == .dynWindowEnd && e.arg == .n c).sched (ckTick (t + swLen w)) 4 .none .dynWindowEnd (.n c)
          else s1
        let next := (s1.dev.chan c).script.getD (s1.dev.chan c).wi 0
        let dt := if ch.script.all fun w => swDt w == 0 then 1 else swDt next
        .next (s2.sched (ckTick (t + dt)) 4 .none .scriptWord (.n c))
  | _ => .next s

/-- A DYN window ends with every bank closed (R350). -/
def execDynWindowEnd (s : State) : Res :=
  match s.ev.arg with
  | .n c => .next (s.updChan c fun x => { x with dyn := false, banks := x.banks.map fun b => { b with row := none } })
  | _ => .next s

end Sys2Proof.Machine
end

