-- ==== Sys2Proof/Machine/Copy.lean ====
section
/-! DEFINITION. The copy engine and PP's compressing command (R295 to R314, R359, R435): the checks at issue, the queue, the
codec, and the steps that carry commands out. -/

namespace Sys2Proof.Machine

/-! ## The operands as a syllable names them (R296) -/

/-- An operand: space code, handle register and address or offset. -/
structure CEnd where
  sp : Nat
  h : HReg
  va : Word
deriving DecidableEq, Repr

/-- A command as its registers give it at issue; `ext` is the area that follows the destination, or for unpack the source. -/
structure CIn where
  kind : CKind
  dst : CEnd
  src : CEnd
  ext : Word
  n : Word
  bar : Word
  x : BitVec 4
  y : BitVec 4
  z : BitVec 4
  f : Nat
  vals : List Word
deriving DecidableEq, Repr

/-- The commands that read source rows. -/
def CKind.reads (k : CKind) : Bool := k != .cpyz

/-- The commands with a second area, and whether it holds descriptor words (R296, R303). -/
def CKind.coded : CKind → Bool
  | .pack | .unpack | .ppcmp => true
  | _ => false

def CKind.extra (k : CKind) : Bool := k.coded || k == .cpys

def COp.ins (k : CKind) (o : COp) (s : State) (ext : Word) : CIn :=
  { kind := k, dst := ⟨o.ds.toNat, o.dh, s.rdS o.da⟩, src := ⟨o.ss.toNat, o.sh, s.rdS o.sa⟩, ext := ext, n := s.rdS o.n
    bar := s.rdS o.bar, x := 0, y := 0, z := 0, f := 0
    vals := [s.rdS o.da, s.rdS o.sa, s.rdS o.n, s.rdS o.bar] ++ if k.extra then [ext] else [] }

def insCpy (o : COp) (s : State) : CIn := COp.ins .cpy o s 0
def insCpyx (o : COp) (s : State) : CIn := COp.ins .cpyx o s 0

/-- The granule of the codec in bytes (R296). -/
def granule (g : BitVec 2) : Nat := 2 ^ g.toNat

def insPack (o : CcOp) (s : State) : CIn := { COp.ins .pack o.c s (s.rdS (o.c.da + 1)) with f := granule o.gran }
def insUnpack (o : CcOp) (s : State) : CIn := { COp.ins .unpack o.c s (s.rdS (o.c.sa + 1)) with f := granule o.gran }
def insCpyg (o : CgOp) (s : State) : CIn := { COp.ins .cpyg o.c s 0 with f := o.slot.toNat }
def insCpys (o : CsOp) (s : State) : CIn :=
  { COp.ins .cpys o.c s (s.rdS (o.c.da + 1)) with x := cpysEt o.x, y := o.y, z := o.z, f := o.f.toNat }
def insCpyz (o : CzOp) (s : State) : CIn :=
  { kind := .cpyz, dst := ⟨o.ds.toNat, o.dh, s.rdS o.da⟩, src := ⟨0, 0, 0⟩, ext := 0, n := s.rdS o.n, bar := s.rdS o.bar
    x := 0, y := 0, z := 0, f := 0, vals := [s.rdS o.da, s.rdS o.n, s.rdS o.bar] }
def insCpyv (o : CvOp) (s : State) : CIn := { COp.ins .cpyv o.c s 0 with x := o.x, y := o.y }
def insPpcmp (o : PpOp) (s : State) : CIn :=
  { kind := .ppcmp, dst := ⟨o.ds.toNat, o.dh, s.rdS o.da⟩, src := ⟨0, 0, s.rdS o.sa⟩, ext := s.rdS (o.da + 1), n := s.rdS o.n
    bar := s.rdS o.bar, x := if o.x then 13#4 else 6#4, y := o.y, z := 0, f := o.f.toNat
    vals := [s.rdS o.da, s.rdS o.sa, s.rdS o.n, s.rdS o.bar, s.rdS (o.da + 1)] }

/-! ## Counts (R298, R303, R306) -/

/-- Rows of w-bit elements made from n rows of wx-bit elements. -/
def convRows (n w wx : Nat) : Nat := n * w / wx

def srcRows (k : CKind) (x y : BitVec 4) (n : Nat) : Nat :=
  match k with
  | .cpyz => 0
  | .ppcmp => convRows n (etWidth x) (etWidth y)
  | _ => n

def dstRows (k : CKind) (x y : BitVec 4) (n : Nat) : Nat :=
  match k with
  | .cpyv | .cpys => convRows n (etWidth y) (etWidth x)
  | _ => n

/-- The bytes of the second area: residue rows, or a word for each block. -/
def extBytes (k : CKind) (x z : BitVec 4) (n : Nat) : Nat :=
  match k with
  | .cpys => 128 * convRows n (etWidth z) (etWidth x)
  | .pack | .unpack | .ppcmp => n
  | _ => 0

/-- The count check (R298, item 1). -/
def CIn.countBad (c : CIn) : Bool :=
  let n := c.n.toNat
  decide (65535 < n) || (c.kind.coded && n % 8 != 0) ||
    ((c.kind == .cpyv || c.kind == .cpys) && n * etWidth c.y % etWidth c.x != 0) ||
    (c.kind == .cpys && n * etWidth c.z % etWidth c.x != 0)

/-! ## The checks at issue (R298) -/

/-- An operand with its length in bytes, and whether it is a row range, and a destination. -/
structure CRange where
  e : CEnd
  len : Nat
  rows : Bool
  wr : Bool
deriving DecidableEq, Repr

/-- The operands of a command in the order of the checks: destination, source, second area (R298). -/
def CIn.ranges (c : CIn) : List CRange :=
  let n := c.n.toNat
  [⟨c.dst, 128 * dstRows c.kind c.x c.y n, true, true⟩] ++
    (if c.kind.reads then [⟨c.src, 128 * srcRows c.kind c.x c.y n, true, false⟩] else []) ++
    (if c.kind.extra then
      [⟨{ (if c.kind = .unpack then c.src else c.dst) with va := c.ext }, extBytes c.kind c.x c.z n, !c.kind.coded,
        c.kind != .unpack⟩] else [])

/-- The first byte of a range in its space: rows, or words of a descriptor area (R298). -/
def CRange.base (r : CRange) : Int :=
  let b := if r.e.sp ≤ 1 then (eaByte r.e.va : Int) else r.e.va.toInt
  if r.rows then b / 128 * 128 else b / 8 * 8

/-- A scratchpad operand: the checks of R150 over its whole range, and then RM against the space (R150, R298 item 2). -/
def State.spTrap (s : State) (r : CRange) : Option Trap :=
  if 2 ≤ r.e.sp then none
  else firstTrap [s.eaTrap r.e.va false, trapIf (decide (49152 * 128 < r.base + r.len)) tData 0x10,
    trapIf ((r.e.sp == 1) != eaRemote r.e.va) tData 0x12]

/-- An operand through a handle, checked over its whole range (R162, R298 item 3). -/
def State.gmTrap (s : State) (r : CRange) : Option Trap :=
  let h := s.rdH r.e.h
  let t := fun (b : Bool) k => trapIf b tHandle (k + r.e.h.toNat * 16)
  if r.e.sp < 2 then none
  else firstTrap [t (!hValid h) 1, t (decide (r.base < 0) || decide ((hPage h : Int) < r.base + r.len)) 2,
    t (r.wr && !hWr h) 3, t (hSpace h != r.e.sp) 4]

/-- The place of a range: its memory, first byte and length; the rows a descriptor area touches count whole in a scratchpad. -/
def State.placed (s : State) (r : CRange) : Nat × Int × Int :=
  if r.e.sp ≤ 1 then
    (s.owner r.e.va, r.base / 128 * 128, (r.base + r.len + 127) / 128 * 128)
  else (10 ^ 6 + r.e.sp, (hFrame (s.rdH r.e.h) * 2 ^ 16 : Nat) + r.base, (hFrame (s.rdH r.e.h) * 2 ^ 16 : Nat) + r.base + r.len)

/-- Two ranges that share a row or bytes (R298 item 4). -/
def overlaps (a b : Nat × Int × Int) : Bool :=
  a.1 == b.1 && decide (max a.2.1 b.2.1 < min a.2.2 b.2.2)

/-- Some two ranges of a list overlap. -/
def anyOverlap : List (Nat × Int × Int) → Bool
  | [] => false
  | x :: r => r.any (overlaps x) || anyOverlap r

/-- Ranges of no bytes overlap nothing. -/
def State.rangesOverlap (s : State) (l : List CRange) : Bool :=
  anyOverlap ((l.filter fun r => r.len != 0).map s.placed)

/-- The checks of a command of class 0xA at issue, in order (R298). -/
def State.copyTraps (s : State) (c : CIn) : Option Trap :=
  firstTrap [trapIf c.countBad tData 0x50, firstTrap (c.ranges.map s.spTrap), firstTrap (c.ranges.map s.gmTrap),
    trapIf (s.rangesOverlap c.ranges) tData 0x51, s.eaTrap c.bar false]

/-! ## The queue (R307) -/

/-- An operand as the queue holds it. -/
def State.area (s : State) (r : CRange) : CArea :=
  if r.e.sp ≤ 1 then ⟨r.e.sp, s.owner r.e.va, r.base.toNat, 0, 0⟩
  else
    let h := s.rdH r.e.h
    ⟨r.e.sp, s.a.n, hFrame h * 2 ^ 16 + r.base.toNat, hFrame h, hPasidx h⟩

/-- The first seven words of the entry of the command that issues: its syllable, its prefix or 0, and its register values (R419). -/
def State.cmdWords (s : State) (vals : List Word) : List Word :=
  let k := s.a.st.pos
  let y := match s.issueQ[k]? with
    | some (some y) => encode y (k + 1 == s.issueQ.length)
    | _ => 0
  let p := match s.a.st.pfx, s.issueQ[k - 1]? with
    | some _, some (some y) => encode y false
    | _, _ => 0
  y :: p :: vals

/-- A command as the queue holds it. -/
def State.cmdOf (s : State) (c : CIn) : CCmd :=
  let l := c.ranges.map s.area
  let none' : CArea := ⟨4, 0, 0, 0, 0⟩
  { id := s.ev.seq, kind := c.kind, cls := s.cls 8, lv := s.scope, dst := l.getD 0 none'
    src := if c.kind.reads then l.getD 1 none' else none'
    ext := if c.kind.extra then l.getD 2 none' else none'
    n := c.n.toNat, bar := eaByte c.bar, barAt := s.owner c.bar, ph := eaPh c.bar, x := c.x, y := c.y, z := c.z, f := c.f
    started := false, done := 0, got := [], todo := [], out := 0, code := 0, stop := false, w := s.cmdWords c.vals }

/-- Each command that has not started looks at once whether it can (R308). -/
def State.kickCopies (s : State) : State :=
  (s.a.cq.filter fun c => !c.started).foldl (fun (s : State) c =>
    (s.unsched fun e => e.i == .copyStart && e.atoll == s.a.n && e.arg == .n c.id).sched s.now 6 .none .copyStart (.n c.id)) s

/-- A command enters the queue (R307). -/
def State.enqueueCopy (s : State) (c : CIn) : State :=
  (s.updA fun a => { a with cq := a.cq ++ [s.cmdOf c] }).kickCopies

def trapsCpy (o : COp) (s : State) : Option Trap := s.copyTraps (insCpy o s)
/-- cpy (R299). -/
def execCpy (o : COp) (s : State) : Res := s.unless (trapsCpy o s) (s.enqueueCopy (insCpy o s))

def trapsCpyx (o : COp) (s : State) : Option Trap := s.copyTraps (insCpyx o s)
/-- cpyx (R299). -/
def execCpyx (o : COp) (s : State) : Res := s.unless (trapsCpyx o s) (s.enqueueCopy (insCpyx o s))

def trapsCpycPack (o : CcOp) (s : State) : Option Trap := s.copyTraps (insPack o s)
/-- cpyc that packs (R305). -/
def execCpycPack (o : CcOp) (s : State) : Res := s.unless (trapsCpycPack o s) (s.enqueueCopy (insPack o s))

def trapsCpycUnpack (o : CcOp) (s : State) : Option Trap := s.copyTraps (insUnpack o s)
/-- cpyc that unpacks (R305). -/
def execCpycUnpack (o : CcOp) (s : State) : Res := s.unless (trapsCpycUnpack o s) (s.enqueueCopy (insUnpack o s))

def trapsCpyg (o : CgOp) (s : State) : Option Trap := s.copyTraps (insCpyg o s)
/-- cpyg (R302). -/
def execCpyg (o : CgOp) (s : State) : Res := s.unless (trapsCpyg o s) (s.enqueueCopy (insCpyg o s))

def trapsCpys (o : CsOp) (s : State) : Option Trap := s.copyTraps (insCpys o s)
/-- cpys (R301). -/
def execCpys (o : CsOp) (s : State) : Res := s.unless (trapsCpys o s) (s.enqueueCopy (insCpys o s))

def trapsCpyz (o : CzOp) (s : State) : Option Trap := s.copyTraps (insCpyz o s)
/-- cpyz (R299). -/
def execCpyz (o : CzOp) (s : State) : Res := s.unless (trapsCpyz o s) (s.enqueueCopy (insCpyz o s))

def trapsCpyv (o : CvOp) (s : State) : Option Trap := s.copyTraps (insCpyv o s)
/-- cpyv (R300). -/
def execCpyv (o : CvOp) (s : State) : Res := s.unless (trapsCpyv o s) (s.enqueueCopy (insCpyv o s))

def trapsPpcmp (o : PpOp) (s : State) : Option Trap := s.copyTraps (insPpcmp o s)
/-- ppcmp (R306). -/
def execPpcmp (o : PpOp) (s : State) : Res := s.unless (trapsPpcmp o s) (s.enqueueCopy (insPpcmp o s))

/-! ## Rows of an operand (R313, R435) -/

/-- Hops between a station and CP (R313). -/
def cpHops (row : Nat) : Nat := hops (stationPos (station row)) posCP

/-- The charge of a row that moves to or from CP (R313). -/
def State.rowCharge (s : State) (a : CArea) (row : Nat) : Nat :=
  match a.sp with
  | 0 => ajRow + ajHop * cpHops row
  | 1 => ajRow + ajHop * (6 + xbHops row) + ajStrait * s.straits a.atoll
  | _ => ajMemRow + 6 * ajHop

/-- A row of memory read for a command: value, poison, and state.  What a scratchpad of another package holds is free (log 23). -/
def State.cRead (s : State) (a : CArea) (row : Nat) : (Row × Bool) × State :=
  match a.sp with
  | 2 => s.gmRead row
  | 3 => ((s.host.row row, false), s)
  | _ => match s.atoll a.atoll with
    | some b => ((b.sp.row row, false), s)
    | none => ((rowOf 64 fun j => (Config.freeWord (s.free + j)).toNat, false), { s with free := s.free + 16 })

/-- A row of a scratchpad of this package is written, and its monitors fire (R187). -/
def State.spSetRowOf (s : State) (k row : Nat) (v : Row) : State := ((s.focus k).spSetRow row v).focus s.a.n

/-- What a row holds after its masked part has been written, by XOR or over the old bits. -/
def putMasked (xor : Bool) (mask v old : Row) : Row := if xor then old ^^^ (v &&& mask) else (old &&& ~~~mask) ||| (v &&& mask)

/-- The word of a row that a mask stands for. -/
def maskWord (mask : Row) : Nat := ((List.range 16).find? fun j => mask.getLsbD (64 * j)).getD 0

/-- A masked part of a row of a scratchpad of this package is written; a word of it is written as a word (R151, R187). -/
def State.spPut (s : State) (k row : Nat) (v mask : Row) (xor : Bool) : State :=
  let new := putMasked xor mask v (((s.atoll k).map fun a => a.sp.row row).getD 0)
  if pop mask = 64 then ((s.focus k).spSetWord (128 * row + 8 * maskWord mask) (bits new (64 * maskWord mask) 64)).focus s.a.n
  else s.spSetRowOf k row new

/-- The 1-bits that a write of a masked part of a row erases (R313). -/
def State.erased (s : State) (k row : Nat) (mask : Row) (xor : Bool) : Nat :=
  if xor then 0 else pop ((((s.atoll k).map fun a => a.sp.row row).getD 0) &&& mask)

/-- A row write in device memory: whole rows clear poison, a part-row is discarded by it, and a row that stopped half-way and drew on
poison stays poisoned (R312, R354, R435).  The answer says whether the write was discarded. -/
def State.gmPut (s : State) (w : CWr) : Bool × State :=
  let merged := putMasked false w.mask w.v (s.dev.mem.row w.row)
  match w.how with
  | .whole => (false, if w.bad then s.gmPoison w.row else s.gmWrite w.row w.v)
  | .part => s.gmWriteWord (128 * w.row + 8 * maskWord w.mask) (bits w.v (64 * maskWord w.mask) 64)
  | .stop => (false, if w.bad then s.gmPoison w.row else s.gmWrite w.row merged)
  | .resumed => (false, if w.bad || s.dev.bad w.row then s.gmPoison w.row else s.gmWrite w.row merged)
  | .moved => (false, s)

/-! ## Elements across rows -/

/-- Element e of a string of rows of w-bit elements. -/
def elemOf (w : Nat) (l : List (Row × Bool)) (e : Nat) : Nat := elem w (l.getD (e / (1024 / w)) (0, false)).1 (e % (1024 / w))

/-- Output row r of w-bit elements draws on a poisoned input row of wi-bit elements (R435). -/
def draws (w wi r : Nat) (l : List (Row × Bool)) : Bool :=
  l.zipIdx.any fun x => x.1.2 &&
    decide (max (r * (1024 / w)) (x.2 * (1024 / wi)) < min ((r + 1) * (1024 / w)) ((x.2 + 1) * (1024 / wi)))

/-- n output rows of w-bit elements, each with whether it draws on poison. -/
def outRows (w n : Nat) (bad : Nat → Bool) (f : Nat → Nat) : List (Row × Bool) :=
  (List.range n).map fun r => (rowOf w fun j => f (r * (1024 / w) + j), bad r)

/-- The mask of bits lo up to hi of a row. -/
def spanMask (lo hi : Nat) : Row := BitVec.ofNat 1024 (2 ^ hi - 2 ^ lo)

/-! ## The codec (R303, R304) -/

/-- Granule i of g bytes of a block. -/
def gran (g : Nat) (b i : Nat) : Nat := b / 2 ^ (8 * g * i) % 2 ^ (8 * g)

/-- The granules that are not zero. -/
def nonzero (g b : Nat) : List Nat := (List.range (1024 / g)).filter fun i => gran g b i != 0

/-- Numbers of w bits as one string, the first lowest. -/
def joinNats (w : Nat) : List Nat → Nat
  | [] => 0
  | x :: r => x + 2 ^ w * joinNats w r

/-- The rows of a packed block of n nonzero granules (R303). -/
def packedRows (g nz : Nat) : Nat := (128 / g + g * nz + 127) / 128

/-- A block packed: its descriptor and the slot rows written (R303). -/
def packBlock (g b : Nat) : Word × List Row :=
  let l := nonzero g b
  let c := packedRows g l.length
  let rows := fun (x n : Nat) => (List.range n).map fun r => BitVec.ofNat 1024 (x / 2 ^ (1024 * r))
  if l = [] then (0, [])
  else if 8 ≤ c then (0x8000000000000008, rows b 8)
  else (BitVec.ofNat 64 c, rows (joinNats 1 ((List.range (1024 / g)).map fun i => if gran g b i = 0 then 0 else 1) +
    2 ^ (1024 / g) * joinNats (8 * g) (l.map (gran g b))) c)

/-- The mask of a packed slot: bit i (R303). -/
def maskBit (str i : Nat) : Bool := str / 2 ^ i % 2 == 1

/-- The granules of a packed string put back in their places (R303). -/
def unpackString (g str : Nat) : Nat :=
  let n := 1024 / g
  let r := (List.range n).foldl (fun (r : Nat × Nat) i =>
    if maskBit str i then (r.1 + gran g (str / 2 ^ n) r.2 * 2 ^ (8 * g * i), r.2 + 1) else r) (0, 0)
  r.1

/-- Rows as one string, and a string as rows. -/
def stringOf (l : List (Row × Bool)) : Nat := joinNats 1024 (l.map fun r => r.1.toNat)
def rowsOf (n x : Nat) (bad : Bool) : List (Row × Bool) := (List.range n).map fun r => (BitVec.ofNat 1024 (x / 2 ^ (1024 * r)), bad)

/-! ## What a command reads and writes (R299 to R306, R359, R435) -/

def cUe : Nat := 5
def cDigit : Nat := 8
def cCc : Nat := 4
def cHandle : Nat := 2
def cXlat : Nat := 1
def cLink : Nat := 7

/-- The commands that make whole output rows from one source row or from several (R300, R301). -/
def CCmd.grouped (c : CCmd) : Bool := c.kind == .cpyv || c.kind == .cpys

/-- The source rows from which a command makes whole output rows: one, a block, or those that fill them (R300, R301, R303). -/
def CCmd.step (c : CCmd) : Nat :=
  match c.kind with
  | .pack | .unpack | .ppcmp => 8
  | .cpyv => max 1 (etWidth c.x / etWidth c.y)
  | .cpys => max (etWidth c.x / etWidth c.y) (etWidth c.x / etWidth c.z)
  | _ => 1

/-- The rows, or for the codec the blocks, of a command. -/
def CCmd.total (c : CCmd) : Nat := if c.kind.coded then c.n / 8 else c.n

/-- The number of the row, block or group in hand, and the number of them all. -/
def CCmd.unit (c : CCmd) : Nat := if c.grouped then c.done / c.step else c.done
def CCmd.units (c : CCmd) : Nat := if c.grouped then c.n / c.step else c.total

/-- The source rows of the group in hand that were done before a save stopped the command in it (R312). -/
def CCmd.early (c : CCmd) : Nat := if c.grouped then c.done % c.step else 0

/-- The residue rows that a group feeds back (R301). -/
def CCmd.feed (c : CCmd) : Nat := if c.kind = .cpys ∧ c.f = 1 then convRows c.step (etWidth c.z) (etWidth c.x) else 0

/-- A row read of a command, and what it pays: 0 nothing, 1 as a row that moves, 2 as a row that its controller keeps (R313). -/
structure CRd where
  a : CArea
  row : Nat
  pay : Nat
deriving DecidableEq, Repr

/-- The row read at a place of the row, block or group in hand. -/
def CCmd.rowAt (c : CCmd) (p : Nat) : Option (Row × Bool) := (c.got.find? fun g => g.1 == p).map fun g => g.2

/-- The rows read at n places from p on. -/
def CCmd.rowsAt (c : CCmd) (p n : Nat) : List (Row × Bool) := (List.range n).map fun i => (c.rowAt (p + i)).getD (0, false)

/-- The descriptor word of a block in the row that holds it. -/
def CCmd.desc (c : CCmd) (r : Row × Bool) : Word × Bool := (bits r.1 ((c.ext.byte + 8 * c.done) % 128 * 8) 64, r.2)

/-- The descriptor stands for a raw block, and for a zero block. -/
def descRaw (d : Word × Bool) : Bool := d.1.getLsbD 63 && !d.2
def descZero (d : Word × Bool) : Bool := d.2 || (!d.1.getLsbD 63 && fld d.1 0 4 == 0)

/-- Rows of an operand from its k-th on. -/
def CArea.rows (a : CArea) (k n pay : Nat) : List CRd := (List.range n).map fun i => ⟨a, a.byte / 128 + k + i, pay⟩

/-- The slot rows that an unpack reads beyond the first, once it has the first (R303). -/
def CCmd.slotRest (c : CCmd) (first : Row × Bool) : Nat :=
  min (packedRows c.f (popNat (1024 / c.f) (first.1.toNat % 2 ^ (1024 / c.f)))) 8 - 1

/-- The rows that the row, block or group in hand reads, as far as what has been read tells: the residues that cpys feeds back, and the
rows of the source; the old row that cpyg's graph takes; a descriptor, and the slot rows that it and the mask call for (R299 to R306). -/
def CCmd.toRead (c : CCmd) : List CRd :=
  match c.kind with
  | .cpyz => []
  | .cpy | .cpyx => c.src.rows c.unit 1 1
  | .cpyg => c.src.rows c.unit 1 1 ++ if c.dst.sp = 2 then c.dst.rows c.unit 1 2 else []
  | .cpyv | .cpys => c.ext.rows (c.feed * c.unit) c.feed (if c.early = 0 then 1 else 0) ++
      c.src.rows (c.step * c.unit + c.early) (c.step - c.early) 1
  | .pack => c.src.rows (8 * c.unit) 8 1
  | .ppcmp => c.src.rows (srcRows .ppcmp c.x c.y 8 * c.unit) (srcRows .ppcmp c.x c.y 8) 1
  | .unpack => ⟨c.ext, (c.ext.byte + 8 * c.unit) / 128, 1⟩ :: match c.rowAt 0 with
    | none => []
    | some r =>
      if descRaw (c.desc r) then c.src.rows (8 * c.unit) 8 1
      else if descZero (c.desc r) then []
      else c.src.rows (8 * c.unit) 1 1 ++ match c.rowAt 1 with
        | none => []
        | some f => c.src.rows (8 * c.unit + 1) (c.slotRest f) 1

/-- The source rows of the group in hand that have been read. -/
def CCmd.srcGot (c : CCmd) : Nat := (c.got.filter fun g => c.feed ≤ g.1).length

/-- Whole row writes from the k-th row of the destination on. -/
def CCmd.wholeRows (c : CCmd) (k : Nat) (xor : Bool) (l : List (Row × Bool)) : List CWr :=
  (l.zipIdx).map fun x => ⟨false, c.dst.byte / 128 + k + x.2, x.1.1, -1, xor, x.1.2, .whole⟩

/-- The write of the descriptor of the block in hand (R303). -/
def CCmd.descWrite (c : CCmd) (v : Word) : CWr :=
  let byte := c.ext.byte + 8 * c.unit
  ⟨true, byte / 128, setBits 0 (byte % 128 * 8) 64 v.toNat, spanMask (byte % 128 * 8) (byte % 128 * 8 + 64), false, false, .part⟩

/-- The writes of w-bit outputs of a group, for its elements a up to b: whole rows, or the part of one that stops or goes on (R300,
R301, R312). -/
def CCmd.groupRows (c : CCmd) (ext : Bool) (w a b : Nat) (bad : Nat → Bool) (f : Nat → Nat) : List CWr :=
  let n := convRows c.step w (etWidth c.x)
  let per := 1024 / w
  (List.range n).filterMap fun i =>
    let lo := max a (i * per) - i * per
    let hi := min b ((i + 1) * per) - i * per
    if lo < hi then
      some ⟨ext, (if ext then c.ext else c.dst).byte / 128 + n * c.unit + i, rowOf w fun j => f (i * per + j), spanMask (lo * w) (hi * w),
        false, bad i, if hi - lo = per then .whole else if lo = 0 then .stop else .resumed⟩
    else none

/-- A block written packed, or raw when a source row is poisoned (R303, R435). -/
def CCmd.packed (c : CCmd) (g : Nat) (l : List (Row × Bool)) (bad : Bool) : List CWr :=
  if bad then c.wholeRows (8 * c.unit) false l ++ [c.descWrite 0x8000000000000008]
  else
    let p := packBlock g (stringOf l)
    c.wholeRows (8 * c.unit) false (p.2.map fun r => (r, false)) ++ [c.descWrite p.1]

/-- What the row, block or group in hand writes, from the rows that it has read; `img` is the image of its graph (R299 to R306, R359,
R435). -/
def CCmd.toWrite (c : CCmd) (img : List Word) : List CWr :=
  let wx := etWidth c.x
  let wy := etWidth c.y
  let wz := etWidth c.z
  let a := c.early * (1024 / wx)
  let b := (c.early + c.srcGot) * (1024 / wx)
  let src := List.replicate c.early (0, false) ++ c.rowsAt c.feed c.srcGot
  match c.kind with
  | .cpy | .cpyx => c.wholeRows c.unit (c.kind == .cpyx) (c.rowsAt 0 1)
  | .cpyz => c.wholeRows c.unit false [(0, false)]
  | .cpyg =>
    let old := (c.rowAt 1).getD (0, false)
    let l := (c.rowsAt 0 1).map fun x => (reefOut img 0 x.1 old.1, x.2)
    if old.2 then [⟨false, c.dst.byte / 128 + c.unit, 0, 0, false, false, .moved⟩] else c.wholeRows c.unit false l
  | .cpyv =>
    c.groupRows false wy a b (fun i => draws wy wx i src) fun e => conv (valOf c.x (elemOf wx src e)) c.y
  | .cpys =>
    let q := c.rowsAt 0 c.feed
    let val := fun e =>
      let v := valOf c.x (elemOf wx src e)
      if c.f = 1 then v.add (valOf c.z (elemOf wz q e)) else v
    let bad := fun (w i : Nat) => draws w wx i src || draws w wz i q
    c.groupRows false wy a b (bad wy) (fun e => narrowCode (val e) c.y) ++
      c.groupRows true wz a b (bad wz) fun e => residueCode (val e) (narrowCode (val e) c.y) c.y c.z
  | .pack => let l := c.rowsAt 0 8; c.packed c.f l (l.any fun x => x.2)
  | .ppcmp =>
    let l := c.rowsAt 0 (srcRows .ppcmp c.x c.y 8)
    let val := fun e =>
      let x := elemOf wx l e
      if wx = 64 then (Val.int (signedOf 64 x)).scale (-(c.f : Int)) else valOf 6#4 x
    c.packed (wy / 8) (outRows wy 8 (fun i => draws wy wx i l) fun e => conv (val e) c.y) (l.any fun x => x.2)
  | .unpack =>
    let r := (c.rowAt 0).getD (0, false)
    let l := c.rowsAt 1 (c.got.length - 1)
    let out := if descRaw (c.desc r) then stringOf l else if descZero (c.desc r) then 0 else unpackString c.f (stringOf l)
    c.wholeRows (8 * c.unit) false (rowsOf 8 out (r.2 || l.any fun x => x.2))

/-- The completion code of the event that a row just read shows: poison, or a reserved digit that cpyv reads (R311, R435). -/
def CCmd.readCode (c : CCmd) (r : Row × Bool) : Nat :=
  if r.2 then cUe
  else if c.kind = .cpyv ∧ (List.range (1024 / etWidth c.x)).any fun e => digitBad c.x (elem (etWidth c.x) r.1 e) then cDigit
  else 0

/-- The first of a command's events is the one that its arrival reports (R311). -/
def CCmd.event (c : CCmd) (code : Nat) : CCmd := { c with code := if c.code = 0 then code else c.code }

/-! ## The engine (R307 to R312) -/

def Atoll.copy (a : Atoll) (id : Nat) : Option CCmd := a.cq.find? fun c => c.id == id

def State.updCopy (s : State) (id : Nat) (f : CCmd → CCmd) : State :=
  s.updA fun a => { a with cq := a.cq.map fun c => if c.id = id then f c else c }

/-- A command arrives on its barrier and leaves the queue (R186, R307, R311); the engine's idle time starts when the queue empties
(R98), the strand's halt waits for the arrival of its own work (R146), and a halt and the launch look again (R390). -/
def State.finishCopy (s : State) (c : CCmd) : State :=
  let s0 := s.updA fun a =>
    { a with cq := a.cq.filter fun x => x.id != c.id
             arriving := if c.ownWork a.n ∧ c.barAt < 1000 then a.arriving ++ [(c.barAt, c.bar)] else a.arriving }
  let s1 := (s0.engineArrive c.barAt c.bar c.ph c.code).kickCopies
  let s2 := if s1.a.cq = [] then (s1.updA fun a => { a with gcp := a.gcp.restart s.now }).checkGate 3 s.now else s1
  let s3 := s2.sched s.now 6 .none .launchEnd (.n s.a.slot)
  if s.a.st.run = .halting then s3.sched s.now 6 .none .strandStop .none else s3

/-- Accesses that a command of the engines, of class k and scope lv, waits for before it starts: earlier ones of its class that have
not performed at its scope, and fixed ones of its own or an earlier bundle (R175, R308, R338). -/
def State.startBlockers (s : State) (id : Nat) (k : BitVec 4) (lv : BitVec 3) : List Ev :=
  s.agenda.filter fun e =>
    (e.fixed s.a.n && decide (e.seq ≤ id)) ||
      (decide (e.seq < id) && (match e.pendingAccess s.a.n with
        | some p => p.k == k && { p with lv := lv }.owed e.seq
        | none => false))

/-- When a command of the engines may look again, while an access holds it back (R175, R308, R338). -/
def State.startHold (s : State) (id : Nat) (k : BitVec 4) (lv : BitVec 3) : Option Nat :=
  let b := s.startBlockers id k lv
  if b ≠ [] then some (max (s.now + 1) (lastTick b + 1))
  else if s.a.st.ext.any fun x => x.2.cls == k && { x.2.pend x.1 with lv := lv }.owed id then some (s.now + 4)
  else none

/-- The command may start as far as the others of the engine go (R308, items 2 and 4). -/
def Atoll.copyFree (a : Atoll) (c : CCmd) : Bool :=
  !(a.cq.any fun x => decide (x.id < c.id) && x.cls == c.cls && !x.started) && decide ((a.cq.filter CCmd.started).length < 4)

/-- The path of a command crosses a direction group that has no port in service (R318). -/
def CCmd.lost (c : CCmd) (s : State) : Bool := [c.dst, c.src, c.ext].any fun a => a.sp == 1 && s.lost a.atoll

/-- A queued command starts once nothing holds it back; cpyg with a slot that R358 refuses arrives at once (R302, R308, R311). -/
def execCopyStart (s : State) : Res :=
  match s.ev.arg with
  | .n id =>
    match s.a.copy id with
    | some c =>
      if c.stop then .next (s.finishCopy c)
      else if c.started then .next s
      else if c.lost s then .next (s.finishCopy { c with code := cLink })
      else match s.startHold id c.cls c.lv with
        | some t => .next (s.again t)
        | none =>
          if !s.a.copyFree c then .next s
          else
            let s1 := (s.updCopy id fun c => { c with started := true }).kickCopies
            if c.kind = .cpyg ∧ (s.graph c.f 8).isNone then .next (s1.finishCopy { c with code := cCc })
            else if c.done = c.total then .next (s1.finishCopy c)
            else .next (s1.later s.a.n .copyBurst (.n id))
    | none => .next s
  | _ => .next s

/-- A range of rows: memory, first row and end. -/
abbrev Span := Nat × Nat × Nat

def CArea.key (a : CArea) : Nat := if a.sp ≤ 1 then a.atoll else 10 ^ 6 + a.sp

/-- The ranges of rows that units k up to n of a command write. -/
def CCmd.writesFrom (c : CCmd) (k n : Nat) : List Span :=
  let d := dstRows c.kind c.x c.y c.step
  let e := extBytes c.kind c.x c.z c.step
  [(c.dst.key, c.dst.byte / 128 + d * k, c.dst.byte / 128 + d * n)] ++
    (if c.kind.extra ∧ c.kind ≠ .unpack then
      [(c.ext.key, (c.ext.byte + e * k) / 128, (c.ext.byte + e * n + 127) / 128)] else [])

/-- The ranges of rows that unit k of a command reads or writes. -/
def CCmd.touches (c : CCmd) (k : Nat) : List Span :=
  let n := srcRows c.kind c.x c.y c.step
  let e := extBytes c.kind c.x c.z c.step
  c.writesFrom k (k + 1) ++ (if c.kind.reads then [(c.src.key, c.src.byte / 128 + n * k, c.src.byte / 128 + n * (k + 1))] else []) ++
    (if c.kind = .unpack then [(c.ext.key, (c.ext.byte + e * k) / 128, (c.ext.byte + e * (k + 1) + 127) / 128)] else [])

/-- The unit in hand must wait for a row that an earlier command is still to write (R310). -/
def Atoll.copyOrder (a : Atoll) (c : CCmd) : Bool :=
  (a.cq.filter fun x => decide (x.id < c.id)).any fun x =>
    (x.writesFrom x.unit x.units).any fun p => (c.touches c.unit).any fun q => p.1 == q.1 && decide (max p.2.1 q.2.1 < min p.2.2 q.2.2)

/-- An access that a command may make now: 0 the read at a place, or the write of a row, 1 of its destination or 2 of its second area. -/
structure CDo where
  kind : Nat
  key : Nat
  a : CArea
  row : Nat
deriving DecidableEq, Repr

/-- The accesses of the unit in hand that are still to make: its reads, and once they are made its writes. -/
def CCmd.ahead (c : CCmd) : List CDo :=
  if c.todo = [] then (c.toRead.zipIdx.filter fun r => (c.rowAt r.2).isNone).map fun r => ⟨0, r.2, r.1.a, r.1.row⟩
  else c.todo.map fun w => ⟨if w.ext then 2 else 1, w.row, if w.ext then c.ext else c.dst, w.row⟩

/-- A scratchpad operand lies in the atoll in focus. -/
def State.ownArea (s : State) (a : CArea) : Bool := decide (a.sp ≤ 1) && a.atoll == s.a.n

/-- The ring cycles of n from tick t on for which neither a strand access nor a burst has a port, before the first that has it
(R309). -/
def State.portRun (s : State) (code t n : Nat) : Nat :=
  ((List.range n).takeWhile fun i =>
    let u := t + i * s.a.div.ring
    !s.a.res.contains (u, code) && !s.a.burst.any fun b => portCode b.1 (b.2.1 == 1) == code && decide (b.2.2.1 ≤ u) &&
      decide (u < b.2.2.2)).length

/-- A frozen region access waits for a port (R309). -/
def State.portIced (s : State) (code : Nat) : Bool :=
  decide (s.now < s.a.st.iced) && s.a.res.any fun r => r.2 == code && decide (r.1 < s.a.st.iced + s.a.div.core)

/-- A row moves between CP and the place of an operand from tick t on: the tick at which it is there (R13, R16, R156, R313). -/
def State.carry (s : State) (out : Bool) (a : CArea) (row t : Nat) : Nat × State :=
  let go := fun (s : State) (lane p q t : Nat) => if out then s.ride lane p q t else s.ride lane q p t
  if s.ownArea a then go s (station row) posCP (stationPos (station row)) t
  else
    let r := go s (fnLane (if out then posCP else posXB)) posCP posXB t
    if a.sp = 1 ∧ a.atoll < 1000 then
      let x := crossLinks r.2.links (if out then meshLinks s.a.n a.atoll else meshLinks a.atoll s.a.n) r.1
      (x.1, { r.2 with links := r.2.links ++ x.2 })
    else r

/-- The engine takes a port of its own atoll for a burst of up to 8 ring cycles, as short as what is scheduled on the port asks, and
serves rows of the command there in it; what a burst writes has come to the station before (R309). -/
def State.startBurst (s : State) (c : CCmd) (f : CDo) (l : List CDo) : State :=
  let wr := f.kind != 0
  let st := station f.row
  let d := s.a.div.ring
  let g := if c.grouped && !wr then [f] else l.take 8
  let r := g.zipIdx.foldl (fun (r : Nat × State) x =>
    let y := r.2.carry true x.1.a x.1.row (s.now + x.2 * d)
    (max r.1 (y.1 - x.2 * d), y.2)) (s.now, s)
  let t := if wr then r.1 else s.now
  let n := s.portRun (portCode st wr) t g.length
  if n = 0 || s.portIced (portCode st wr) then s.again (s.now + d)
  else
    let s1 := (if wr then r.2 else s).updA fun a => { a with burst := a.burst ++ [(st, wr.toNat, t, t + n * d)] }
    (g.take n).zipIdx.foldl (fun (s : State) x => s.sched (t + x.2 * d) wr.toNat .none .copyRow (.n3 c.id x.1.kind x.1.key)) s1

/-- A row of another memory is on its way: what is written goes there, and what is read is asked for; cpyg's rows pass the reef of their
channel (R302, R313). -/
def State.startRemote (s : State) (c : CCmd) (f : CDo) : State :=
  let r := if f.kind = 0 then (s.now, s) else s.carry true f.a f.row s.now
  let i := if c.kind = .cpyg ∧ f.a.sp = 2 then Instr.reefStreamRow else .copyRow
  r.2.laterBy (r.1 - s.now) s.a.n i (.n3 c.id f.kind f.key)

/-- The launch of the atoll in focus is being saved (R312, R385). -/
def State.saving (s : State) : Bool := match s.launch with
  | some x => x.rung == 2
  | none => false

/-- The command stands at a boundary of rows or blocks, with nothing on its way (R312). -/
def CCmd.atBoundary (c : CCmd) : Bool := !c.started || (c.got.isEmpty && c.todo.isEmpty && c.out == 0)

/-- A command stops for a save at the row boundary that it has reached: the launch looks (R312, R385). -/
def State.copyPause (s : State) : State := s.sched s.now 6 .none .saveComplete (.n s.a.slot)

/-- The next access of the unit in hand leaves the atoll, whose mesh windows are shut (R102). -/
def State.copyShut (s : State) (f : CDo) : Bool := decide (s.now < s.sendsFrom) && !s.ownArea f.a

/-- The engine goes on with a command: it arrives when all is done, stops at a boundary for a save, and else starts the next accesses of
its unit, or, once the unit has read its rows, its writes (R307 to R312). -/
def execCopyBurst (s : State) : Res :=
  match s.ev.arg with
  | .n id =>
    match s.a.copy id with
    | some c =>
      let t := edgeAt s.a.div.ring s.now
      if c.stop then .next (if c.out = 0 ∨ c.code = cLink then s.finishCopy c else s)
      else if c.done = c.total then .next (if c.out = 0 then s.finishCopy c else s)
      else if s.saving ∧ c.got = [] ∧ c.todo = [] then .next s.copyPause
      else if t ≠ s.now then .next (s.again t)
      else if c.got = [] ∧ c.todo = [] ∧ s.a.copyOrder c then .next (s.again (s.now + s.a.div.ring))
      else if c.todo = [] ∧ (c.ahead = [] ∨ (s.saving ∧ c.grouped ∧ c.srcGot ≠ 0)) then
        .next ((s.updCopy id fun c => { c with todo := c.toWrite ((s.graph c.f 8).getD []) }).again s.now)
      else match c.ahead with
        | [] => .next s
        | f :: _ =>
          if s.copyShut f then .next (s.again s.sendsFrom)
          else if s.ownArea f.a then
            .next (s.startBurst c f (c.ahead.filter fun x => s.ownArea x.a && station x.row == station f.row))
          else .next (s.startRemote c f)
    | none => .next s
  | _ => .next s

/-- A row access goes through a port of an atoll of the package, at an edge of its ring: when it is to be tried, and in which phase
(R17, R152). -/
def State.holdAt (s : State) (k row : Nat) (wr : Bool) : Option (Nat × Nat) :=
  let o := s.focus k
  let t := edgeAt o.a.div.ring s.now
  if t ≠ s.now ∨ s.ev.phase ≠ wr.toNat then some (if t = s.now ∧ wr.toNat < s.ev.phase then t + o.a.div.ring else t, wr.toNat)
  else if o.portTaken row (!wr) wr || o.portHeld row (!wr) wr then some (s.now + o.a.div.ring, wr.toNat) else none

/-- An access of a command at another atoll of the package waits for that atoll's ports (R17, R152). -/
def State.copyHold (s : State) (f : CDo) : Option (Nat × Nat) :=
  if f.a.sp ≠ 1 ∨ s.ownArea f.a ∨ 1000 ≤ f.a.atoll then none else s.holdAt f.a.atoll f.row (f.kind != 0)

/-- The step in hand is tried again at a tick, in a phase. -/
def State.retry (s : State) (t ph : Nat) : State := { s with agenda := insertEv { s.ev with tick := t, phase := ph } s.agenda }

/-- The port, or the slot of a scripted channel, that an access takes (R152, R350). -/
def State.copyTake (s : State) (f : CDo) : State :=
  if f.a.sp = 2 then s.useSlot f.row
  else if f.a.sp = 1 ∧ f.a.atoll < 1000 ∧ !s.ownArea f.a then
    ((s.focus f.a.atoll).reserve (portsAt s.now f.row (f.kind == 0) (f.kind != 0)) 0).focus s.a.n
  else s

/-- A row is read for a command, with its charges (R311, R313). -/
def State.copyGet (s : State) (c : CCmd) (p : Nat) (r : CRd) : State :=
  let x := s.cRead r.a r.row
  let pay := match r.pay with
    | 0 => 0
    | 1 => s.rowCharge r.a r.row
    | _ => ajMemRow
  let work := if r.a = c.src ∧ c.kind ≠ .unpack then ajCopyRow else 0
  (x.2.chargeNow (pay + work)).updCopy c.id fun c => { c with got := c.got ++ [(p, x.1)] }.event (c.readCode x.1)

/-- A command whose last write has been made has done its unit (R312). -/
def CCmd.wrote (c : CCmd) (w : CWr) : CCmd :=
  let l := c.todo.erase w
  if l = [] then { c with todo := [], done := if c.grouped then c.done + c.srcGot else c.done + 1, got := [] } else { c with todo := l }

/-- A row is written for a command, with its charges; a row for another package leaves as a frame, which is acknowledged (R311, R313,
R435). -/
def State.copyPut (s : State) (c : CCmd) (f : CDo) (w : CWr) : State :=
  let pay := (if w.how = .resumed then 0 else s.rowCharge f.a w.row) +
    (if c.kind = .cpyz ∨ c.kind = .unpack then ajCopyRow else 0)
  let done := fun (s : State) (erased : Nat) => (s.chargeNow (pay + ajErase * erased)).updCopy c.id fun c => c.wrote w
  match f.a.sp with
  | 2 =>
    let r := s.gmPut w
    (done r.2 0).updCopy c.id fun c => if r.1 then c.event cUe else c
  | 3 => done { s with host := s.host.setRow w.row (putMasked false w.mask w.v (s.host.row w.row)) } 0
  | _ =>
    if f.a.atoll < 1000 then done (s.spPut f.a.atoll w.row w.v w.mask w.xor) (s.erased f.a.atoll w.row w.mask w.xor)
    else (done (s.sendFrame (.copyRow f.a.atoll w.row w.v w.mask w.xor c.id)) 0).updCopy c.id fun c => { c with out := c.out + 1 }

/-- The accesses of a command that are on their way. -/
def State.copyBusy (s : State) (id : Nat) : Bool :=
  s.agenda.any fun e => e.atoll == s.a.n && (e.i == .copyRow || e.i == .reefStreamRow) && match e.arg with
    | .n3 k _ _ => k == id
    | _ => false

/-- Once nothing of a command is on its way the engine goes on with it: when a row that it has read has come to CP, or in the ring cycle
after a write. -/
def State.copyOn (s : State) (id : Nat) (f : CDo) : State :=
  if s.copyBusy id then s
  else if f.kind = 0 then
    let r := s.carry false f.a f.row (edgeAt s.a.div.ring s.now)
    if s.ownArea f.a then r.2.sched r.1 6 .none .copyBurst (.n id) else r.2.laterBy (r.1 - s.now) s.a.n .copyBurst (.n id)
  else s.sched (edgeAt s.a.div.ring (s.now + 1)) 6 .none .copyBurst (.n id)

/-- One row access of a command is made (R299 to R313, R352). -/
def State.copyAccess (s : State) (id kind key : Nat) : State :=
  match s.a.copy id with
  | none => s
  | some c =>
    match c.ahead.find? fun x => x.kind == kind && x.key == key with
    | none => s
    | some f =>
      if c.stop then s.sched s.now 6 .none .copyBurst (.n id)
      else if f.a.sp = 2 ∧ !s.served f.row s.a.slot (kind != 0) then s.again s.nextCk
      else match s.copyHold f with
        | some (t, ph) => s.retry t ph
        | none =>
          let s1 := s.copyTake f
          let s2 := if kind = 0 then (match c.toRead[key]? with
              | some r => s1.copyGet c key r
              | none => s1)
            else (match c.todo.find? fun w => w.ext == (kind == 2) && w.row == key with
              | some w => s1.copyPut c f w
              | none => s1)
          s2.copyOn id f

/-- A row that a copy of another package writes here: it takes a port of its station, and is acknowledged (R17, R311, R313). -/
def State.copyArrival (s : State) (src row : Nat) (v mask : Row) (xor : Bool) (id : Nat) : State :=
  match s.holdAt s.a.n row true with
  | some (t, ph) => s.retry t ph
  | none =>
    ((s.reserve (portsAt s.now row false true) 0).spPut s.a.n row v mask xor).sendFrame (.copied src row id (s.erased s.a.n row mask xor))

/-- A row of a command (R299). -/
def execCopyRow (s : State) : Res :=
  match s.ev.arg with
  | .n3 id kind key => .next (s.copyAccess id kind key)
  | .msg _ _ _ _ ⟨src, .copyRow _ row v mask xor id⟩ => .next (s.copyArrival src row v mask xor id)
  | _ => .next s

/-- A row of cpyg at the reef of its channel, where it passes through its graph (R302, R359). -/
def execReefStreamRow (s : State) : Res :=
  match s.ev.arg with
  | .n3 id kind key => .next (s.copyAccess id kind key)
  | _ => .next s

/-- The package of a row that a command has written acknowledges it: the 1-bits that it erased are charged, and the command goes on
(R311, R313). -/
def State.copyAcked (s : State) (id erased : Nat) : State :=
  let s1 := (s.chargeNow (ajErase * erased)).updCopy id fun c => { c with out := c.out - 1 }
  match s1.a.copy id with
  | some c => if c.out = 0 ∧ (c.stop ∨ c.done = c.total) then s1.sched s.now 6 .none .copyBurst (.n id)
      else if c.out = 0 ∧ s.saving then s1.copyPause else s1
  | none => s1

/-- A command stops: it arrives with a code and leaves the rows not yet written as they are (R311). -/
def State.stopCopy (s : State) (id code : Nat) : State :=
  match s.a.copy id with
  | some c => (s.updCopy id fun c => { c with stop := true }.event code).sched s.now 6 .none
      (if c.started then .copyBurst else .copyStart) (.n id)
  | none => s

/-- The host answers a translation request of an HM access: a refusal stops the command (R311). -/
def execAtsTranslationResponse (s : State) : Res :=
  match s.ev.arg with
  | .nb id ok => .next (if ok then s else s.stopCopy id cXlat)
  | _ => .next s

end Sys2Proof.Machine
end

