-- ==== Sys2Proof/Machine/Sha.lean ====
section
/-! DEFINITION. SHA-256, which R388 names for the digests of a save area (log 17). -/

namespace Sys2Proof.Machine

/-- The greatest r with r^e at most n that agrees with r above its lowest bits, of which there are as many as the count says. -/
def rootFloor (e n : Nat) : Nat → Nat → Nat
  | 0, r => r
  | b + 1, r => rootFloor e n b (if (r + 2 ^ b) ^ e ≤ n then r + 2 ^ b else r)

/-- The first 32 bits of the fraction of the e-th root of p. -/
def rootFraction (e p : Nat) : Nat := rootFloor e (p * 2 ^ (32 * e)) 37 0 % 2 ^ 32

/-- The first 64 primes. -/
def shaPrimes : List Nat := (List.range 312).filter fun n => decide (1 < n) && (List.range n).all fun d => decide (d < 2) || n % d != 0

/-- The round constants, from the cube roots of these primes, and the initial value, from the square roots of the first eight. -/
def shaK : List Nat := shaPrimes.map (rootFraction 3)
def shaInit : List Nat := (shaPrimes.take 8).map (rootFraction 2)

/-- Rotation of a 32-bit word to the right. -/
def rotr (n x : Nat) : Nat := (x / 2 ^ n + x * 2 ^ (32 - n)) % 2 ^ 32

def sum32 (l : List Nat) : Nat := l.foldl (fun a b => a + b) 0 % 2 ^ 32

/-- The 64 words of the schedule, the latest first. -/
def shaSchedule : Nat → List Nat → List Nat
  | 0, w => w
  | n + 1, w =>
    let a := w.getD 14 0
    let b := w.getD 1 0
    let s0 := rotr 7 a ^^^ rotr 18 a ^^^ (a / 2 ^ 3)
    let s1 := rotr 17 b ^^^ rotr 19 b ^^^ (b / 2 ^ 10)
    shaSchedule n (sum32 [w.getD 15 0, s0, w.getD 6 0, s1] :: w)

/-- One round, on the working variables a to h. -/
def shaRound (v : List Nat) (k w : Nat) : List Nat :=
  let g := fun i => v.getD i 0
  let e := g 4
  let a := g 0
  let t1 := sum32 [g 7, rotr 6 e ^^^ rotr 11 e ^^^ rotr 25 e, (e &&& g 5) ^^^ ((2 ^ 32 - 1 - e) &&& g 6), k, w]
  let t2 := sum32 [rotr 2 a ^^^ rotr 13 a ^^^ rotr 22 a, (a &&& g 1) ^^^ (a &&& g 2) ^^^ (g 1 &&& g 2)]
  [sum32 [t1, t2], a, g 1, g 2, sum32 [g 3, t1], e, g 5, g 6]

/-- One block of 16 words. -/
def shaBlock (h block : List Nat) : List Nat :=
  let w := (shaSchedule 48 block.reverse).reverse
  let v := (shaK.zip w).foldl (fun v x => shaRound v x.1 x.2) h
  (h.zip v).map fun x => sum32 [x.1, x.2]

/-- Bytes as big-endian words of 32 bits. -/
def beWords : List Nat → List Nat
  | a :: b :: c :: d :: r => (a * 2 ^ 24 + b * 2 ^ 16 + c * 2 ^ 8 + d) :: beWords r
  | _ => []

/-- The message with its padding and length. -/
def shaPad (m : List Nat) : List Nat :=
  let n := m.length
  m ++ [0x80] ++ List.replicate ((119 - n % 64) % 64) 0 ++ (List.range 8).map fun i => 8 * n / 2 ^ (8 * (7 - i)) % 256

/-- The blocks of a list of words, n of them. -/
def shaBlocks : Nat → List Nat → List Nat → List Nat
  | 0, h, _ => h
  | n + 1, h, w => shaBlocks n (shaBlock h (w.take 16)) (w.drop 16)

/-- SHA-256 of a list of bytes, as its 32 bytes. -/
def sha256 (m : List Nat) : List Nat :=
  let p := shaPad m
  (shaBlocks (p.length / 64) shaInit (beWords p)).flatMap fun x => [x / 2 ^ 24 % 256, x / 2 ^ 16 % 256, x / 2 ^ 8 % 256, x % 256]

end Sys2Proof.Machine
end

