-- ==== Sys2Proof/Machine/Link.lean ====
section
/-! DEFINITION. The link engine (R319 to R343): precision counters, tiles, senders, receivers and relays, cancels and ends, and the
checks at issue of its instructions. -/

namespace Sys2Proof.Machine

/-! ## Precision counters (R323, R324) -/

def cCancel : Nat := 6

/-- A counter of its fields (R323). -/
def ctrWord (st role : Nat) (fillw mono : Bool) (total landed code : Nat) : Word :=
  BitVec.ofNat 64 (st * 2 ^ 60 + role * 2 ^ 58 + fillw.toNat * 2 ^ 57 + mono.toNat * 2 ^ 56 + total * 2 ^ 51 + landed * 2 ^ 46 +
    code * 2 ^ 38)

def ctrState (w : Word) : Nat := fld w 60 4
def ctrTotal (w : Word) : Nat := fld w 51 5
def ctrLanded (w : Word) : Nat := fld w 46 5

def State.ctrOf (s : State) (tile : Nat) : Word := SMap.get s.a.ctr tile

/-- A tile is busy while it is POSTED, OPEN or SENDING (R324). -/
def State.tileBusy (s : State) (tile : Nat) : Bool := 1 ≤ ctrState (s.ctrOf tile) && ctrState (s.ctrOf tile) ≤ 3

/-- lwprec's wait is over (R337). -/
def ctrReached (w : Word) (n : Nat) : Bool := n ≤ ctrLanded w || 4 ≤ ctrState w

/-- The wait of an lwprec that a counter's new value satisfies. -/
def Wait.onCtr (tile : Nat) (w : Word) : Wait → Bool
  | .lwprec _ t n => t == tile && ctrReached w n
  | _ => false

/-- A counter changes; a waiting lwprec that it satisfies returns it (R337). -/
def State.setCtr (s : State) (tile : Nat) (w : Word) : State :=
  let s1 := s.updA fun a => { a with ctr := SMap.set a.ctr tile w }
  match s1.waiting (Wait.onCtr tile w) with
  | some (.lwprec d t n) => (s1.landIn 1 (.s d) w).resume (.lwprec d t n) 1
  | _ => s1

/-- LANDED takes a value (R324). -/
def State.setLanded (s : State) (tile n : Nat) : State := s.setCtr tile (setBits (s.ctrOf tile) 46 5 n)

/-- A counter ends in a state with a code (R324, R339). -/
def State.endCtr (s : State) (tile st code : Nat) : State :=
  s.setCtr tile (setBits (setBits (s.ctrOf tile) 60 4 st) 38 8 code)

/-! ## Tiles (R319 to R322) -/

/-- The first row of plane p of a buffer (R319). -/
def planeRow (buf p : Nat) : Nat := buf + 4 * p - 3

def hdrMono (h : Row) : Bool := h.getLsbD 256
def hdrP (h : Row) : Nat := min 24 (fld h 264 8)

/-- The exponent byte of shoal j; 0x80 is null (R320). -/
def hdrExp (h : Row) (j : Nat) : Option Int := if elem 8 h j = 0x80 then none else some (signedOf 8 (elem 8 h j))

/-- The digit code of element g in a plane (R319). -/
def planeCode (p : List Row) (g : Nat) : Nat := elem 2 (p.getD (g / 512) 0) (g % 512)

/-- A plane of 2,048 digit codes as its four rows. -/
def planeOf (f : Nat → Nat) : List Row := (List.range 4).map fun r => rowOf 2 fun j => f (512 * r + j)

/-- The 1-bits of the digit codes of a plane. -/
def planePop (p : List Row) : Nat := p.foldl (fun n r => n + pop r) 0

/-! ## Rows of the scratchpad, with their charges (R340) -/

/-- Hops between a station and LK (R340). -/
def lkHops (row : Nat) : Nat := hops (stationPos (station row)) posLK

/-- A row read by LK through its station's read port; it takes its lane to LK (R16, R152, R340). -/
def State.lkRead (s : State) (row : Nat) : Row × State :=
  let s1 := (s.chargeNow (ajRow + ajHop * lkHops row)).reserve (portsAt s.now row true false) 0
  (s.a.sp.row row, (s1.ride (station row) (stationPos (station row)) posLK s.now).2)

/-- A row written by LK through its station's write port (R152, R340). -/
def State.lkWrite (s : State) (row : Nat) (v : Row) : State :=
  ((s.chargeNow (ajRow + ajHop * lkHops row + ajErase * pop (s.a.sp.row row))).reserve (portsAt s.now row false true) 0).spSetRow row v

/-- The four rows of plane p read from a buffer. -/
def State.lkReadPlane (s : State) (buf p : Nat) : List Row × State :=
  (List.range 4).foldl (fun (r : List Row × State) i =>
    let x := r.2.lkRead (planeRow buf p + i)
    (r.1 ++ [x.1], x.2)) ([], s)

/-- The four rows of plane p written into a buffer. -/
def State.lkWritePlane (s : State) (buf p : Nat) (l : List Row) : State :=
  (l.zipIdx).foldl (fun (s : State) x => s.lkWrite (planeRow buf p + x.2) x.1) s

/-- The step in hand, put off while the link engine cannot make its row accesses: to the next ring edge, or for writes until the rows
have come from position `from'` to their stations, and then while a strand access, a copy burst or another arrival has one of the
ports (R16, R152, R153). -/
def State.lkHold (s : State) (from' : Nat) (rows : List Nat) (wr : Bool) : Option State :=
  let e := edgeAt s.a.div.ring (s.now + 1)
  if rows = [] then none
  else if s.ev.phase = 6 then
    let r := if wr then rows.foldl (fun (r : Nat × State) row =>
      let y := r.2.ride (station row) from' (stationPos (station row)) e
      (max r.1 y.1, y.2)) (e, s) else (e, s)
    some { r.2 with agenda := insertEv { s.ev with tick := r.1, phase := wr.toNat } r.2.agenda }
  else if rows.any fun r => s.portTaken r (!wr) wr || s.portHeld r (!wr) wr then some (s.again (s.now + s.a.div.ring)) else none

def planeRows (buf p : Nat) : List Nat := (List.range 4).map fun i => planeRow buf p + i

/-! ## Messages (R327, R328, R332) -/

/-- A header, plane or end on its way to an atoll: a stream arrives in the order in which it was sent (R317). -/
def Ev.streamTo (k : Nat) (e : Ev) : Bool :=
  e.atoll == k && (e.i == .tileHeaderArrival || e.i == .planeLanded || e.i == .endMessage)

/-- A header, a plane or an end leaves for atoll k: its flits cross the mesh one behind the other, and it comes to pass after a nominal
time beyond; for another package they leave as frames, one for each row (R13, R315). -/
def State.streamStep (s : State) (k : Nat) (i : Instr) (arg : Arg) (l : List Msg) : State :=
  if 1000 ≤ k then l.foldl State.sendFrame s
  else
    let x := l.foldl (fun (r : Nat × State) _ =>
      let y := crossLinks r.2.links (meshLinks s.a.n k) (if k = s.a.n then s.now else s.sendsFrom)
      (max r.1 y.1, { r.2 with links := r.2.links ++ y.2 })) (s.now, s)
    let t := max (x.1 + Config.nominal s.free) (lastTick (s.agenda.filter (Ev.streamTo k)) + 1)
    { x.2 with free := s.free + 1 }.schedAt k t 6 .none i arg

/-- The name of the atoll in focus to the receiver of a stream. -/
def State.nameTo (s : State) (peer : Nat) : Nat := if 1000 ≤ peer then s.nameOf s.a.n else s.a.n

/-- The number of a command's stream: it holds the tile in its low byte, and tells the command from any other. -/
def LCmd.stream (c : LCmd) : Nat := c.id * 256 + c.tile

/-- A command sends a header or a plane; each row sent is charged (R340). -/
def State.lkSend (s : State) (c : LCmd) (p : Nat) (l : List Row) : State :=
  let src := s.nameTo c.peer
  let s0 := s.chargeNow (l.length * (4 * ajHop + ajStrait * s.straits c.peer))
  let s1 := l.foldl (fun (s : State) _ => (s.ride (fnLane posLK) posLK posXB (edgeAt s.a.div.ring s.now)).2) s0
  if p = 0 then
    s1.streamStep c.peer .tileHeaderArrival (.hdr c.u src c.stream (l.getD 0 0)) [.header c.peer c.u src c.stream (l.getD 0 0)]
  else s1.streamStep c.peer .planeLanded (.rows l c.u p src c.stream)
    (l.zipIdx.map fun r => .plane c.peer c.u src c.stream p r.2 r.1)

/-- An end goes downstream (R327). -/
def State.lkEnd (s : State) (c : LCmd) : State :=
  let src := s.nameTo c.peer
  s.streamStep c.peer .endMessage (.n3 c.u src c.stream) [.endStream c.peer c.u src c.stream]

/-- A cancel, or an acknowledgement, goes upstream to the source of a stream. -/
def State.lkCancel (s : State) (src stile : Nat) : State := s.toAtoll src .cancelMessage (.n stile) (.cancel src stile)
def State.lkAck (s : State) (src stile : Nat) : State := s.toAtoll src .linkCommandArrive (.nb stile true) (.ack src stile)

/-! ## The queue (R338) -/

def Atoll.link (a : Atoll) (id : Nat) : Option LCmd := a.lq.find? fun c => c.id == id

def State.updLink (s : State) (id : Nat) (f : LCmd → LCmd) : State :=
  s.updA fun a => { a with lq := a.lq.map fun c => if c.id = id then f c else c }

/-- The started command that receives on a tile (R334). -/
def Atoll.receiver (a : Atoll) (tile : Nat) : Option LCmd :=
  a.lq.find? fun c => c.started && (c.kind == .recv || c.kind == .relay) &&
    (c.tile == tile || (c.kind == .relay && c.s2 && (c.tile + 1) % 256 == tile))

/-- Each command that has not started looks at once whether it can. -/
def State.kickLinks (s : State) : State :=
  (s.a.lq.filter fun c => !c.started).foldl (fun (s : State) c =>
    (s.unsched fun e => e.i == .linkCommandArrive && e.atoll == s.a.n && e.arg == .n c.id).sched s.now 6 .none .linkCommandArrive
      (.n c.id)) s

/-- A command arrives on its barrier and leaves the queue (R339). -/
def State.finishLink (s : State) (c : LCmd) (code : Nat) : State :=
  let s1 := ((s.updA fun a => { a with lq := a.lq.filter fun x => x.id != c.id }).engineArrive c.barAt c.bar c.ph code).kickLinks
  s1.sched s.now 6 .none .launchEnd (.n s.a.slot)

/-- The tiles of a command. -/
def LCmd.tiles (c : LCmd) : List Nat := if c.kind = .relay ∧ c.s2 then [c.tile, (c.tile + 1) % 256] else [c.tile]

/-- A command ends in a state with a completion code (R339). -/
def State.endLink (s : State) (c : LCmd) (st code : Nat) : State :=
  (c.tiles.foldl (fun (s : State) t => s.endCtr t st code) s).finishLink c code

/-! ## Streams -/

def Stream.is (x : Stream) (tile src stile : Nat) : Bool := x.tile == tile && x.src == src && x.stile == stile

/-- The stream that a started command receives on a tile. -/
def Atoll.stream (a : Atoll) (tile : Nat) : Option Stream := a.ins.find? fun x => x.tile == tile && !x.ended

def State.updStream (s : State) (x : Stream) (f : Stream → Stream) : State :=
  s.updA fun a => { a with ins := a.ins.map fun y => if y.is x.tile x.src x.stile then f y else y }

/-- The charge of digits to the strand that sent them; one of another package hears of it in a refusal (R328, R340). -/
def State.chargeSender (s : State) (src amount : Nat) : State :=
  if src < 1000 then s.chargeOf src amount else if amount = 0 then s else s.sendFrame (.refusal src amount)

/-- Fill of R322: the sign of the first nonzero landed digit of each element. -/
def fillPlane (h : Row) (planes : List (List Row)) : List Row :=
  planeOf fun g =>
    if (hdrExp h (g / 64)).isNone then 0
    else ((planes.map fun p => planeCode p g).find? fun c => digitOf c != 0).getD 0

/-- A receive's stream has ended early: the fill plane of R322 is written when its mode asks for one, from the digits that have landed;
a receive that an import has restored takes them from its buffer (log 27). -/
def State.fill (s : State) (c : LCmd) (x : Stream) : State :=
  let w := s.ctrOf c.tile
  let n := ctrLanded w
  if n < ctrTotal w ∧ n < c.p ∧ c.fill ∧ hdrMono x.hdr then
    let planes := if x.planes.length < n then (List.range n).map fun k => (planeRows c.buf (k + 1)).map fun r => s.a.sp.row r
      else x.planes.take n
    let s1 := s.lkWritePlane c.buf (n + 1) (fillPlane x.hdr planes)
    s1.setCtr c.tile (setBits (s1.ctrOf c.tile) 57 1 1)
  else s

/-! ## Online addition (R325, R326) -/

/-- The exponent of the sum of a shoal before growth: the larger of the exponents that are not null; none when both are null. -/
def sumExp (x y : Row) (j : Nat) : Option Int :=
  match hdrExp x j, hdrExp y j with
  | some a, some b => some (max a b)
  | some a, none => some a
  | none, b => b

/-- The output has an exponent in this shoal: R325 gives a null shoal for 127. -/
def sumLive (x y : Row) (j : Nat) : Option Int :=
  match sumExp x y j with
  | some e => if e = 127 then none else some e
  | none => none

/-- The planes of the output stream (R325). -/
def sumP (x y : Stream) : Nat := min 24 (max (hdrP x.hdr) (hdrP y.hdr) + 1)

/-- The header of the output stream (R320, R325). -/
def sumHeader (x y : Stream) : Row :=
  BitVec.ofNat 1024 (packEls 8 (fun j => match sumLive x.hdr y.hdr j with
    | some e => wrapTo 8 (e + 1)
    | none => 0x80) 32 + sumP x y * 2 ^ 264)

/-- al of R325: the digit of a stream that is aligned with index i. -/
def aligned (x : Stream) (po g : Nat) (e : Int) (i : Nat) : Int :=
  match hdrExp x.hdr (g / 64) with
  | none => 0
  | some ev =>
    let k := (i : Int) - (e - ev)
    if 1 ≤ k ∧ k ≤ (hdrP x.hdr : Int) ∧ i < po then digitOf (planeCode (x.planes.getD (k.toNat - 1) []) g) else 0

/-- split of R325. -/
def splitDigit (t tn : Int) : Int × Int :=
  if t = 2 then (1, 0) else if t = -2 then (-1, 0) else if t = 0 then (0, 0)
  else if 0 ≤ tn then (if t = 1 then (1, -1) else (0, -1)) else (if t = 1 then (0, 1) else (-1, 1))

/-- Digit j of the sum of element g (R325). -/
def sumDigit (x y : Stream) (j g : Nat) : Int :=
  match sumLive x.hdr y.hdr (g / 64) with
  | none => 0
  | some e =>
    let po := sumP x y
    let t := fun i => if i = 0 then 0 else aligned x po g e i + aligned y po g e i
    let sp := fun i => splitDigit (t i) (if i < po then t (i + 1) else 0)
    (if j = 1 then 0 else (sp (j - 1)).2) + (sp j).1

/-- Plane j of the sum. -/
def sumPlane (x y : Stream) (j : Nat) : List Row := planeOf fun g => digitCode (sumDigit x y j g)

/-- The elements of a stream's shoals that are not null and that the sum keeps. -/
def liveElems (x y : Stream) : List Nat :=
  (List.range 2048).filter fun g => (hdrExp x.hdr (g / 64)).isSome && (sumLive x.hdr y.hdr (g / 64)).isSome

/-- The 1-bits of the digits of x that fall at an aligned index of po or more (R325, R340). -/
def droppedOf (x y : Stream) : Nat :=
  let po := sumP x y
  (liveElems x y).foldl (fun n g =>
    let d := match hdrExp x.hdr (g / 64), sumLive x.hdr y.hdr (g / 64) with
      | some ev, some e => (e - ev).toNat
      | _, _ => 0
    n + ((x.planes.zipIdx).foldl (fun n p =>
      if po ≤ p.2 + 1 + d then n + popNat 2 (planeCode p.1 g) else n) 0)) 0

/-- A reserved digit stands among the landed planes of x, or an exponent overflows (R325). -/
def sumBad (x y : Stream) : Bool :=
  ((List.range 32).any fun j => sumExp x.hdr y.hdr j == some 127) ||
    (liveElems x y).any fun g => x.planes.any fun p => planeCode p g == 2

/-- The two inputs of a relay, once both headers have landed: the second is the local tile when S2 = 0. -/
def Atoll.inputs (a : Atoll) (c : LCmd) : Option (Stream × Stream) :=
  match a.stream c.tile, a.stream (if c.s2 then (c.tile + 1) % 256 else 256 + c.tile) with
  | some x, some y => some (x, y)
  | _, _ => none

/-- A relay looks at once whether it can go on (R326). -/
def State.kickRelay (s : State) (id : Nat) : State :=
  if s.agenda.any fun e => e.i == .relayPlaneSend && e.atoll == s.a.n && e.arg == .n id then s
  else s.later s.a.n .relayPlaneSend (.n id)

/-- Streams of a finished command leave the table; those cut short stay until their end arrives, so that planes that still land
are discarded at the receiver's charge (R327). -/
def State.dropStreams (s : State) (c : LCmd) (cut : Bool) : State :=
  s.updA fun a =>
    let l := a.ins.filter fun x => !((c.tiles.contains x.tile && !x.ended && !cut) || x.tile == 256 + c.tile)
    { a with ins := l.map fun x => if c.tiles.contains x.tile then { x with ended := true, planes := [] } else x }

/-- The charge of the digits a relay has dropped (R325, R340). -/
def State.chargeDropped (s : State) (c : LCmd) : State :=
  match c.kind, s.a.inputs c with
  | .relay, some (x, y) => s.chargeNow (ajErase * (droppedOf x y + droppedOf y x))
  | _, _ => s

/-- A command that has started stops short (R327, R339): cancels go to its sources but the one that has ended, an end goes
downstream, a receive is filled, and it arrives with a code. -/
def State.stopLink (s : State) (c : LCmd) (gone : Option Stream) (st code : Nat) : State :=
  let live := s.a.ins.filter fun x => c.tiles.contains x.tile && !x.ended && some x != gone
  let s1 := if c.kind = .recv ∨ c.kind = .relay then
    live.foldl (fun (s : State) x => s.lkCancel x.src x.stile) s else s
  let s2 := if c.kind = .send ∨ (c.kind = .relay ∧ c.fwd) then s1.lkEnd c else s1
  let s3 := match c.kind, s.a.stream c.tile with
    | .recv, some x => s2.fill c x
    | _, _ => s2.chargeDropped c
  let s4 := s3.dropStreams c true
  let s5 := match gone with
    | some x => s4.updA fun a => { a with ins := a.ins.filter fun y => !y.is x.tile x.src x.stile }
    | none => s4
  s5.endLink c st code

/-- A relay ends as it should: with C_DIGIT when one is recorded (R334, R339). -/
def State.endRelay (s : State) (c : LCmd) : State :=
  let bad := match s.a.inputs c with
    | some (x, y) => sumBad x y || sumBad y x
    | none => false
  let s1 := (s.chargeDropped c).dropStreams c false
  if bad then s1.endLink c 6 cDigit else s1.endLink c 4 0

/-- The relay's output header leaves once both input headers have landed, and output plane j once each streamed input has landed
min(j + 1, its P) planes (R326). -/
def execRelayPlaneSend (s : State) : Res :=
  match s.ev.arg with
  | .n id =>
    match s.a.link id with
    | some c =>
      match s.a.inputs c with
      | none => .next s
      | some (x, y) =>
        let po := sumP x y
        let j := c.sent + 1
        if !c.hdr then
          match s.lkHold posLK (if c.loc then [c.buf] else []) true with
          | some t => .next t
          | none =>
            let h := sumHeader x y
            let s1 := if c.fwd then s.lkSend c 0 [h] else s
            let s2 := if c.loc then s1.lkWrite c.buf h else s1
            let s3 := s2.setCtr c.tile (ctrWord 2 2 false false po 0 0)
            .next ((s3.updLink id fun c => { c with hdr := true }).later s.a.n .relayPlaneSend (.n id))
        else if po < j then (if c.fwd ∧ !c.acked then .next s else .next (s.endRelay c))
        else if x.p < min (j + 1) (hdrP x.hdr) ∨ (c.s2 ∧ y.p < min (j + 1) (hdrP y.hdr)) then .next s
        else if !c.s2 ∧ y.planes.length < min (j + 1) (hdrP y.hdr) then
          match s.lkHold posLK (planeRows c.opnd (y.planes.length + 1)) false with
          | some t => .next t
          | none =>
            let r := s.lkReadPlane c.opnd (y.planes.length + 1)
            .next ((r.2.updStream y fun y => { y with planes := y.planes ++ [r.1], p := y.p + 1 }).sched (s.now + s.a.div.ring) 6 .none
              .relayPlaneSend (.n id))
        else match s.lkHold posLK (if c.loc then planeRows c.buf j else []) true with
          | some t => .next t
          | none =>
            let l := sumPlane x y j
            let s1 := if c.fwd then s.lkSend c j l else s
            let s2 := if c.loc then s1.lkWritePlane c.buf j l else s1
            .next (((s2.setLanded c.tile j).updLink id fun c => { c with sent := j }).later s.a.n .relayPlaneSend (.n id))
    | none => .next s
  | _ => .next s

/-! ## Senders (R332) -/

/-- A plane of an lsend leaves the atoll (R332). -/
def execPlaneSent (s : State) : Res :=
  match s.ev.arg with
  | .n2 id p =>
    match s.a.link id with
    | some c =>
      match s.lkHold posLK (planeRows c.buf p) false with
      | some t => .next t
      | none =>
        let r := s.lkReadPlane c.buf p
        let s1 := ((r.2.lkSend c p r.1).setLanded c.tile p).updLink id fun c => { c with sent := p }
        .next (if p < c.p then s1.later s.a.n .planeSent (.n2 id (p + 1)) else s1)
    | none => .next s
  | _ => .next s

/-! ## Arrivals (R324, R327, R328, R333) -/

/-- A step of a stream that a step sent before it has still to come to pass, because its rows wait for their ports. -/
def State.behind (s : State) (tile src stile p : Nat) : Bool :=
  s.agenda.any fun e => e.atoll == s.a.n &&
    (match e.i, e.arg with
     | .tileHeaderArrival, .hdr t r st _ => t == tile && r == src && st == stile
     | .planeLanded, .rows _ t q r st => t == tile && r == src && st == stile && decide (q < p)
     | _, _ => false)

/-- A header is refused: a cancel goes upstream, and what still comes of its stream is discarded at its sender's charge (R328). -/
def State.refuseHeader (s : State) (x : Stream) : State :=
  let s1 := (s.chargeSender x.src (ajErase * x.planes.foldl (fun n p => n + planePop p) 0)).lkCancel x.src x.stile
  if x.ended then s1 else s1.updA fun a => { a with ins := a.ins ++ [{ x with planes := [], ended := true, refused := true }] }

/-- A plane lands on the stream that a command receives (R324, R333). -/
def State.landPlane (s : State) (c : LCmd) (x : Stream) (p : Nat) (l : List Row) : State :=
  let s0 := s.chargeNow (l.length * 4 * ajHop)
  let n := x.p + 1
  let s1 := s0.updStream x fun x => { x with p := n, planes := if c.kind = .relay ∨ c.fill then x.planes ++ [l] else x.planes }
  let last := hdrP x.hdr ≤ n
  let s2 := if c.kind = .recv then
      (if p ≤ c.p then (s1.lkWritePlane c.buf p l).setLanded c.tile p else s1.chargeNow (ajErase * planePop l))
    else if x.tile ≠ c.tile then s1.setLanded x.tile n else s1
  let s3 := if last then s2.lkAck x.src x.stile else s2
  if c.kind = .relay then s3.kickRelay c.id
  else if last then (s3.dropStreams c false).endLink c 4 0 else s3

/-- A stream's header is accepted by the command that has posted its tile (R328, R333, R334). -/
def State.acceptHeader (s : State) (c : LCmd) (x : Stream) : State :=
  let s1 := (s.chargeNow (4 * ajHop)).updA fun a => { a with ins := a.ins ++ [{ x with p := 0, planes := [], ended := false }] }
  let s2 := if c.kind = .recv then
      (s1.lkWrite c.buf x.hdr).setCtr c.tile (ctrWord 2 1 false (hdrMono x.hdr) (hdrP x.hdr) 0 0)
    else (if x.tile ≠ c.tile then s1.setCtr x.tile (ctrWord 2 3 false (hdrMono x.hdr) (hdrP x.hdr) 0 0) else s1).kickRelay c.id
  let s3 := (x.planes.zipIdx).foldl (fun (s : State) p => match s.a.link c.id, s.a.stream x.tile with
    | some c, some y => s.landPlane c y (p.2 + 1) p.1
    | _, _ => s) s2
  match s3.a.link c.id, s3.a.stream x.tile with
  | some c, some y =>
    if hdrP y.hdr = 0 ∧ c.kind = .recv then (s3.dropStreams c false).endLink c 4 0
    else if x.ended then s3.stopLink c (some y) 5 cCancel else s3
  | _, _ => s3

/-- A tile header arrives: it is accepted, held or refused (R328). -/
def execTileHeaderArrival (s : State) : Res :=
  match s.ev.arg with
  | .hdr tile src stile h =>
    let x : Stream := { tile := tile, src := src, stile := stile, hdr := h, p := 0, planes := [], ended := false, refused := false }
    match (if ctrState (s.ctrOf tile) = 1 ∧ (s.a.stream tile).isNone then s.a.receiver tile else none) with
    | some c =>
      match s.lkHold posXB (if c.kind = .recv then [c.buf] else []) true with
      | some t => .next t
      | none => .next (s.acceptHeader c x)
    | none =>
      if s.a.refuse.contains tile then
        .next ((s.updA fun a => { a with refuse := a.refuse.filter fun t => t != tile }).refuseHeader x)
      else if s.a.held.any fun y => y.tile == tile then .next (s.refuseHeader x)
      else .next (s.updA fun a => { a with held := a.held ++ [x] })
  | _ => .next s

/-- A plane of a stream that has ended here is discarded: at the receiver's charge, or at the sender's when its header was refused (R327,
R328). -/
def State.discardPlane (s : State) (x : Stream) (l : List Row) : State :=
  if x.refused then s.chargeSender x.src (ajErase * planePop l) else s.chargeNow (l.length * 4 * ajHop + ajErase * planePop l)

/-- A plane has arrived, and its four rows are written at once; a plane of a held header waits with it, and one of a cancelled or
refused stream is discarded (R324, R327, R328). -/
def execPlaneLanded (s : State) : Res :=
  match s.ev.arg with
  | .rows l tile p src stile =>
    if s.behind tile src stile p then .next (s.again (s.now + s.a.div.ring))
    else match s.a.ins.find? fun x => x.is tile src stile, s.a.receiver tile with
      | some x, some c =>
        if x.ended then .next (s.discardPlane x l)
        else match s.lkHold posXB (if c.kind = .recv ∧ p ≤ c.p then planeRows c.buf p else []) true with
          | some t => .next t
          | none => .next (s.landPlane c x p l)
      | some x, none => .next (s.discardPlane x l)
      | none, _ =>
        if s.a.held.any fun y => y.is tile src stile then
          .next (s.updA fun a => { a with held := a.held.map fun y => if y.is tile src stile then { y with planes := y.planes ++ [l] } else y })
        else .next (s.chargeSender src (ajErase * planePop l))
  | _ => .next s

/-- A cancel arrives for a stream that a command of this atoll sends (R327). -/
def execCancelMessage (s : State) : Res :=
  match s.ev.arg with
  | .n stile =>
    match s.a.link (stile / 256) with
    | some c => .next (s.stopLink c none 5 cCancel)
    | none => .next s
  | _ => .next s

/-- An end arrives: the stream ends at LANDED planes, and a relay is cancelled; a POSTED receiver to which the end of a stream comes
without its header ends with no plane (R327). -/
def execEndMessage (s : State) : Res :=
  match s.ev.arg with
  | .n3 tile src stile =>
    if s.behind tile src stile 100 then .next (s.again (s.now + s.a.div.ring))
    else match s.a.ins.find? fun x => x.is tile src stile, s.a.receiver tile with
      | some x, some c =>
        if x.ended then .next (s.updA fun a => { a with ins := a.ins.filter fun y => !y.is tile src stile })
        else .next (s.stopLink c (some x) 5 cCancel)
      | some _, none => .next (s.updA fun a => { a with ins := a.ins.filter fun y => !y.is tile src stile })
      | none, c =>
        let s1 := s.updA fun a => { a with held := a.held.map fun y => if y.is tile src stile then { y with ended := true } else y }
        (match c with
         | some c => .next (if s.a.held.any (fun y => y.is tile src stile) || (s.a.stream tile).isSome then s1 else s1.stopLink c none 5 cCancel)
         | none => .next s1)
  | _ => .next s

/-! ## Starting and completing (R332 to R334, R338, R339) -/

/-- A posted tile takes the header that it holds, and an armed refusal is cleared (R328). -/
def State.postTile (s : State) (id tile : Nat) : State :=
  let s1 := s.updA fun a => { a with refuse := a.refuse.filter fun t => t != tile }
  match s1.a.held.find? fun x => x.tile == tile, s1.a.link id with
  | some x, some c => (s1.updA fun a => { a with held := a.held.filter fun y => y.tile != tile }).acceptHeader c x
  | _, _ => s1

/-- The near-memory command goes to the reef of its first row (R361). -/
def State.startNmc (s : State) (c : LCmd) : State := (s.chargeNow (4 * ajHop)).later s.a.n .nmcReefCheck (.n c.id)

/-- A command starts (R332 to R334, R361). -/
def State.startLink (s0 : State) (c : LCmd) : State :=
  let s := (s0.updLink c.id fun c => { c with started := true }).kickLinks
  match c.kind with
  | .send =>
    let r := (s.setCtr c.tile (ctrWord 3 0 false false c.p 0 0)).lkRead c.buf
    let h := BitVec.ofNat 1024 (r.1.toNat % 2 ^ 264 + c.p * 2 ^ 264)
    ((r.2.lkSend c 0 [h]).updLink c.id fun c => { c with hdr := true }).later s.a.n .planeSent (.n2 c.id 1)
  | .recv => (s.setCtr c.tile (ctrWord 1 1 false false 0 0 0)).postTile c.id c.tile
  | .relay =>
    let s1 := s.setCtr c.tile (ctrWord 1 2 false false 0 0 0)
    if c.s2 then
      ((s1.setCtr ((c.tile + 1) % 256) (ctrWord 1 3 false false 0 0 0)).postTile c.id c.tile).postTile c.id ((c.tile + 1) % 256)
    else
      let r := s1.lkRead c.opnd
      (r.2.updA fun a => { a with ins := a.ins ++ [{ tile := 256 + c.tile, src := s.a.n, stile := 0, hdr := r.1, p := 0, planes := []
                                                     ended := false, refused := false }] }).postTile c.id c.tile
  | .nmc => s.startNmc c

/-- The path of a command, of what it sends or of a stream that it receives, crosses a direction group with no port in service (R318). -/
def LCmd.lost (c : LCmd) (s : State) : Bool :=
  ((c.kind == .send || (c.kind == .relay && c.fwd)) && s.lost c.peer) ||
    ((c.kind == .recv || c.kind == .relay) && s.a.ins.any fun x => c.tiles.contains x.tile && !x.ended && s.lost x.src)

/-- The link engine looks at a command: it starts when nothing holds it back; the acknowledgement of its last plane completes it
(R332, R334, R338, R339). -/
def execLinkCommandArrive (s : State) : Res :=
  match s.ev.arg with
  | .n id =>
    match s.a.link id with
    | some c =>
      if c.started then .next s
      else if c.stop then .next (s.finishLink c c.code)
      else if c.lost s then .next (s.endLink c 6 cLink)
      else match s.startHold id c.cls c.lv with
        | some t => .next (s.again t)
        | none =>
          if s.a.lq.any fun x => decide (x.id < c.id) && x.cls == c.cls && !x.started then .next s
          else if c.kind != .nmc && c.tiles.any s.tileBusy then .next s
          else match s.lkHold posLK (if c.kind = .send then [c.buf] else if c.kind = .relay ∧ !c.s2 then [c.opnd] else []) false with
            | some t => .next t
            | none => .next (s.startLink c)
    | none => .next s
  | .nb stile _ =>
    match s.a.link (stile / 256) with
    | some c =>
      if c.kind = .send then .next (s.endLink c 4 0)
      else .next ((s.updLink c.id fun c => { c with acked := true }).kickRelay c.id)
    | none => .next s
  | _ => .next s

/-! ## Issue (R329 to R338) -/

/-- A buffer or operand of n rows after its header: local, and within the scratchpad (R331). -/
def State.bufTrap (s : State) (a : Word) (n : Nat) : Option Trap :=
  firstTrap [s.eaTrap a true, trapIf (decide (49151 < eaRow a + n)) tData 0x10]

/-- The receiving atoll: RM set, BYTE and the reserved bits zero, within the launch's rectangle (R331). -/
def State.peerTrap (s : State) (a : Word) : Option Trap :=
  firstTrap [trapIf (!eaRemote a || eaByte a != 0 || fld a 23 16 != 0 || fld a 58 6 != 0) tData 0x10, s.eaTrap a false]

/-- A tile that is busy (R331). -/
def State.busyTrap (s : State) (tile : Nat) (s2 : Bool) : Option Trap :=
  trapIf (s.tileBusy tile || (s2 && s.tileBusy ((tile + 1) % 256))) tData (0x60 + tile * 2 ^ 8)

/-- A command of the link engine before its fields are set. -/
def State.newLink (s : State) (kind : LKind) (tile : Nat) (bar : Word) (vals : List Word) : LCmd :=
  { id := s.ev.seq, kind := kind, cls := s.cls 12, lv := s.scope, tile := tile, u := 0, peer := s.a.n, buf := 0, opnd := 0, bar := eaByte bar
    barAt := s.owner bar, ph := eaPh bar, p := 0, fill := false, s2 := false, loc := false, fwd := false, started := false, hdr := false
    sent := 0, acked := false, code := 0, stop := false, frame := 0, row := 0, lim := 0, pw := 0, slot := 0, w := s.cmdWords vals }

/-- A command enters the queue; when the link engine looks at it is nominal (R338). -/
def State.enqueueLink (s : State) (c : LCmd) : State :=
  (s.updA fun a => { a with lq := a.lq ++ [c] }).later s.a.n .linkCommandArrive (.n c.id)

def trapsLsend (o : LsendOp) (s : State) : Option Trap :=
  firstTrap [s.bufTrap (s.rdS o.a) (4 * (o.p.toNat + 1)), s.peerTrap (s.rdS o.b), s.eaTrap (s.rdS o.c) false,
    s.busyTrap o.tile.toNat false]

/-- The command of an lsend. -/
def lsendCmd (o : LsendOp) (s : State) : LCmd :=
  { s.newLink .send o.tile.toNat (s.rdS o.c) [s.rdS o.a, s.rdS o.b, s.rdS o.c] with
    buf := eaRow (s.rdS o.a), peer := s.owner (s.rdS o.b), u := o.u.toNat, p := o.p.toNat + 1 }

/-- lsend (R332). -/
def execLsend (o : LsendOp) (s : State) : Res := s.unless (trapsLsend o s) (s.enqueueLink (lsendCmd o s))

def trapsLrecv (o : LrecvOp) (s : State) : Option Trap :=
  firstTrap [s.bufTrap (s.rdS o.a) (4 * (o.n.toNat + 1)), s.eaTrap (s.rdS o.c) false, s.busyTrap o.tile.toNat false]

/-- The command of an lrecv. -/
def lrecvCmd (o : LrecvOp) (s : State) : LCmd :=
  { s.newLink .recv o.tile.toNat (s.rdS o.c) [s.rdS o.a, s.rdS o.c] with
    buf := eaRow (s.rdS o.a), p := o.n.toNat + 1, fill := o.f }

/-- lrecv (R333). -/
def execLrecv (o : LrecvOp) (s : State) : Res := s.unless (trapsLrecv o s) (s.enqueueLink (lrecvCmd o s))

def trapsLradd (o : LraddOp) (s : State) : Option Trap :=
  firstTrap [if o.loc then s.bufTrap (s.rdS o.a) 96 else none, if o.s2 then none else s.bufTrap (s.rdS o.d) 96,
    if o.fwd then s.peerTrap (s.rdS o.b) else none, s.eaTrap (s.rdS o.c) false, s.busyTrap o.tile.toNat o.s2]

/-- The command of an lradd. -/
def lraddCmd (o : LraddOp) (s : State) : LCmd :=
  { s.newLink .relay o.tile.toNat (s.rdS o.c) [s.rdS o.a, s.rdS o.b, s.rdS o.c, s.rdS o.d] with
    buf := eaRow (s.rdS o.a), peer := if o.fwd then s.owner (s.rdS o.b) else s.a.n, u := o.u.toNat, opnd := eaRow (s.rdS o.d), s2 := o.s2
    loc := o.loc, fwd := o.fwd }

/-- lradd (R334). -/
def execLradd (o : LraddOp) (s : State) : Res := s.unless (trapsLradd o s) (s.enqueueLink (lraddCmd o s))

/-- lcancel: the command on the tile is cancelled and on a POSTED tile a refusal armed, or a held header is refused (R328, R335). -/
def execLcancel (o : LTile) (s : State) : Res :=
  let tile := o.tile.toNat
  match s.a.lq.find? fun c => c.started && c.kind != .nmc && c.tiles.contains tile with
  | some c =>
    let s1 := if ctrState (s.ctrOf tile) = 1 then s.updA fun a => { a with refuse := tile :: a.refuse } else s
    .next (s1.stopLink c none 5 0)
  | none =>
    match s.a.held.find? fun x => x.tile == tile with
    | some x => .next ((s.updA fun a => { a with held := a.held.filter fun y => y.tile != tile }).refuseHeader x)
    | none => .next s

/-- lprec: the counter at t+3 (R336). -/
def execLprec (o : LprecOp) (s : State) : Res := .next (s.landIn 3 (.s o.a) (s.ctrOf o.tile.toNat))

def trapsLwprec (_ : LwprecOp) (s : State) : Option Trap := s.rgnIll

/-- lwprec waits for the counter; n = 0 returns at once (R337). -/
def execLwprec (o : LwprecOp) (s : State) : Res :=
  s.unless (trapsLwprec o s)
    (if ctrReached (s.ctrOf o.tile.toNat) o.n.toNat then s.landIn 1 (.s o.a) (s.ctrOf o.tile.toNat)
     else s.waitFor (.lwprec o.a o.tile.toNat o.n.toNat))

end Sys2Proof.Machine
end

