-- ==== Sys2Proof/Machine/Near.lean ====
section
/-! DEFINITION. Near-memory commands (R360 to R362), graph images loaded for the host (R358), and the notices of the access
counters (R365). -/

namespace Sys2Proof.Machine

/-- The byte offset of the first row within the page (R360). -/
def nmcOff (o : NmcOp) (s : State) : Int := (s.rdS o.a).toInt

/-- The checks of nmc at issue (R360). -/
def trapsNmc (o : NmcOp) (s : State) : Option Trap :=
  let h := s.rdH o.h
  let t := fun (b : Bool) k => trapIf b tHandle (k + o.h.toNat * 16)
  firstTrap [t (!hValid h) 1, t (decide (nmcOff o s < 0) || decide ((hPage h : Int) ≤ nmcOff o s)) 2, t (!hWr h) 3,
    t (hSpace h == 3 || !hCc h || !hBig h) 6, trapIf (decide (16384 < (s.rdS o.b).toNat)) tData 0x50, s.eaTrap (s.rdS o.c) false]

/-- The command of an nmc: its physical rows start at FRAME · 2^16 + sa (R361). -/
def nmcCmd (o : NmcOp) (s : State) : LCmd :=
  let h := s.rdH o.h
  { s.newLink .nmc 0 (s.rdS o.c) [s.rdS o.a, s.rdS o.b, s.rdS o.c, s.rdS o.d] with
    frame := hFrame h, row := handleByte h (nmcOff o s) / 128, lim := hFrame h * 512 + 16384, p := (s.rdS o.b).toNat, pw := s.rdS o.d
    slot := o.slot.toNat, u := hPasidx h }

/-- nmc (R360). -/
def execNmc (o : NmcOp) (s : State) : Res := s.unless (trapsNmc o s) (s.enqueueLink (nmcCmd o s))

def cCross : Nat := 3

/-- The reef that holds the first row checks the command: its graph, the table of compute-capable pages, and its range (R361). -/
def execNmcReefCheck (s : State) : Res :=
  match s.ev.arg with
  | .n id =>
    match s.a.link id with
    | some c =>
      if c.stop then .next (s.finishLink c c.code)
      else if (s.graph c.slot 9).isNone || !s.dev.cctab.contains (c.frame / 32) then .next (s.finishLink c cCc)
      else if c.lim < c.row + c.p then .next (s.finishLink c cCross)
      else if c.p = 0 then .next (s.finishLink c 0)
      else .next ((s.updLink id fun c => { c with hdr := true }).later s.a.n .nmcRowUpdate (.n id))
    | none => .next s
  | _ => .next s

/-- An earlier nmc of the strand has still to update this row (R366). -/
def Atoll.nmcBefore (a : Atoll) (c : LCmd) (row : Nat) : Bool :=
  a.lq.any fun x => x.kind == .nmc && decide (x.id < c.id) && decide (x.row + x.sent ≤ row) && decide (row < x.row + x.p)

/-- A reef updates one row in place; a poisoned row stays as it is and is recorded (R361, R362, R435). -/
def execNmcRowUpdate (s : State) : Res :=
  match s.ev.arg with
  | .n id =>
    match s.a.link id with
    | some c =>
      let row := c.row + c.sent
      if c.stop then .next (s.finishLink c c.code)
      else if s.a.nmcBefore c row then .next (s.again (s.now + s.a.div.ring))
      else if !s.served row s.a.slot true then .next (s.again s.nextCk)
      else
        let r := (s.useSlot row).gmRead row
        let s1 := r.2.chargeNow (ajCopyRow + if r.1.2 then ajMemRow else 2 * ajMemRow)
        let img := (s.graph c.slot 9).getD []
        let s2 := if r.1.2 then s1 else s1.gmWrite row (reefOut img c.pw r.1.1 0)
        let c' := { c with sent := c.sent + 1, code := if r.1.2 ∧ c.code = 0 then cUe else c.code }
        let s3 := s2.updLink id fun _ => c'
        .next (if c'.sent = c'.p then s3.finishLink c' c'.code else s3.later s.a.n .nmcRowUpdate (.n id))
    | none => .next s
  | _ => .next s

/-- A near-memory command stops with a code before its next row (R166, R318). -/
def State.stopNmc (s : State) (id code : Nat) : State :=
  match s.a.link id with
  | some c =>
    let s1 := s.updLink id fun c => { c with stop := true, code := if c.code = 0 then code else c.code }
    if c.started then s1 else s1.sched s.now 6 .none .linkCommandArrive (.n id)
  | none => s

/-- The front end hears of a page whose counter has reached ACTHR: it queues it, or counts it lost (R365, R423). -/
def execAccessCounterNotify (s : State) : Res :=
  match s.ev.arg with
  | .n3 page ch wr =>
    let f := s.fe
    if f.nqbase = 0 ∨ f.queued.contains page then .next s
    else if (f.nqtail + 1) % 4096 = f.nqhead then
      .next (s.updFe fun f => { f with nqlost := min (2 ^ 32 - 1) (f.nqlost + 1), nqovf := true })
    else
      let s1 := { s with host := s.host.setWord (f.nqbase + 8 * f.nqtail) (BitVec.ofNat 64 (page * 2 ^ 16 + ch * 2 ^ 8 + wr)) }
      .next ((s1.updFe fun f => { f with nqtail := (f.nqtail + 1) % 4096, queued := page :: f.queued }).emit 6 [f.nqvec])
  | _ => .next s

/-! ## Graph images (R24, R358) -/

/-- The physical slots that the launches of this package hold: eight stand in every live reef (R24, R358). -/
def Fe.graphsHeld (f : Fe) : Nat := f.launches.foldl (fun n l => if l.slot = 0 then n else n + l.graphs.length) 0

/-- A host command loads an image for a slot index of a launch: an image that R358 refuses, or one for which no slot is free,
is not loaded. -/
def execGraphImageLoad (s : State) : Res :=
  match s.ev.arg with
  | .words slot idx l =>
    match s.launchOf slot with
    | some x =>
      let others := x.graphs.filter fun g => g.1 != idx
      if slot = 0 ∨ 8 ≤ idx ∨ !imageOk l ∨ 8 ≤ s.fe.graphsHeld - (x.graphs.length - others.length) then .next (s.emit 7 [slot, idx, 1])
      else .next ((s.updFe fun f => { f with launches := f.launches.map fun y =>
        if y.slot = slot then { y with graphs := others ++ [(idx, l)] } else y }).emit 7 [slot, idx, 0])
    | none => .next s
  | _ => .next s

end Sys2Proof.Machine
end

