-- ==== Sys2Proof/Machine/Team.lean ====
section
/-! DEFINITION. The team of a launch: domains and path bounds (R373, R376, R377), realign (R145), dsync (R378), and exchanges in
time (R379 to R383). -/

namespace Sys2Proof.Machine

/-! ## Domains and paths -/

/-- LW_l and LH_l of a DOMAIN word, for l = 1 to 6 (R376). -/
def levW (d : Word) (l : Nat) : Nat := fld d (6 * l - 6) 3
def levH (d : Word) (l : Nat) : Nat := fld d (6 * l - 3) 3

def domRx (d : Word) : Nat := fld d 44 10
def domRy (d : Word) : Nat := fld d 36 8

/-- The strand at offset (rx, ry) of the rectangle is in the level-l domain of a strand with DOMAIN word d (R377). -/
def inDomain (d : Word) (l rx ry : Nat) : Bool :=
  if l = 0 then rx == domRx d && ry == domRy d
  else if 7 ≤ l then true
  else rx / 2 ^ levW d l == domRx d / 2 ^ levW d l && ry / 2 ^ levH d l == domRy d / 2 ^ levH d l

/-- The bridge crossings of a path that leaves its package, over the ports of each direction group that give the most: the west group's
ports stand on the west die and the east group's on the east die, the others' on both (R25, R373). -/
def bridges (x0 y0 x1 y1 : Nat) : Nat :=
  let dx := max (x0 / 20) (x1 / 20) - min (x0 / 20) (x1 / 20)
  let dy := max (y0 / 8) (y1 / 8) - min (y0 / 8) (y1 / 8)
  let east := decide (x0 / 20 < x1 / 20)
  let out := if dx = 0 then 1 else if (x0 % 20 / 10 == 1) == east then 0 else 1
  let inn := if dy ≠ 0 then 1 else if (x1 % 20 / 10 == 0) == east then 0 else 1
  out + (dx + dy - 1) + inn

/-- D_path: 4 ticks for a hop on a die, 24 for the bridge between columns 9 and 10 (R13, R373); between packages also the crossing bounds
measured for the direction groups, with the crossings of bridges counted and the other hops to ports, which the manual does not place,
left free (R25, log 26). -/
def pathBound (cross : List Nat) (x0 y0 x1 y1 : Nat) : Nat :=
  if x0 / 20 = x1 / 20 ∧ y0 / 8 = y1 / 8 then
    4 * ((max x0 x1 - min x0 x1) + (max y0 y1 - min y0 y1)) + (if x0 % 20 / 10 = x1 % 20 / 10 then 0 else 20)
  else
    let straits := fun (a b lo hi : Nat) => if b < a then (a - b) * cross.getD lo 0 else (b - a) * cross.getD hi 0
    Config.farPath x0 y0 x1 y1 + 24 * bridges x0 y0 x1 y1 + straits (x0 / 20) (x1 / 20) 0 3 + straits (y0 / 8) (y1 / 8) 1 2

/-- The largest bound between two members of a block of atolls: that of opposite corners when it lies in one package (R373). -/
def blockBound (cross : List Nat) (x0 y0 w h : Nat) : Nat :=
  if x0 / 20 = (x0 + w - 1) / 20 ∧ y0 / 8 = (y0 + h - 1) / 8 then pathBound cross x0 y0 (x0 + w - 1) (y0 + h - 1)
  else
    let l := (List.range w).flatMap fun i => (List.range h).map fun j => (x0 + i, y0 + j)
    l.foldl (fun m a => l.foldl (fun m b => max m (pathBound cross a.1 a.2 b.1 b.2)) m) 0

/-- D_l: the largest bound between two members of one level-l domain, plus 64 ticks; D_0 is 0 (R373, R378). -/
def Launch.bound (x : Launch) (cross : List Nat) (d : Word) (l : Nat) : Nat :=
  if l = 0 then 0
  else
    let bw := if 7 ≤ l then x.w else 2 ^ levW d l
    let bh := if 7 ≤ l then x.h else 2 ^ levH d l
    let blocks := (List.range ((x.w + bw - 1) / bw)).flatMap fun i => (List.range ((x.h + bh - 1) / bh)).map fun j => (i, j)
    64 + blocks.foldl (fun m b =>
      max m (blockBound cross (x.gx + bw * b.1) (x.gy + bh * b.2) (min x.w (bw * (b.1 + 1)) - bw * b.1)
        (min x.h (bh * (b.2 + 1)) - bh * b.2))) 0

/-- The launch has atolls outside this package. -/
def Launch.spans (x : Launch) : Bool := x.atolls.length != x.w * x.h

/-- The members of a launch in this package that are in the level-l domain of the strand of atoll k. -/
def State.domainOf (s : State) (x : Launch) (k l : Nat) : List Nat :=
  match s.atoll k with
  | some a => x.atolls.filter fun m => match s.atoll m with
    | some b => inDomain a.st.domain l (domRx b.st.domain) (domRy b.st.domain)
    | none => false
  | none => []

/-- The strands that a level-l domain holds, counted over the rectangle (R377). -/
def Launch.memberCount (x : Launch) (d : Word) (l : Nat) : Nat :=
  (List.range x.w).foldl (fun n i => n + ((List.range x.h).filter fun j => inDomain d l i j).length) 0

/-- Acts on some atolls in turn, each in focus and at the present tick. -/
def State.eachOf (s : State) (l : List Nat) (f : State → State) : State :=
  let k := s.a.n
  (l.foldl (fun (s : State) m => f ((s.focus m).updA (Atoll.settle s.now))) s).focus k

/-- The strand has stopped, by a halt, a fault or its quota (R145, R378). -/
def Atoll.stopped (a : Atoll) : Bool :=
  match a.st.run with
  | .run | .halting => false
  | _ => true

def State.anyStopped (s : State) (l : List Nat) : Bool :=
  l.any fun m => match s.atoll m with
    | some a => a.stopped
    | none => false

/-- A strand of the launch has stopped, here or in another package, other than the one at global place g (R145, R378). -/
def State.teamStopped (s : State) (x : Launch) (g : Nat × Nat) : Bool :=
  s.anyStopped (x.atolls.filter fun m => s.coords m != g) || x.gone.any fun h => h != g

/-- A member of the level-l domain of a strand with DOMAIN word d has stopped, here or in another package, other than the one at global
place g (R378). -/
def State.domainStopped (s : State) (x : Launch) (d : Word) (l : Nat) (g : Nat × Nat) : Bool :=
  s.anyStopped (x.atolls.filter fun m => s.coords m != g && inDomain d l ((s.coords m).1 - x.gx) ((s.coords m).2 - x.gy)) ||
    x.gone.any fun h => h != g && inDomain d l (h.1 - x.gx) (h.2 - x.gy)

/-- The packages that a rectangle covers. -/
def Launch.packages (x : Launch) : List (Nat × Nat) :=
  (List.range ((x.gx + x.w - 1) / 20 - x.gx / 20 + 1)).flatMap fun i =>
    (List.range ((x.gy + x.h - 1) / 8 - x.gy / 8 + 1)).map fun j => (x.gx / 20 + i, x.gy / 8 + j)

/-- This package's number among the front ends: 32 px + py. -/
def Fe.pkg (f : Fe) : Nat := 32 * f.px + f.py

/-- A control message to another front end (R397). -/
def State.toFront (s : State) (p : Nat) (l : List Nat) : State := s.frameOut ⟨pkgAtoll s.fe.pkg, .frontEnd p l⟩

/-- The front ends of the other packages of a launch hear of each strand here that has stopped since they last did (R145, R378, log 107). -/
def State.tellStopped (s : State) (x : Launch) : State :=
  if !x.spans then s
  else
    let new := (x.atolls.filter fun m => s.anyStopped [m]).filterMap fun m => if x.gone.contains (s.coords m) then none else some (s.coords m)
    let s1 := s.updFe fun f => { f with launches := f.launches.map fun y => if y.id = x.id then { y with gone := y.gone ++ new } else y }
    new.foldl (fun (s : State) g => (x.packages.filter fun p => 32 * p.1 + p.2 != s.fe.pkg).foldl
      (fun (s : State) p => s.toFront (32 * p.1 + p.2) [4, x.id, g.1, g.2]) s) s1

/-- A waiting strand takes T_XTIME, and its waiting bundle counts as not issued (R145, R378). -/
def State.xtimeWaiting (s : State) (info : Nat) : State :=
  (s.updSt fun st => { st with wait := .none, more := [] }).takeTrap tXtime info s.a.st.bpc false

/-! ## realign (R145) -/

/-- realign in a region, or after another strand of the launch has stopped (R129, R145). -/
def trapsRealign (s : State) : Option Trap :=
  firstTrap [s.rgnIll, match s.launch with
    | some x => trapIf (s.teamStopped x (s.coords s.a.n)) tXtime 0x80
    | none => none]

/-- The strand waits until every strand of the launch has issued realign (R145). -/
def execRealign (s : State) : Res :=
  s.unless (trapsRealign s) ((s.waitFor .realign).sched s.now 6 .none .realignRelease (.n s.a.slot))

def State.allWait (s : State) (l : List Nat) (f : Wait → Bool) : Bool :=
  l.all fun m => match s.atoll m with
    | some a => a.st.waits.any f
    | none => false

/-- The counters that a realign loads: those of the launch's atolls, of the strait ports that a launch of several packages uses, and
of the controllers that run its scripts (R145). -/
def State.counters (s : State) (x : Launch) : List Word :=
  let now := BitVec.ofNat 64 s.now
  (x.atolls.filterMap fun m => (s.atoll m).map fun a => now + a.st.gtcOff) ++
    (if x.spans then (s.fe.ports.filter fun p => p.up).map fun p => now + p.gtcOff else []) ++
    (s.dev.chans.filter fun c => c.owner == x.slot && x.slot != 0).map fun c => now + c.gtcOff

/-- The least multiple of 16 that is no smaller than any counter of the launch (R145). -/
def State.realignValue (s : State) (x : Launch) : Word :=
  let m := (s.counters x).foldl (fun m c => max m c.toNat) 0
  BitVec.ofNat 64 ((m + 15) / 16 * 16)

/-- V is loaded into every counter of the launch, and its strands go on (R145). -/
def State.realignLoad (s : State) (x : Launch) (v : Word) : State :=
  let off := v - BitVec.ofNat 64 s.now
  let s1 := s.updFe fun f => { f with ports := if x.spans then f.ports.map fun p => if p.up then { p with gtcOff := off } else p else f.ports }
  let s2 := s1.updDev fun d => { d with chans := d.chans.map fun c => if c.owner = x.slot ∧ x.slot ≠ 0 then { c with gtcOff := off } else c }
  let s3 := (s2.dev.chans.filter fun c => c.owner == x.slot && x.slot != 0).foldl (fun (s : State) c => s.scriptDue c.c) s2
  s3.eachOf x.atolls fun s =>
    (s.updSt fun st => { st with gtcOff := off, realigned := true }).resumeAt .realign (edgeAt s.a.div.core s.now)

/-- The launch looks whether every strand waits at realign; a strand that has stopped fails the wait, and the last one to come
sets the release tick; at that tick the common value is loaded (R145).  For a launch of several packages the release tick and
the value come with the step, and the value is no smaller than a counter here asks. -/
def execRealignRelease (s : State) : Res :=
  match s.ev.arg with
  | .n slot =>
    match (if slot = 0 then none else s.launchOf slot) with
    | some x =>
      let waiting := x.atolls.filter fun m => s.allWait [m] (· == .realign)
      let s0 := s.tellStopped x
      if waiting = [] then .next s0
      else if s.anyStopped x.atolls || x.gone != [] then .next (s0.eachOf waiting fun s => s.xtimeWaiting 0x80)
      else if waiting.length ≠ x.atolls.length then .next s
      else if x.spans then .next (s.emit 8 [slot, s.now])
      else
        let r := s.now + (if x.w * x.h = 1 then 0 else x.bound s.fe.cross s.a.st.domain 7)
        .next ((s.unsched fun e => e.i == .realignRelease && e.arg == .n2 slot 0).sched r 0 .none .realignRelease (.n2 slot 0))
    | none => .next s
  | .n2 slot _ =>
    match s.launchOf slot with
    | some x => .next (if s.allWait x.atolls (· == .realign) then s.realignLoad x (s.realignValue x) else s)
    | none => .next s
  | .nw slot v =>
    match s.launchOf slot with
    | some x => .next (if s.allWait x.atolls (· == .realign) then s.realignLoad x (if v < s.realignValue x then s.realignValue x else v) else s)
    | none => .next s
  | _ => .next s

/-! ## dsync (R378) -/

/-- TRINFO of T_XTIME (R380). -/
def xtimeInfo (code l t : Nat) : Nat := code + l * 2 ^ 8 + t * 2 ^ 12

def trapsDsync (o : DsyncOp) (s : State) : Option Trap :=
  let l := o.lvl.toNat
  firstTrap [s.rgnIll, trapIf (!s.a.st.realigned) tXtime (xtimeInfo 0x88 l 0), match s.launch with
    | some x => trapIf (s.domainStopped x s.a.st.domain l (s.coords s.a.n)) tXtime (xtimeInfo 0x85 l 0)
    | none => none]

/-- dsync waits for its domain (R378). -/
def execDsync (o : DsyncOp) (s : State) : Res :=
  s.unless (trapsDsync o s) ((s.waitFor (.dsync o.lvl.toNat o.a)).sched s.now 6 .none .dsyncRelease (.n s.a.slot))

/-- The accesses of an atoll's strand that have not performed (R170, R378). -/
def State.unperformed (s : State) (n : Nat) : List Ev := s.agenda.filter fun e => e.fixed n || (e.pendingAccess n).isSome

/-- The wait of a dsync of level l. -/
def Wait.onDsync (l : Nat) : Wait → Bool
  | .dsync k _ => k == l
  | _ => false

/-- The strand has reached the point at which dsync waits for the others (R378). -/
def State.dsyncReady (s : State) (m l : Nat) : Bool :=
  match s.atoll m with
  | some a => a.st.waits.any (Wait.onDsync l) && s.unperformed m == [] && a.st.ext == [] && !(a.xs.any fun x => x.key.lvl == l) && !(a.xr.any fun x => x.key.lvl == l)
  | none => false

def State.waitsDsync (s : State) (m l : Nat) : Bool :=
  match s.atoll m with
  | some a => a.st.waits.any (Wait.onDsync l)
  | none => false

/-- The members of one domain go on at the release tick, which is now: sd takes its GTC, and it is the phase tick of the level
(R378). -/
def State.dsyncGo (s : State) (l : Nat) (ms : List Nat) : State :=
  s.eachOf ms fun s =>
    match s.waiting (Wait.onDsync l) with
    | some (.dsync k d) =>
      let t := edgeAt s.a.div.core s.now
      let s1 := (s.updSt fun st => { st with phaseTick := if h : l < 8 then st.phaseTick.set l (some s.now) h else st.phaseTick }).resumeAt (.dsync k d) t
      s1.sched t 2 .none .scalarResultLand (.land (.s d) s.gtc)
    | _ => s

/-- One domain of a level looks whether its members can be released, or have lost one that stopped (R378). -/
def State.dsyncLook (s : State) (x : Launch) (l k : Nat) : State :=
  let ms := s.domainOf x k l
  let a := (s.atoll k).getD s.a
  if s.domainStopped x a.st.domain l (s.coords k) then s.eachOf (ms.filter fun m => s.waitsDsync m l) fun s => s.xtimeWaiting (xtimeInfo 0x85 l 0)
  else if !ms.all fun m => s.waitsDsync m l then s
  else if !ms.all fun m => s.dsyncReady m l then
    let t := (ms.map fun m => lastTick (s.unperformed m)).foldl max s.now
    (s.unsched fun e => e.i == .dsyncRelease && e.arg == .n x.slot).sched (max (s.now + 1) t) 6 .none .dsyncRelease (.n x.slot)
  else if x.memberCount a.st.domain l ≠ ms.length then s.emit 9 [x.slot, l, k, s.now]
  else
    let g := BitVec.ofNat 64 s.now + a.st.gtcOff
    let r := (g.toNat + x.bound s.fe.cross a.st.domain l + 15) / 16 * 16 - g.toNat
    (s.unsched fun e => e.i == .dsyncRelease && e.arg == .n3 x.slot l k).sched (s.now + r) 1 .none .dsyncRelease (.n3 x.slot l k)

/-- The first member of each domain of a level that waits. -/
def State.domainHeads (s : State) (x : Launch) (l : Nat) : List Nat :=
  x.atolls.filter fun m => s.waitsDsync m l && ((s.domainOf x m l).find? fun k => s.waitsDsync k l) == some m

/-- The launch looks at every level at which a strand waits; at its release tick a domain goes on (R378). -/
def execDsyncRelease (s : State) : Res :=
  match s.ev.arg with
  | .n slot =>
    match (if slot = 0 then none else s.launchOf slot) with
    | some x => .next ((List.range 8).foldl (fun (s : State) l =>
        (s.domainHeads x l).foldl (fun (s : State) k => s.dsyncLook x l k) s) (s.tellStopped x))
    | none => .next s
  | .n3 slot l k =>
    match s.launchOf slot with
    | some x =>
      let ms := s.domainOf x k l
      .next (if ms.all fun m => s.dsyncReady m l then s.dsyncGo l ms else s)
    | none => .next s
  | _ => .next s

/-! ## Exchanges (R379 to R383) -/

/-- The phase tick of a level (R378). -/
def State.phase (s : State) (l : Nat) : Option Nat := if h : l < 8 then s.a.st.phaseTick[l] else none

/-- D_path between the atoll in focus and another (R373). -/
def State.pathTo (s : State) (k : Nat) : Nat :=
  let a := s.globalOf s.a.n
  let b := s.globalOf k
  pathBound s.fe.cross a.1 a.2 b.1 b.2

/-- The partner is in the strand's domain of the level (R380). -/
def State.partner (s : State) (l k : Nat) : Bool :=
  match s.launch with
  | some x => let g := s.globalOf k
    inDomain s.a.st.domain l (g.1 - x.gx) (g.2 - x.gy)
  | none => false

/-- An entry with the same key exists in this phase (R380). -/
def XEnt.same (e : XEnt) (k : XKey) (r : Nat) : Bool := e.key == k && e.phase == r

/-- The lanes and ports of the source row of an xsend: its port at T + h, then the way to XB (R157, R381). -/
def State.xbReq (s : State) (row : Nat) : List (Nat × Nat) :=
  let k := station row
  let h := hops (stationPos k) posCC
  let r := s.a.div.ring
  (s.ringT + h * r, portCode k false) :: path r k (stationPos k) posXB (s.ringT + h * r)

/-- The tick at which the source row reaches XB (R380, R381). -/
def State.xbTick (s : State) (row : Nat) : Nat :=
  s.ringT + (ccHops row + s.laneDelay (s.xbReq row) + xbHops row) * s.a.div.ring

def sendKey (o : XsendOp) (s : State) : XKey := ⟨s.a.n, s.owner (s.rdS o.b), o.lvl.toNat, o.t.toNat⟩

def trapsXsend (o : XsendOp) (s : State) : Option Trap :=
  let l := o.lvl.toNat
  let t := o.t.toNat
  let row := eaRow (s.rdS o.a)
  firstTrap [s.eaTrap (s.rdS o.a) true, s.peerTrap (s.rdS o.b), trapIf (!s.partner l (s.owner (s.rdS o.b))) tData 0x13,
    match s.phase l with
    | none => some ⟨tXtime, xtimeInfo 0x82 l t⟩
    | some r => firstTrap [trapIf (s.a.xs.any fun e => e.same (sendKey o s) r) tXtime (xtimeInfo 0x86 l t),
        trapIf (decide (r + t < s.xbTick row)) tXtime (xtimeInfo 0x81 l t), s.laneTrap (s.xbReq row)]]

/-- xsend: its source row is read at T + h and waits at XB for tick R + t (R381). -/
def execXsend (o : XsendOp) (s : State) : Res :=
  let row := eaRow (s.rdS o.a)
  let k := sendKey o s
  s.unless (trapsXsend o s)
    (let d := s.laneDelay (s.xbReq row)
     let e : XEnt := { id := s.ev.seq, key := k, phase := (s.phase o.lvl.toNat).getD 0, row := 0, dst := row, bar := 0, barAt := 0, ph := false
                       w := s.cmdWords [s.rdS o.a, s.rdS o.b] }
     ((s.reserve (s.xbReq row) d).updA fun a => { a with xs := a.xs ++ [e] }).sched (s.ringT + (ccHops row + d) * s.a.div.ring) 0 .ring
       .scalarStationAccess (.key k))

/-- The launch looks at what waits for an exchange entry to be free: a dsync, a drain, or its end (R378, R385). -/
def State.exchangeFreed (s : State) : State :=
  (s.sched s.now 6 .none .dsyncRelease (.n s.a.slot)).sched s.now 6 .none .launchEnd (.n s.a.slot)

/-- The row of an xsend leaves XB, and crosses the mesh as one flit of each link of its path (R13, R381). -/
def execXsendDepart (s : State) : Res :=
  match s.ev.arg with
  | .key k =>
    match s.a.xs.find? fun e => e.key == k with
    | some e =>
      if s.now < s.sendsFrom then .next (s.again s.sendsFrom)
      else
      let s1 := (s.updA fun a => { a with xs := a.xs.filter fun x => x.key != k }).exchangeFreed
      if 1000 ≤ k.rcv then .next (s1.sendFrame (.row k.rcv { k with snd := s.nameOf k.snd } e.row))
      else
        let x := crossLinks s1.links (meshLinks k.snd k.rcv) s.now
        .next ({ s1 with links := s1.links ++ x.2 }.schedAt k.rcv x.1 6 .none .xrecvArrival (.keyRow k e.row))
    | none => .next s
  | _ => .next s

def recvKey (o : XrecvOp) (s : State) : XKey := ⟨s.owner (s.rdS o.b), s.a.n, o.lvl.toNat, o.t.toNat⟩

/-- The deadline of a receive: R + t + D_path + 256 (R380, R382). -/
def State.xrecvDeadline (s : State) (k : XKey) (r : Nat) : Nat := r + k.t + s.pathTo k.snd + 256

def trapsXrecv (o : XrecvOp) (s : State) : Option Trap :=
  let l := o.lvl.toNat
  let t := o.t.toNat
  let k := recvKey o s
  firstTrap [s.eaTrap (s.rdS o.a) true, s.peerTrap (s.rdS o.b), s.eaTrap (s.rdS o.c) false, trapIf (!s.partner l k.snd) tData 0x13,
    match s.phase l with
    | none => some ⟨tXtime, xtimeInfo 0x82 l t⟩
    | some r => firstTrap [trapIf (s.a.xr.any fun e => e.same k r) tXtime (xtimeInfo 0x86 l t),
        trapIf (decide (s.xrecvDeadline k r < s.now)) tXtime (xtimeInfo 0x84 l t)]]

/-- xrecv posts a receive entry (R381). -/
def execXrecv (o : XrecvOp) (s : State) : Res :=
  let k := recvKey o s
  let r := (s.phase o.lvl.toNat).getD 0
  s.unless (trapsXrecv o s)
    (let e : XEnt := { id := s.ev.seq, key := k, phase := r, row := 0, dst := eaRow (s.rdS o.a), bar := eaByte (s.rdS o.c)
                       barAt := s.owner (s.rdS o.c), ph := eaPh (s.rdS o.c), w := s.cmdWords [s.rdS o.a, s.rdS o.b, s.rdS o.c] }
     (s.updA fun a => { a with xr := a.xr ++ [e] }).sched (s.xrecvDeadline k r) 6 .none .exchangeReceiveTimeout (.key k))

/-- An exchange fault is recorded, the first in time standing; it ends a wait that it interrupts (R382). -/
def State.exchangeFault (s : State) (code : Nat) (k : XKey) : State :=
  let s1 := s.updSt fun st => { st with xfault := some (st.xfault.getD (xtimeInfo code k.lvl k.t)) }
  if s.a.st.waits.contains .realign then s1 else s1.interrupt

/-- An exchange row arrives: it is written for its posted key and the receive arrives on its barrier, or it is discarded (R381,
R382). -/
def execXrecvArrival (s : State) : Res :=
  match s.ev.arg with
  | .keyRow k v =>
    match s.a.xr.find? fun e => e.key == k with
    | some e =>
      match s.lkHold posXB [e.dst] true with
      | some t => .next t
      | none =>
        let c := ajRow + ajHop * xbHops e.dst + ajErase * pop (s.a.sp.row e.dst)
        let s1 := (((s.chargeNow c).reserve (portsAt s.now e.dst false true) 0).spSetRow e.dst v).updA fun a => { a with xr := a.xr.filter fun x => x.key != k }
        .next ((s1.engineArrive e.barAt e.bar e.ph 0).exchangeFreed)
    | none => .next (s.exchangeFault 0x83 k)
  | _ => .next s

/-- The deadline of a posted receive has come: if it is still empty it is freed, without an arrival; one whose row is at XB is not
empty (R382, log 55). -/
def execExchangeReceiveTimeout (s : State) : Res :=
  match s.ev.arg with
  | .key k =>
    if (s.a.xr.any fun e => e.key == k && s.xrecvDeadline k e.phase == s.now) && !(s.agenda.any fun e => e.i == .xrecvArrival &&
        e.atoll == s.a.n && (e.phase != 6 || decide (e.tick ≤ s.now)) && (match e.arg with
          | .keyRow k' _ => k' == k
          | _ => false)) then
      .next (((s.updA fun a => { a with xr := a.xr.filter fun e => e.key != k }).exchangeFault 0x84 k).exchangeFreed)
    else .next s
  | _ => .next s

end Sys2Proof.Machine
end

