-- ==== Sys2Proof/Machine/Window.lean ====
section
/-! DEFINITION. The words of an atoll's state as the debug window shows them (R418, R419), and the records and headers of a save
area, which hold those words (R388, R436). -/

namespace Sys2Proof.Machine

/-! ## Reading words (R419) -/

/-- Word w of a row. -/
def wordIn (r : Row) (w : Nat) : Word := BitVec.ofNat 64 (elem 64 r w)

/-- The row with word w replaced. -/
def rowPut (r : Row) (w : Nat) (v : Word) : Row := setBits r (64 * w) 64 v.toNat

/-- 64 zero tags from n on. -/
def tagWord (f : Nat → Bool) (n : Nat) : Word := BitVec.ofNat 64 (packEls 1 (fun i => (f (n + i)).toNat) 64)

def nat64 (n : Nat) : Word := BitVec.ofNat 64 n

/-- Unit 0x01: PC, scalars, predicates, handles and the system registers. -/
def State.strandWord (s : State) (i : Nat) : Word :=
  if i = 0 then nat64 (s.a.st.pc % 2 ^ 48)
  else if h : i < 64 then s.a.st.regs[i]
  else if i = 64 then s.a.st.preds.setWidth 64 ||| 1
  else if h : 65 ≤ i ∧ i < 97 then s.a.st.hs[i - 65]
  else if 128 ≤ i then (match sysOf (i - 128) with
    | some r => s.sysRead r
    | none => 0)
  else 0

/-- Unit 0x03: masks, zero tags of the vector registers, zero tags of the scratchpad rows. -/
def Atoll.tagsWord (a : Atoll) (i : Nat) : Word :=
  if h : i < 32 then bits (a.masks[i / 2]) (64 * (i % 2)) 64
  else if 64 ≤ i ∧ i < 96 then tagWord (fun r => SMap.get a.v r == 0) (64 * (i - 64))
  else if 1024 ≤ i ∧ i < 1792 then tagWord (fun r => a.sp.row r == 0) (64 * (i - 1024))
  else 0

/-- Unit 0x05: weights, exponents, shape, ring registers and FQ. -/
def Atoll.matrixWord (a : Atoll) (i : Nat) : Word :=
  if i < 4096 then nat64 (elemNat 64 (SMap.get a.weights (i / 32)).toNat (i % 32))
  else if i < 4352 then nat64 (elemNat 64 (SMap.get a.exps ((i - 4096) / 2)).toNat (i % 2))
  else if i = 4352 then a.shape.getD 0
  else if h : 4353 ≤ i ∧ i < 4369 then a.rings[i - 4353]
  else if i = 4369 then nat64 (a.fq.length + 32 * (a.fq.filter fun e => e.1.isSome).length)
  else if i < 4386 then ((a.fq[i - 4370]?).map fun e => e.2).getD 0
  else 0

/-- Unit 0x06: the cells, sign-extended, and RTM. -/
def Atoll.rotatorWord (a : Atoll) (i : Nat) : Word :=
  if i < 1024 then (if i % 32 < i / 32 then 0 else (SMap.get a.cells i).signExtend 64)
  else if i = 1024 then a.rtm else 0

/-- Word 7 of an entry: what is done, and the state: 0 queued, 1 running, 2 stopped at a save. -/
def progressWord (done : Nat) (started saved : Bool) : Word :=
  nat64 (done % 2 ^ 32 + (if !started then 0 else if saved then 2 else 1) * 2 ^ 60)

/-- The rows or blocks that a copy has done (R312). -/
def CCmd.doneRows (c : CCmd) : Nat := c.done

/-- The planes or rows that a link or near-memory command has done. -/
def State.linkDone (s : State) (c : LCmd) : Nat :=
  match c.kind with
  | .recv => ctrLanded (s.ctrOf c.tile)
  | _ => c.sent

/-- Unit 0x07: the entries of the four queues. -/
def State.queueWord (s : State) (i : Nat) (saved : Bool) : Word :=
  let pick := fun (w : List Word) (p : Word) => if i % 8 = 7 then p else w.getD (i % 8) 0
  if i < 256 then (match s.a.cq[i / 8]? with
    | some c => pick c.w (progressWord c.doneRows c.started saved)
    | none => 0)
  else if i < 512 then (match s.a.lq[(i - 256) / 8]? with
    | some c => pick c.w (progressWord (s.linkDone c) c.started saved)
    | none => 0)
  else if saved then 0
  else if i < 768 then (match s.a.xs[(i - 512) / 8]? with
    | some e => pick e.w (progressWord 0 true false)
    | none => 0)
  else if i < 1024 then (match s.a.xr[(i - 768) / 8]? with
    | some e => pick e.w (progressWord 0 true false)
    | none => 0)
  else 0

/-- Unit 0x08: precision counters, monitor entries and the pending data flag. -/
def Atoll.counterWord (a : Atoll) (i : Nat) : Word :=
  if i < 256 then SMap.get a.ctr i
  else if i < 288 then (match a.st.mons.getD ((i - 256) / 2) none with
    | some e => if i % 2 = 0 then nat64 (2 ^ 63 + e.byte / 8 % 16 * 2 ^ 16 + e.byte / 128) else e.cmp
    | none => 0)
  else if i = 288 then (match a.st.dflag with
    | some c => nat64 (2 ^ 63 + c)
    | none => 0)
  else 0

/-- The word at an INDEX of a unit of the atoll in focus (R419). -/
def State.unitWord (s : State) (u i : Nat) (saved : Bool) : Word :=
  match u with
  | 1 => s.strandWord i
  | 2 => if i < 32768 then wordIn (SMap.get s.a.v (i / 16)) (i % 16) else 0
  | 3 => s.a.tagsWord i
  | 4 => if i < 786432 then Mem.word s.a.sp (8 * i) else 0
  | 5 => s.a.matrixWord i
  | 6 => s.a.rotatorWord i
  | 7 => s.queueWord i saved
  | 8 => s.a.counterWord i
  | _ => 0

/-! ## Writing words (R418) -/

/-- A system register takes a word as it stands, reserved fields zero (R120, R436). -/
def Strand.poke (st : Strand) (r : SysReg) (now : Nat) (v : Word) : Strand :=
  match r with
  | .aclass => { st with aclass := nat64 (fld v 0 19 + (if 3 < fld v 19 3 then fld st.aclass 19 3 else fld v 19 3) * 2 ^ 19) }
  | .sbmode => { st with sbmode := v &&& 1 }
  | .enmeterLo => { st with bal := (setBits (meterBits st.bal) 0 64 v.toNat).toInt }
  | .enmeterHi => { st with bal := (setBits (meterBits st.bal) 64 32 v.toNat).toInt }
  | .enquotaLo => { st with quota := (setBits (BitVec.ofNat 96 st.quota) 0 64 v.toNat).toNat }
  | .enquotaHi => { st with quota := (setBits (BitVec.ofNat 96 st.quota) 64 32 v.toNat).toNat }
  | .tvec => { st with tvec := v &&& 0x0000FFFFFFFFFFF8 }
  | .qsw => { st with qsw := v &&& 0xFFFFFFFF00000703 }
  | .domain => { st with domain := v &&& 0x003FFFFFFFFFFFFF }
  | .gtc => { st with gtcOff := v - BitVec.ofNat 64 now }
  | .atc => { st with atc := v }
  | .laglvl => { st with laglvl := v &&& 0xFFFFFFFF0FFF0FFF }
  | .idlemx => { st with idlemx := v &&& 0x80000000FFFFFFFF }
  | .grottoBase => { st with grBase := v &&& 0x0000FFFF0000FFFF }
  | .grottoRows => { st with grRows := v &&& 0xFFFFFFFF0000FFFF }
  | .hovf => { st with hovf := v &&& 0xFFFFFFFFFFFF0000 }
  | .lc => { st with lc := v }
  | .trpc => { st with trpc := v &&& 0x0000FFFFFFFFFFF8 }
  | .trcause => { st with trcause := v &&& 0x700FF }
  | .trinfo => { st with trinfo := v }

/-- A word of unit 0x01 is stored. -/
def Strand.putWord (st : Strand) (now i : Nat) (v : Word) : Strand :=
  if i = 0 then { st with pc := fld v 3 45 * 8, bpc := fld v 3 45 * 8 }
  else if h : i < 64 then { st with regs := st.regs.set i v }
  else if i = 64 then { st with preds := (v.setWidth 16) ||| 1 }
  else if h : 65 ≤ i ∧ i < 97 then { st with hs := st.hs.set (i - 65) v }
  else if 128 ≤ i then (match sysOf (i - 128) with
    | some r => st.poke r now v
    | none => st)
  else st

/-- A word of unit 0x05 is stored; the count of FQ sets how many entries it holds. -/
def Atoll.putMatrix (a : Atoll) (i : Nat) (v : Word) : Atoll :=
  if i < 4096 then { a with weights := SMap.set a.weights (i / 32) (setBits (SMap.get a.weights (i / 32)) (64 * (i % 32)) 64 v.toNat) }
  else if i < 4352 then
    { a with exps := SMap.set a.exps ((i - 4096) / 2) (setBits (SMap.get a.exps ((i - 4096) / 2)) (64 * (i % 2)) 64 v.toNat) }
  else if i = 4352 then { a with shape := if v = 0 then none else some v }
  else if h : 4353 ≤ i ∧ i < 4369 then { a with rings := a.rings.set (i - 4353) v }
  else if i = 4369 then
    let n := min 16 (fld v 0 5)
    { a with fq := (a.fq ++ List.replicate (n - a.fq.length) (none, 0)).take n }
  else { a with fq := a.fq.zipIdx.map fun e => if e.2 = i - 4370 then (e.1.1, v) else e.1 }

/-- A word of unit 0x08 is stored. -/
def Atoll.putCounter (a : Atoll) (i : Nat) (v : Word) : Atoll :=
  if i < 256 then { a with ctr := SMap.set a.ctr i v }
  else if i < 288 then
    let k := (i - 256) / 2
    let old := (a.st.mons.getD k none).getD ⟨0, 0⟩
    let new := if i % 2 = 0 then (if v.getLsbD 63 then some { old with byte := fld v 0 16 * 128 + fld v 16 4 * 8 } else none)
      else (a.st.mons.getD k none).map fun e => { e with cmp := v }
    { a with st := { a.st with mons := a.st.mons.set k new } }
  else if i = 288 then { a with st := { a.st with dflag := if v.getLsbD 63 then some (fld v 0 8) else none } }
  else a

/-- The state with the register values of an entry in the registers that its fields name. -/
def State.withVals (s : State) (l : List Reg) (v : List Word) : State :=
  (l.zip v).foldl (fun (s : State) x => s.setS x.1 x.2) s

/-- The command of a copy entry's syllable and register values, with the handles as they now stand (log 27). -/
def State.copyAgain (s : State) (i : Instr) (v : List Word) : Option CCmd :=
  let s0 := fun (o : COp) => s.withVals [o.da, o.sa, o.n, o.bar] v
  match i with
  | .cpy o => some ((s0 o).cmdOf (insCpy o (s0 o)))
  | .cpyx o => some ((s0 o).cmdOf (insCpyx o (s0 o)))
  | .cpycPack o => let t := s.withVals [o.c.da, o.c.sa, o.c.n, o.c.bar, o.c.da + 1] v
    some (t.cmdOf (insPack o t))
  | .cpycUnpack o => let t := s.withVals [o.c.da, o.c.sa, o.c.n, o.c.bar, o.c.sa + 1] v
    some (t.cmdOf (insUnpack o t))
  | .cpyg o => some ((s0 o.c).cmdOf (insCpyg o (s0 o.c)))
  | .cpys o => let t := s.withVals [o.c.da, o.c.sa, o.c.n, o.c.bar, o.c.da + 1] v
    some (t.cmdOf (insCpys o t))
  | .cpyz o => let t := s.withVals [o.da, o.n, o.bar] v
    some (t.cmdOf (insCpyz o t))
  | .cpyv o => some ((s0 o.c).cmdOf (insCpyv o (s0 o.c)))
  | .ppcmp o => let t := s.withVals [o.da, o.sa, o.n, o.bar, o.da + 1] v
    some (t.cmdOf (insPpcmp o t))
  | _ => none

/-- The command of a link engine entry's syllable and register values. -/
def State.linkAgain (s : State) (i : Instr) (v : List Word) : Option LCmd :=
  match i with
  | .lsend o => some (lsendCmd o (s.withVals [o.a, o.b, o.c] v))
  | .lrecv o => some (lrecvCmd o (s.withVals [o.a, o.c] v))
  | .lradd o => some (lraddCmd o (s.withVals [o.a, o.b, o.c, o.d] v))
  | .nmc o => some (nmcCmd o (s.withVals [o.a, o.b, o.c, o.d] v))
  | _ => none

/-- The instruction of a syllable word, and the state with its prefix. -/
def State.entrySyl (s : State) (w : List Word) : Option (Instr × State) :=
  match decode (w.getD 0 0) with
  | .ok y =>
    let p := match decode (w.getD 1 0) with
      | .ok ⟨_, .pfx p⟩ => if w.getD 1 0 = 0 then none else some p
      | _ => none
    some (y.i, s.updSt fun st => { st with pfx := p })
  | .error _ => none

/-- A copy entry of eight words. -/
def State.copyEntry (s : State) (id : Nat) (w : List Word) : Option CCmd :=
  match s.entrySyl w with
  | some (i, t) => (t.copyAgain i (w.drop 2)).map fun c =>
      let n := fld (w.getD 7 0) 0 32
      { c with id := id, w := w.take 7, started := fld (w.getD 7 0) 60 4 != 0, done := n }
  | none => none

/-- A link engine entry of eight words.  The header of a relay's output has left when its tile is OPEN, and an nmc that has updated no row
is checked at its reef again (R324, R361). -/
def State.linkEntry (s : State) (id : Nat) (w : List Word) : Option LCmd :=
  match s.entrySyl w with
  | some (i, t) => (t.linkAgain i (w.drop 2)).map fun c =>
      let on := fld (w.getD 7 0) 60 4 != 0
      let sent := fld (w.getD 7 0) 0 32
      { c with id := id, w := w.take 7, started := on, sent := sent
               hdr := on && (match c.kind with
                 | .send => true
                 | .nmc => sent != 0
                 | _ => ctrState (s.ctrOf c.tile) == 2) }
  | none => none

/-- Word i of unit 0x07 is stored: the entry of a copy or of the link engine is that of its words. -/
def State.putQueue (s : State) (i : Nat) (v : Word) : State :=
  let ws := fun (base : Nat) => (List.range 8).map fun k => if base + k = i then v else s.queueWord (base + k) false
  let w := ws (i / 8 * 8)
  if i < 256 then
    match s.a.cq[i / 8]? with
    | some c => (match s.copyEntry c.id w with
      | some c' => s.updA fun a => { a with cq := a.cq.set (i / 8) c' }
      | none => s)
    | none => s
  else if i < 512 then
    match s.a.lq[(i - 256) / 8]? with
    | some c => (match s.linkEntry c.id w with
      | some c' => s.updA fun a => { a with lq := a.lq.set ((i - 256) / 8) c' }
      | none => s)
    | none => s
  else s

/-- A word of a unit of the atoll in focus is stored; zero tags follow their rows (R418). -/
def State.unitPut (s : State) (u i : Nat) (v : Word) : State :=
  match u with
  | 1 => s.updSt fun st => st.putWord s.now i v
  | 2 => if i < 32768 then s.updA fun a => { a with v := SMap.set a.v (i / 16) (rowPut (SMap.get a.v (i / 16)) (i % 16) v) } else s
  | 3 => if h : i < 32 then s.updA fun a =>
      { a with masks := a.masks.set (i / 2) (setBits (a.masks[i / 2]) (64 * (i % 2)) 64 v.toNat) } else s
  | 4 => if i < 786432 then s.spSetWord (8 * i) v else s
  | 5 => s.updA fun a => a.putMatrix i v
  | 6 => s.updA fun a => if i < 1024 then (if i % 32 < i / 32 then a else { a with cells := SMap.set a.cells i (v.setWidth 48) })
      else if i = 1024 then { a with rtm := v &&& 0x7FF } else a
  | 7 => s.putQueue i v
  | 8 => s.updA fun a => a.putCounter i v
  | _ => s

/-! ## Records (R388, R436) -/

def kib : Nat := 1024
def recordSize : Nat := 6848 * kib

/-- The parts of a record that are windows of a unit: offset, unit, words. -/
def recordParts : List (Nat × Nat × Nat) :=
  [(0, 1, 512), (4 * kib, 3, 2048), (20 * kib, 2, 32768), (276 * kib, 5, 8192), (340 * kib, 6, 2048), (356 * kib, 7, 1024),
   (364 * kib, 8, 512)]

/-- Words as cells from address a up. -/
def wordCells : Nat → List Word → Mem
  | _, [] => []
  | a, w :: r => cellsOf 8 a w.toNat ++ wordCells (a + 8) r

/-- The 256 bits of a set of tiles as four words. -/
def tileSet (l : List Nat) : List Word :=
  (List.range 4).map fun k => nat64 (packEls 1 (fun i => (l.contains (64 * k + i)).toNat) 64)

/-- The further state at 368 KiB (R436). -/
def State.furtherWords (s : State) : List Word :=
  let d := s.a.div
  [nat64 (d.core + d.vx * 2 ^ 8 + d.mx * 2 ^ 16 + d.rt * 2 ^ 24 + d.ring * 2 ^ 32 + d.copy * 2 ^ 40), nat64 s.a.st.pend] ++
    tileSet s.a.refuse ++ tileSet (s.a.held.map fun x => x.tile) ++
    [match s.a.st.xlost with
     | some i => nat64 (1 + i / 2 ^ 8 * 2 ^ 8)
     | none => 0] ++ List.replicate 5 0 ++
    (List.range 256).flatMap fun t => (List.range 16).map fun w =>
      wordIn (((s.a.held.find? fun x => x.tile == t).map fun x => x.hdr).getD 0) w

/-- The bytes of the record of the atoll in focus, from address a up (R436). -/
def State.recordCells (s : State) (a : Nat) : Mem :=
  (recordParts.flatMap fun p => wordCells (a + p.1) ((List.range p.2.2).map fun i => s.unitWord p.2.1 i true)) ++
    wordCells (a + 368 * kib) s.furtherWords ++ s.a.sp.map fun c => (a + 704 * kib + c.1, c.2)

/-- Device memory with n bytes from address a up replaced by some cells of theirs; its rows there are no longer poisoned. -/
def Dev.putCells (d : Dev) (a n : Nat) (l : Mem) : Dev :=
  { d with mem := (d.mem.filter fun c => decide (c.1 < a)) ++ (Mem.window l a n ++ d.mem.filter fun c => decide (a + n ≤ c.1))
           poison := d.poison.filter fun r => !(decide (a ≤ 128 * r) && decide (128 * r < a + n)) }

/-- A word of device memory as the front end reads it. -/
def Dev.at (d : Dev) (a : Nat) : Word := d.mem.word a

/-- The address of record j of a save area (R388). -/
def recordAt (save j : Nat) : Nat := save + 4096 + recordSize * j

/-- The SHA-256 digest of some records of a save area, as four words (R388). -/
def Dev.digest (d : Dev) (save : Nat) (recs : List Nat) : List Word :=
  let h := sha256 (recs.flatMap fun j => (List.range recordSize).map fun i => (SMap.get d.mem (recordAt save j + i)).toNat)
  (List.range 4).map fun k => nat64 (joinNats 8 ((h.drop (8 * k)).take 8))

/-- The header of a save area: version and rung, the rectangle, the records of this package, PCOUNT, and their digest (R388). -/
def Dev.putHeader (d : Dev) (save rung pcount : Nat) (rect : Word) (recs : List Nat) : Dev :=
  d.putCells save 4096 (wordCells save ([nat64 (1 + rung * 2 ^ 8), rect, nat64 recs.length, nat64 pcount] ++ d.digest save recs))

/-- The records of a save area have changed in place, and its digest follows. -/
def Dev.resign (d : Dev) (save : Nat) (recs : List Nat) : Dev :=
  let w := fun k => d.at (save + 8 * k)
  d.putHeader save (fld (w 0) 8 2) (w 3).toNat (w 1) recs

/-- The atoll in focus takes the words of a record (R389, R436). -/
def State.readRecord (s : State) (a : Nat) : State :=
  let d := s.dev
  let part := fun (s : State) (p : Nat × Nat × Nat) =>
    (List.range p.2.2).foldl (fun (s : State) i => s.unitPut p.2.1 i (d.at (a + p.1 + 8 * i))) s
  let f := fun k => d.at (a + 368 * kib + 8 * k)
  let tiles := fun (k : Nat) => (List.range 256).filter fun t => (f (k + t / 64)).getLsbD (t % 64)
  let s1 := (recordParts.filter fun p => p.2.1 != 7 && p.2.1 != 3).foldl part (part s (4 * kib, 3, 32))
  s1.updA fun x =>
    { x with sp := (Mem.window d.mem (a + 704 * kib) (6144 * kib)).map fun c => (c.1 - (a + 704 * kib), c.2)
             refuse := tiles 2
             held := (tiles 6).map fun t =>
               { tile := t, src := x.n, stile := 0, p := 0, planes := [], ended := false, refused := false
                 hdr := BitVec.ofNat 1024 (joinNats 64 ((List.range 16).map fun w => (f (16 + 16 * t + w)).toNat)) }
             st := { x.st with xfault := if (f 10).getLsbD 0 then some (0x87 + fld (f 10) 8 24 * 2 ^ 8) else none, xlost := none } }

/-- The entries of a record's queues, with numbers from id up. -/
def State.readQueues (s : State) (a id : Nat) : State :=
  let ws := fun (e : Nat) => (List.range 8).map fun k => s.dev.at (a + 356 * kib + 8 * (8 * e + k))
  let cs := (List.range 32).filterMap fun e => if (ws e).all (· == 0) then none else s.copyEntry (id + e) (ws e)
  let ls := (List.range 32).filterMap fun e =>
    if (ws (32 + e)).all (· == 0) then none else s.linkEntry (id + 32 + e) (ws (32 + e))
  s.updA fun x => { x with cq := cs, lq := ls, st := { x.st with pfx := none } }

/-- The divisors that a record holds (R103, R436). -/
def Dev.recordDivs (d : Dev) (a : Nat) : Divs :=
  let w := d.at (a + 368 * kib)
  ⟨fld w 0 8, fld w 8 8, fld w 16 8, fld w 24 8, fld w 32 8, fld w 40 8⟩

end Sys2Proof.Machine
end

