-- ==== Sys2Proof/Machine/Front.lean ====
section
/-! DEFINITION. The front end: launch descriptors and their checks (R368, R369), host queues with their command and completion
rings (R370, R371, R404, R405, R411, R412), and the release of atolls (R390). -/

namespace Sys2Proof.Machine

/-! ## Queues (R370, R401, R404) -/

def Fe.queue (f : Fe) (q : Nat) : Queue := (f.queues.find? fun x => x.q == q).getD (Queue.init q)

def State.updQueue (s : State) (q : Nat) (f : Queue → Queue) : State :=
  s.updFe fun e => { e with queues := (e.queues.filter fun x => x.q != q) ++ [f (e.queue q)] }

def Queue.en (q : Queue) : Bool := q.qcfg.getLsbD 63
def Queue.vec (q : Queue) : Nat := fld q.qcfg 16 11
def Queue.clog (q : Queue) : Nat := fld q.qcfg 8 4
def Queue.qlog (q : Queue) : Nat := fld q.qcfg 0 4

/-- The launch of a queue is no longer the blocker; the next blocker is chosen, and the scheduler looks again (R372). -/
def State.dropBlocker (s : State) (q : Nat) : State :=
  if s.fe.blocker = some q then
    ((s.updFe fun f => { f with blocker := none }).schedAt 0 s.now 6 .none .blockerTimeout (.n2 q s.now)).later 0 .schedulerPlace .none
  else s

/-- An assignment that waits is applied once the queue is DISABLED, or EMPTY with no packet left in its ring (R401). -/
def Queue.assign (x : Queue) : Queue :=
  if x.state = 9 ∨ (x.state = 0 ∧ x.head = x.tail ∧ !x.busy) then { x with func := x.pend.getD x.func, pend := none } else x

/-- A queue enters a state; outside READY and SAVED its launch is no blocker (R372, R401). -/
def State.setQState (s : State) (q st : Nat) : State :=
  let s1 := s.updQueue q fun x => { x with state := st }.assign
  if st = 2 ∨ st = 6 then s1 else s1.dropBlocker q

/-- The launch of a queue of this front end. -/
def State.headOf (s : State) (q : Nat) : Option Launch := s.fe.launches.find? fun x => x.home.isNone && x.q == q

/-- A field of QSW takes a value in the strands of a launch that run here (R386). -/
def State.strandQsw (s : State) (x : Launch) (lo n v : Nat) : State :=
  if x.slot = 0 then s
  else x.atolls.foldl (fun (s : State) m => s.updAtoll m fun a => { a with st := { a.st with qsw := setBits a.st.qsw lo n v } }) s

/-- A field of a queue's QSW takes a value, and so does that of each strand of its launch (R386). -/
def State.setQsw (s : State) (q lo n v : Nat) : State :=
  let s1 := s.updQueue q fun x => { x with qsw := setBits x.qsw lo n v }
  match s.headOf q with
  | some x => s1.strandQsw x lo n v
  | none => s1

/-- The rung, the reason or the count of a queue's QSW takes a value (R386). -/
def State.setRung (s : State) (q n : Nat) : State := s.setQsw q 0 2 n
def State.setReason (s : State) (q n : Nat) : State := s.setQsw q 8 3 n
def State.setPcount (s : State) (q n : Nat) : State := s.setQsw q 32 32 n

def State.launchId (s : State) (id : Nat) : Option Launch := s.fe.launches.find? fun x => x.id == id

def State.updLaunch (s : State) (id : Nat) (f : Launch → Launch) : State :=
  s.updFe fun e => { e with launches := e.launches.map fun x => if x.id = id then f x else x }

/-! ## Packets (R405, R406) -/

def pkReserved (w : List Word) (masks : List Nat) : Bool :=
  (w.zip masks).all fun x => x.1 &&& BitVec.ofNat 64 x.2 == x.1

/-- The instruction of a packet that is well formed and that the function of its queue may issue; every other packet ends as a NOP
packet does, with BADPKT (R406). -/
def packetRow (func : Nat) (w : List Word) : Instr :=
  let m0 := 0xFFFFFFFF000000FF
  let all := 2 ^ 64 - 1
  let pf := func == 0
  match fld (w.getD 0 0) 0 8 with
  | 1 => if pkReserved w [m0, all, all, 1, 0, 0, 0, 0] then (if w.getD 3 0 = 1 then .launchResume else .launch) else .nop
  | 2 =>
    let n := (w.getD 3 0).toNat
    if pf && pkReserved w [m0, 0xFFFFFFFF0000, all, all, 0, 0, 0, 0] && fld (w.getD 1 0) 16 6 == 0 && decide (1 ≤ n) &&
      decide (n ≤ 4096) then .harvest else .nop
  | 3 => if pf && pkReserved w [m0, 0xFFFFFFFF0000, 0, 0, 0, 0, 0, 0] then .migdone else .nop
  | 4 => if pf && pkReserved w [m0, 0xFFFFFFE00000, 63, 0, 0, 0, 0, 0] then .ccadd else .nop
  | 5 => if pf && pkReserved w [m0, 0xFFFFFFE00000, 0, 0, 0, 0, 0, 0] then .ccdel else .nop
  | _ => .nop

/-- A packet in the form that NOP has. -/
def nopOk (w : List Word) : Bool := pkReserved w [0xFFFFFFFF00000000, 0, 0, 0, 0, 0, 0, 0]

/-- Where the addresses of a queue lie in host memory as the device names it: an IOVA under the queue's PASID when QCFG.PE = 1, and the
address itself otherwise (R400, R404, log 108). -/
def Queue.hostBase (x : Queue) : Nat := if x.qcfg.getLsbD 61 then 2 ^ 65 * (1 + fld x.qcfg 32 20) else 0

/-- A queue that has room and no packet in hand takes its next command slot (R405, R411). -/
def State.pump (s : State) (q : Nat) : State :=
  let x := s.fe.queue q
  if x.en && !x.err && !x.busy && x.heldc.isNone && x.state == 0 && x.head != x.tail && s.fe.firm.ready && !s.fe.firm.fatal then
    let w := (List.range 8).map fun k => s.host.word (x.hostBase + x.qbase.toNat + 64 * x.head + 8 * k)
    (s.updQueue q fun x => { x with head := (x.head + 1) % 2 ^ x.qlog, busy := true }).later 0 (packetRow x.func w)
      (.packet q (fld (w.getD 0 0) 32 32) w)
  else s

/-! ## Completions (R411, R412) -/

/-- A completion entry of its fields: status, sequence number, queue, TAG, QSW, and the words of a fault (R411). -/
def completionWords (status seq q tag : Nat) (qsw : Word) (flt : List Word) : List Word :=
  [nat64 (status + seq * 2 ^ 16 + q * 2 ^ 35), nat64 (tag * 2 ^ 32), qsw] ++ (List.range 5).map fun k => flt.getD k 0

/-- Words are written to host memory. -/
def State.hostWords (s : State) (a : Nat) (l : List Word) : State :=
  { s with host := (l.zipIdx).foldl (fun m x => Mem.setWord m (a + 8 * x.2) x.1) s.host }

/-- The completion ring has no room (R411). -/
def Queue.full (x : Queue) : Bool := (x.ctail + 1) % 2 ^ x.clog == x.chead % 2 ^ x.clog

/-- An entry is written at CTAIL, words 1 to 7 before word 0, and its message is sent (R411, R412). -/
def State.writeEntry (s : State) (q : Nat) (w : List Word) : State :=
  let x := s.fe.queue q
  let a := x.hostBase + x.cbase.toNat + 64 * x.ctail
  let w0 := w.getD 0 0 ||| (if x.lap then 0x100 else 0)
  let s1 := (s.hostWords (a + 8) (w.drop 1)).hostWords a [w0]
  let t := (x.ctail + 1) % 2 ^ x.clog
  (s1.updQueue q fun x => { x with ctail := t, lap := if t = 0 then !x.lap else x.lap, heldc := none }).emit 5
    [x.func, x.vec, fld x.qcfg 62 1]

/-- A packet ends: its entry is written, or held for want of room, and the queue goes on (R411). -/
def State.complete (s : State) (q : Nat) (w : List Word) : State :=
  let s1 := s.updQueue q fun x => { x with busy := false }.assign
  if (s1.fe.queue q).full then s1.updQueue q fun x => { x with heldc := some w } else (s1.writeEntry q w).pump q

/-- A packet other than a launch ends with a status (R411). -/
def State.endPacket (s : State) (q tag status : Nat) : State :=
  s.complete q (completionWords status 0 q tag (s.fe.queue q).qsw [])

/-! ## Descriptors (R368) -/

def Launch.dw (x : Launch) (k : Nat) : Word := x.desc.getD k 0
def Launch.df (x : Launch) (k lo n : Nat) : Nat := fld (x.dw k) lo n
def Launch.da (x : Launch) (k : Nat) : Nat := (x.dw k).toNat
def Launch.prio (x : Launch) : Nat := x.df 0 8 3
def Launch.size (x : Launch) : Nat := x.w * x.h
def Launch.savePa (x : Launch) : Nat := x.da 23
def Launch.rect (x : Launch) : Word := nat64 (x.gx + x.gy * 2 ^ 10 + (x.w - 1) * 2 ^ 18 + (x.h - 1) * 2 ^ 28)

/-- The bits that each word of a descriptor defines (R368). -/
def descMasks : List Nat :=
  let all := 2 ^ 64 - 1
  [0x1FFF, 2 ^ 36 - 1, 2 ^ 36 - 1, 2 ^ 48 - 1, all, all, all, 0x3FF, all, 2 ^ 32 - 1, 2 ^ 48 - 8, 2 ^ 48 - 1, 2 ^ 48 - 1, all, 0xFFFF, all,
   0xFFFF, all, 0xFF, all, 0x1FF, all, all, all, 0, 0, 0, 0, 0, 0, 0, 0]

/-- Two words of a table entry. -/
def Dev.pair (d : Dev) (a : Nat) : Word × Word := (d.at a, d.at (a + 8))

/-- The entries of the register image, the row loads and the scripts. -/
def Launch.regEntries (x : Launch) (d : Dev) : List (Word × Word) := (List.range (x.df 14 0 16)).map fun i => d.pair (x.da 13 + 16 * i)
def Launch.rowEntries (x : Launch) (d : Dev) : List (Word × Word) := (List.range (x.df 16 0 16)).map fun i => d.pair (x.da 15 + 16 * i)
def Launch.scriptEntries (x : Launch) (d : Dev) : List (List Word) :=
  (List.range (x.df 20 0 9)).map fun i => (List.range 4).map fun k => d.at (x.da 19 + 32 * i + 8 * k)

/-- The slot indices of the graphs and the addresses of their images. -/
def Launch.graphEntries (x : Launch) (d : Dev) : List (Nat × Nat) :=
  ((List.range 8).filter fun i => (x.dw 18).getLsbD i).map fun i => (i, (d.at (x.da 17 + 8 * i)).toNat)

def Dev.words (d : Dev) (a n : Nat) : List Word := (List.range n).map fun k => d.at (a + 8 * k)

/-- The global channel, package, image and start tick of a script entry. -/
def scChan (e : List Word) : Nat := fld (e.getD 0 0) 0 8
def scPkg (e : List Word) : Nat × Nat := (fld (e.getD 0 0) 8 5, fld (e.getD 0 0) 13 5)
def scLen (e : List Word) : Nat := fld (e.getD 2 0) 0 12 + 1
def scImage (e : List Word) (d : Dev) : List Word := d.words (e.getD 1 0).toNat (scLen e)

/-- An entry applies to the strand at an offset (R368). -/
def entryFor (w : Word) (rx ry : Nat) : Bool := w.getLsbD 18 || (fld w 0 10 == rx && fld w 10 8 == ry)

/-- Some row of n bytes from address a on is poisoned or does not exist (R347, R354). -/
def Dev.badRange (d : Dev) (a n : Nat) : Bool :=
  decide (0 < n) && (List.range ((a + n - 1) / 128 - a / 128 + 1)).any fun k => d.bad (a / 128 + k)

/-- The areas of device memory that the front end reads for a launch: address and bytes (R369). -/
def Launch.areas (x : Launch) (d : Dev) : List (Nat × Nat) :=
  [(x.da 13, 16 * x.df 14 0 16), (x.da 15, 16 * x.df 16 0 16), (x.da 17, if x.df 18 0 8 = 0 then 0 else 64), (x.da 19, 32 * x.df 20 0 9),
   (x.da 6, 8 * x.df 7 0 10)] ++
    ((x.rowEntries d).map fun e => (e.2.toNat, 128 * fld e.1 48 16)) ++ ((x.graphEntries d).map fun g => (g.2, 2048)) ++
    ((x.scriptEntries d).map fun e => ((e.getD 1 0).toNat, 8 * scLen e))

/-- The root monitor has assigned n bytes from address a on to a function; the PF may name every address (R406, R415). -/
def Fe.owns (f : Fe) (fn a n : Nat) : Bool :=
  fn == 0 || (f.memFn.any fun m => m.1 == fn && decide (m.2.1 ≤ a) && decide (a + n ≤ m.2.1 + m.2.2))

/-- A template breaks R377. -/
def templateBad (d : Word) : Bool := [2, 3, 4, 5, 6].any fun l => decide (levW d l < levW d (l - 1)) || decide (levH d l < levH d (l - 1))

/-- The atolls of this package in a rectangle, in increasing number. -/
def Fe.inside (f : Fe) (x : Launch) : List Nat :=
  (List.range 160).filter fun n =>
    let a := 20 * f.px + n / 8
    let b := 8 * f.py + n % 8
    decide (x.gx ≤ a) && decide (a < x.gx + x.w) && decide (x.gy ≤ b) && decide (b < x.gy + x.h)

/-- The number of the record of an atoll: by increasing RX, then RY (R388). -/
def State.recordOf (s : State) (x : Launch) (m : Nat) : Nat :=
  let g := s.coords m
  (g.1 - x.gx) * x.h + (g.2 - x.gy)

/-- The numbers of this package's records. -/
def State.records (s : State) (x : Launch) : List Nat := x.atolls.map (s.recordOf x)

/-- The overflow area's mapping: a writable page of device memory (R369). -/
def State.hovfOf (s : State) (x : Launch) : Option PageMap :=
  (walk (s.tableOf (x.da 5)) (x.df 12 0 48)).bind fun e => if e.space = 2 ∧ e.wr then some e else none

/-- The parts of a descriptor that each package checks for itself: its save area, page tables and bindings, and the overflow
area (R369, R397).  Where a rectangle lies is known from its fields, or once the scheduler has chosen its origin. -/
def State.partBad (s : State) (x : Launch) (fn : Nat) : Bool :=
  let top := 12582912 * s.dev.live.length * 128
  (x.df 12 0 48 != 0 && (s.hovfOf x).isNone) || s.dev.badRange (x.da 6) (8 * x.df 7 0 10) ||
    ((List.range (x.df 7 0 10)).any fun i =>
      let b := s.dev.at (x.da 6 + 8 * i)
      fld b 20 44 != 0 || (i != 0 && !s.fe.pasids.contains (fld b 0 20, fn))) ||
    (((x.dw 0).getLsbD 11 == (x.slot != 0)) && decide (1 < x.packages.length) && (decide (top < x.savePa + 4096 + recordSize * x.size) || decide (top ≤ x.da 5) ||
      decide (top < x.da 6 + 8 * x.df 7 0 10)))

/-- The checks of R369 over the words of a descriptor. -/
def State.wordsBad (s : State) (x : Launch) : Bool :=
  let len := x.df 4 0 32
  let x0 := if (x.dw 0).getLsbD 11 then 0 else x.df 1 0 10
  let y0 := if (x.dw 0).getLsbD 11 then 0 else x.df 1 10 8
  !pkReserved x.desc descMasks || x.df 0 0 8 != 1 ||
    decide (min 640 (20 * s.fe.mesh.1) < x0 + x.df 1 18 10 + 1) || decide (min 256 (8 * s.fe.mesh.2) < y0 + x.df 1 28 8 + 1) ||
    templateBad (x.dw 2) ||
    decide (49152 < x.df 11 0 16 + x.df 11 16 16) || decide (x.df 11 16 16 ≤ x.df 11 32 16) || decide (len < 128) || decide (2 ^ 31 < len) ||
    decide (len ≤ x.df 4 32 32) || decide (2 ^ 47 ≤ x.df 3 0 48 + len - 1) || (x.dw 10).getLsbD 47 ||
    ([(21, 0), (21, 32), (22, 0), (22, 32)].any fun p => (x.dw p.1).getLsbD (p.2 + 31) && x.df p.1 p.2 12 == x.q) ||
    x.df 3 0 7 != 0 || decide (256 < x.df 20 0 9)

/-- The checks of R369 over the tables and images of a descriptor. -/
def State.tablesBad (s : State) (x : Launch) (fn : Nat) : Bool :=
  let d := s.dev
  let out := fun (w : Word) => !w.getLsbD 18 && (decide (x.w ≤ fld w 0 10) || decide (x.h ≤ fld w 10 8))
  ((x.areas d).any fun a => d.badRange a.1 a.2 || (a.2 != 0 && !s.fe.owns fn a.1 a.2)) || !s.fe.owns fn x.savePa 4096 ||
    ((x.regEntries d).any fun e => fld e.1 24 6 == 0 || out e.1) ||
    ((x.rowEntries d).any fun e => out e.1 || decide (49152 < fld e.1 32 16 + fld e.1 48 16) || fld e.2 0 7 != 0) ||
    ((x.graphEntries d).any fun g => !imageOk (d.words g.2 256)) ||
    ((x.scriptEntries d).any fun e => !scriptOk (scImage e d) || (!(x.dw 0).getLsbD 11 && !x.packages.contains (scPkg e))) ||
    !((x.scriptEntries d).map fun e => (scChan e, scPkg e)).Nodup

/-- The front end refuses the descriptor of a launch (R369, R406). -/
def State.descBad (s : State) (x : Launch) (at' : Nat) : Bool :=
  let fn := (s.fe.queue x.q).func
  s.dev.badRange at' 256 || !s.fe.owns fn at' 256 || s.wordsBad x || s.tablesBad x fn || s.partBad x fn

/-! ## Ends of launches -/

/-- The balance of an atoll with every charge applied, as 96 bits (R88, R390). -/
def Atoll.finalMeter (a : Atoll) : Nat := (meterBits (meterSub a.st.bal (a.st.due.foldl (fun n c => n + c.2) 0))).toNat

/-- The balance in a saved record. -/
def Dev.savedMeter (d : Dev) (a : Nat) : Nat := (d.at (a + 8 * (128 + 0x010))).toNat + 2 ^ 64 * fld (d.at (a + 8 * (128 + 0x011))) 0 32

/-- The final meters of this package's strands, by record number. -/
def State.metersOf (s : State) (x : Launch) : List (Nat × Nat) :=
  x.atolls.map fun m =>
    let j := s.recordOf x m
    (j, if x.slot = 0 then s.dev.savedMeter (recordAt x.savePa j) else ((s.atoll m).map Atoll.finalMeter).getD 0)

/-- The meter array is written (R411, R412). -/
def State.writeMeters (s : State) (x : Launch) : State :=
  if x.meter = 0 then s
  else x.meters.foldl (fun (s : State) m => s.hostWords ((s.fe.queue x.q).hostBase + x.meter + 16 * m.1) [nat64 (m.2 % 2 ^ 64), nat64 (m.2 / 2 ^ 64 % 2 ^ 32)]) s

/-- The scheduler looks at its candidates after a nominal time (R372). -/
def State.kickScheduler (s : State) : State :=
  if s.agenda.any fun e => e.i == .schedulerPlace && e.arg == .none then s else s.later 0 .schedulerPlace .none

/-- The dependences of a launch: queue and sequence number (R368). -/
def Launch.deps (x : Launch) : List (Nat × Nat) :=
  ([(21, 0), (21, 32), (22, 0), (22, 32)].filter fun p => (x.dw p.1).getLsbD (p.2 + 31)).map fun p => (x.df p.1 p.2 12, x.df p.1 (p.2 + 12) 19)

/-- How a launch ended that has, of a queue and sequence number. -/
def Fe.endOf (f : Fe) (d : Nat × Nat) : Option Nat := (f.ended.find? fun e => e.1 == d.1 && e.2.1 == d.2).map fun e => e.2.2

/-- A launch leaves the front end with a status: its meters and its entry are written, and its queue takes a state; no dependence of
another launch has been looked at yet (R371, R390, R411, R412). -/
def State.leave (s : State) (x : Launch) (status st : Nat) : State :=
  let s2 := (s.writeMeters x).updFe fun f =>
    { f with launches := f.launches.filter fun y => y.id != x.id
             ended := (x.q, x.seqn, status) :: f.ended.filter fun e => !(e.1 == x.q && e.2.1 == x.seqn) }
  let qsw := (s2.fe.queue x.q).qsw
  ((s2.updQueue x.q fun q => { q with preempt := none }).setQState x.q st).complete x.q
    (completionWords status x.seqn x.q x.tag qsw (if status = 5 then x.fault.2 else []))

/-- A waiting launch looks at its dependences: it becomes READY, ends with DEPFAIL, or goes on waiting (R371). -/
def State.lookDeps (s : State) (x : Launch) : State :=
  let ends := x.deps.map fun d => s.fe.endOf d
  let ign := (x.dw 0).getLsbD 12
  if !ign && ends.any (fun e => e.isSome && e != some 0) then s.leave x 2 0
  else if ends.all Option.isSome then
    ((s.updLaunch x.id fun x => { x with since := s.now, unfit := none, tried := none }).setQState x.q 2).kickScheduler
  else s.setQState x.q 1

/-- Every launch that waits looks at its dependences; one that fails may fail others, so they look again, once for each. -/
def State.lookAll (s : State) : State :=
  let ids := s.fe.launches.map fun x => x.id
  (List.range ids.length).foldl (fun (s : State) _ => ids.foldl (fun (s : State) id => match s.launchId id with
    | some x => if x.home.isNone && (s.fe.queue x.q).state == 1 then s.lookDeps x else s
    | none => s) s) s

/-- A launch that has come to the head of its queue looks at its dependences, and when it fails the others look again (R371). -/
def State.firstLook (s : State) (x : Launch) : State := (s.lookDeps x).lookAll

/-- A launch ends (R390 to R392): it leaves, and the others look again. -/
def State.endLaunch (s : State) (x : Launch) (status st : Nat) : State := (s.leave x status st).lookAll.kickScheduler

/-! ## Release of atolls -/

/-- The step is the front end's, the host's or the environment's, and no work of an atoll. -/
def frontRow (i : Instr) : Bool :=
  match i with
  | .lagoonHoldBegin | .lagoonHoldEnd | .railChange | .accessCounterNotify | .patrolScrub | .refreshInterval | .layerTempSample
  | .scriptWord | .dynWindowEnd | .channelFail | .straitFrameReceive | .replayRequest | .rclkLockLoss | .revokePage
  | .revocationComplete | .pasidTeardown | .junctionTempReport | .preemptRequest | .drainComplete | .ladderT1Expiry | .saveComplete
  | .ladderT2Expiry | .schedulerPlace | .blockerTimeout | .placementClaim | .claimWithdraw | .memberReport | .memberReportTimeout
  | .launchEnd | .strandFaultEnd | .qtailDoorbell | .nop | .launch | .launchResume | .harvest | .migdone | .ccadd | .ccdel | .qcfgWrite
  | .cheadWrite | .qctlPreempt | .qctlRelease | .qctlGrant | .qctlReenable | .qmapWrite | .devctlCold | .devctlWarm | .powerOn
  | .startDone | .fwupdGo | .firmwareUpdateDone | .dbgctlStop | .dbgctlBrken | .dbgctlResume | .dbgdataRead | .dbgdataWrite
  | .readClear | .registerWrite | .ageUpdate | .pairMismatch | .workerFault | .supplyFault | .powerLoss | .sparePortBind
  | .pageRequestResponse | .atsTranslationResponse | .hostLinkRetrain | .spdmRequest | .tdispRequest | .graphImageLoad | .memberLoad
  | .memoryAssignment | .pasidAssignment | .retirementRecordWrite => true
  | _ => false

/-- The launch slot that a step of the front end is for. -/
def Ev.slot (e : Ev) : Option Nat :=
  match e.i, e.arg with
  | .realignRelease, .n s | .dsyncRelease, .n s | .launchEnd, .n s | .drainComplete, .n s | .ladderT1Expiry, .n s | .saveComplete, .n s
  | .ladderT2Expiry, .n s | .schedulerPlace, .n s => some s
  | .realignRelease, .n2 s _ | .preemptRequest, .n2 s _ | .strandFaultEnd, .n2 s _ | .ladderT2Expiry, .n2 s _ => some s
  | .realignRelease, .nw s _ => some s
  | .dsyncRelease, .n3 s _ _ => some s
  | _, _ => none

/-- A write of device or host memory that has left its atoll still performs, for nobody (R385); every other step of the atolls of a
launch is gone. -/
def Ev.keep (slot : Nat) (l : List Nat) (e : Ev) : Option Ev :=
  if e.slot = some slot then none
  else if frontRow e.i ∨ !l.contains e.atoll then some e
  else match e.i, e.arg with
    | .gmAccess, .gacc x => (match x.op with
      | .write _ => some { e with atoll := 999, arg := .gacc { x with src := 999, chg := 0, dst := .none } }
      | _ => none)
    | .reefAtomic, .gacc x => some { e with atoll := 999, arg := .gacc { x with src := 999, chg := 0, dst := .none } }
    | _, _ => none

/-- An atoll with nothing on it: what stays are its GTC, its pinned lines, and the lagoon of its rail (R109, R125, R390). -/
def Atoll.clear (now mv : Nat) (a : Atoll) : Atoll :=
  { Atoll.init a.n with
    st := { Strand.init with gtcOff := a.st.gtcOff, pinned := a.st.pinned, atcAt := now
                             laglvl := nat64 ((mv - 40) * 2 ^ 16 + mv) } }

/-- Channels that a launch owns go back to dynamic mode with its debts at 1 or less (R349, R352, R390). -/
def State.freeChannels (s : State) (slot : Nat) : State :=
  let mine := (s.dev.chans.filter fun c => c.owner == slot && slot != 0).map fun c => c.c
  (s.updDev fun d => { d with chans := d.chans.map fun c => if mine.contains c.c then
      { c with owner := 0, script := [], running := false, dyn := false, slot := none, debts := c.debts.map (min 1) } else c }).unsched fun e =>
    (e.i == .scriptWord || e.i == .dynWindowEnd) && (match e.arg with
      | .n c => mine.contains c
      | _ => false)

/-- The atolls, channels and slot of a launch are free, and its atolls' state is zero (R375, R385, R390). -/
def State.releaseLaunch (s : State) (x : Launch) : State :=
  if x.slot = 0 then s else
  let s1 := { s with agenda := s.agenda.filterMap (Ev.keep x.slot x.atolls) }
  let s2 := x.atolls.foldl (fun (s : State) m => s.updAtoll m (Atoll.clear s.now (s.railOf m))) (s1.freeChannels x.slot)
  s2.updLaunch x.id fun y => { y with slot := 0, rung := 0 }

end Sys2Proof.Machine
end

