-- ==== Sys2Proof/Machine/Launch.lean ====
section
/-! DEFINITION. Launches: their start and restore (R374, R375, R387, R389, R409), placement (R372, R373), the pre-emption ladder with the
save area (R384, R385, R388), and their ends (R390, R391), over one package or several (R397 to R399). -/

namespace Sys2Proof.Machine

/-! ## Messages between front ends (R397) -/

/-- A report of a member to its home front end: 0 granted, 1 refused, 2 steps done, 3 halted, with its meters, 4 a fault, 5 the rung
succeeded, 6 a request, 7 a bad descriptor, 8 a path that is out of service (R373, R397 to R399). -/
def State.report (s : State) (x : Launch) (kind : Nat) (l : List Nat) : State :=
  match x.home with
  | some h => s.toFront h (2 :: kind :: x.id :: s.fe.pkg :: l)
  | none => s

/-- An order of the home front end to a member: 0 descriptor, 1 register, 2 row, 3 graph, 4 the steps, 5 start, 6 a rung, 7 release, 8
quota, 9 script, 10 save (R397 to R399). -/
def State.order (s : State) (x : Launch) (p kind : Nat) (l : List Nat) : State := s.toFront p (3 :: kind :: x.id :: s.fe.pkg :: l)

/-- An order to every member. -/
def State.orderAll (s : State) (x : Launch) (kind : Nat) (l : List Nat) : State :=
  x.members.foldl (fun (s : State) m => s.order x m.1 kind l) s

def Launch.stage (x : Launch) (p n : Nat) : Launch := { x with members := x.members.map fun m => if m.1 = p then (p, n) else m }
def Launch.allAt (x : Launch) (n : Nat) : Bool := x.members.all fun m => m.2 == n

/-! ## The start (R374) -/

/-- The start value of every divisor for a rail (R19). -/
def startDiv (mv : Nat) : Nat := max 4 (railFloor mv)

/-- An atoll of a launch before its rows and registers are loaded (R374, step 3). -/
def Launch.atollStart (x : Launch) (s : State) (a : Atoll) : Atoll :=
  let d := startDiv (s.railOf a.n)
  let g := fun g : GateSt => g.restart s.now
  let b := a.clear s.now (s.railOf a.n)
  { b with slot := x.slot, div := ⟨d, d, d, d, d, d⟩, gvx := g b.gvx, gmx := g b.gmx, grt := g b.grt, gcp := g b.gcp }

/-- The registers of a strand from the descriptor: R105, R57 and step 5 of R374. -/
def Launch.strandStart (x : Launch) (s : State) (m : Nat) (st : Strand) : Strand :=
  let g := s.coords m
  let quota := x.da 8 + 2 ^ 64 * x.df 9 0 32
  { st with
    quota := quota, bal := (BitVec.ofNat 96 quota).toInt, tvec := x.dw 10
    domain := nat64 (x.df 2 0 36 + (g.2 - x.gy) * 2 ^ 36 + (g.1 - x.gx) * 2 ^ 44)
    grBase := nat64 (x.df 11 0 16 + x.df 11 32 16 * 2 ^ 32), grRows := nat64 (x.df 11 16 16)
    hovf := if x.df 12 0 48 = 0 then 0 else ((s.hovfOf x).map handleOf).getD 0
    pc := fld (nat64 (x.df 3 0 48 + x.df 4 32 32)) 3 45 * 8, codeLo := x.df 3 0 48, codeHi := x.df 3 0 48 + x.df 4 0 32 }

/-- Rows of an entry are loaded into the atolls it names (R374, step 4). -/
def State.loadRow (s : State) (x : Launch) (w : Word) (row : Nat) (v : Row) : State :=
  x.atolls.foldl (fun (s : State) m =>
    let g := s.coords m
    if entryFor w (g.1 - x.gx) (g.2 - x.gy) then s.updAtoll m fun a => { a with sp := a.sp.setRow row v } else s) s

/-- A register of an entry takes its value in the strands it names (R374, step 5). -/
def State.loadReg (s : State) (x : Launch) (w v : Word) : State :=
  x.atolls.foldl (fun (s : State) m =>
    let g := s.coords m
    let r := bits w 24 6
    if entryFor w (g.1 - x.gx) (g.2 - x.gy) ∧ r ≠ 0 then
      s.updAtoll m fun a => { a with st := { a.st with regs := a.st.regs.set r.toNat v (r.isLt) } } else s) s

/-- A script is loaded, and its first word is due (R346, R349, R374). -/
def State.loadScript (s : State) (x : Launch) (c start : Nat) (l : List Word) : State :=
  let s1 := s.updChan c fun ch =>
    { ch with owner := x.slot, script := l, start := start, wi := 0, running := false, dyn := false, slot := none, acts := []
              debts := ch.debts.map (min 1), banks := List.replicate 32 ⟨none, none, none, none, none⟩ }
  let s2 := (List.range 16).foldl (fun (s : State) k =>
    (s.unsched fun e => e.i == .refreshInterval && e.arg == .n2 c k).sched (ckTick (ckAt s.now + s.dev.interval c k)) 6 .none .refreshInterval
      (.n2 c k)) s1
  s2.scriptDue c

/-- The atolls of a launch take their start state and the registers that the descriptor gives (R374, steps 3 and 5). -/
def State.startAtolls (s : State) (x : Launch) : State :=
  x.atolls.foldl (fun (s : State) m => s.updAtoll m fun a =>
    let b := x.atollStart s a
    { b with st := x.strandStart s m b.st }) s

/-- A launch in its steps 2 to 5, from the tables of this front end (R374). -/
def State.loadTables (s : State) (x : Launch) : State :=
  let d := s.dev
  let s1 := (x.rowEntries d).foldl (fun (s : State) e =>
    (List.range (fld e.1 48 16)).foldl (fun (s : State) k => s.loadRow x e.1 (fld e.1 32 16 + k) (d.mem.row (e.2.toNat / 128 + k))) s)
    (s.startAtolls x)
  (x.regEntries d).foldl (fun (s : State) e => s.loadReg x e.1 e.2) s1

/-- The scripts that name channels of this package. -/
def State.loadScripts (s : State) (x : Launch) : State :=
  ((x.scriptEntries s.dev).filter fun e => scPkg e == (s.fe.px, s.fe.py)).foldl (fun (s : State) e =>
    s.loadScript x (scChan e) (e.getD 3 0).toNat (scImage e s.dev)) s

/-- The graph images of a launch. -/
def Launch.images (x : Launch) (d : Dev) : List (Nat × List Word) := (x.graphEntries d).map fun g => (g.1, d.words g.2 256)

/-- The ticks that a restore's hand-over takes at the least: a clock that the start value does not fit is locked again first (R102,
R103, log 80). -/
def State.handOver (s : State) : Nat :=
  let d := startDiv (s.railOf s.a.n)
  if s.a.div = ⟨d, d, d, d, d, d⟩ then 0 else if s.a.st.idlemx.getLsbD 63 then 256 else 512

/-- The strands run: each issues its first bundle at a tick of its own, on an edge of its core clock (R374, step 6). -/
def State.runTeam (s : State) (x : Launch) : State :=
  let s1 := s.eachOf x.atolls fun s =>
    if s.a.st.run.running then
      let t := edgeAt s.a.div.core (s.now + s.handOver + Config.nominal s.free)
      { s with free := s.free + 1 }.sched t 5 .core .bundleFetch .none
    else s
  let s2 := s1.eachOf x.atolls fun s => s.regate s.now
  s2.sched s.now 6 .none .launchEnd (.n x.slot)

/-- The strands of a launch are set to run. -/
def State.setRunning (s : State) (x : Launch) : State :=
  x.atolls.foldl (fun (s : State) m => s.updAtoll m fun a => { a with st := { a.st with run := if a.st.run = .off then .run else a.st.run, atcAt := s.now } }) s

/-! ## The restore (R387, R389, R409) -/

/-- A command with a host-memory operand, which an import restores with its handle's V cleared (R409). -/
def CCmd.host (c : CCmd) : Bool := c.dst.sp == 3 || c.src.sp == 3 || c.ext.sp == 3

/-- An entry of the copy queue that a record holds is the command that stood there when nothing has changed its words: the handles in
its areas are those it was issued with (log 27). -/
def CCmd.rejoin (old : List CCmd) (c : CCmd) : CCmd :=
  match old.find? fun o => o.w == c.w with
  | some o => { o with started := c.started, done := c.done, got := [], todo := [] }
  | none => c

/-- The same of the link engine's queue. -/
def LCmd.rejoin (old : List LCmd) (c : LCmd) : LCmd :=
  match old.find? fun o => o.w == c.w with
  | some o => { o with started := c.started, sent := c.sent }
  | none => c

/-- A held header that a record holds comes with its source and its planes when it is the one that stood there. -/
def Stream.rejoin (old : List Stream) (x : Stream) : Stream :=
  (old.find? fun y => y.tile == x.tile && y.hdr == x.hdr).getD x

/-- An atoll that has read its record takes beside it what the record has no place for: streams, the sources of headers, which entries of
FQ are still to come, and whether the strand has halted (log 27). -/
def Atoll.rejoin (k a : Atoll) : Atoll :=
  let halted := k.st.run == .halted || k.st.run == .halting
  { a with cq := a.cq.map (CCmd.rejoin k.cq), lq := a.lq.map (LCmd.rejoin k.lq), ins := k.ins, parts := k.parts
           held := a.held.map (Stream.rejoin k.held)
           fq := a.fq.zipIdx.map fun e => (((k.fq[e.2]?).map fun f => f.1).getD e.1.1, e.1.2)
           st := { a.st with run := if halted then k.st.run else .off, token := k.st.token, dflagAt := k.st.dflagAt
                             wake := k.st.wake } }

/-- Copies and commands that an import finds with a host-memory handle arrive with C_HANDLE, and such handles lose V (R409). -/
def Atoll.imported (a : Atoll) : Atoll :=
  let inv := fun (h : Word) => if hSpace h = 3 then setBits h 63 1 0 else h
  { a with cq := a.cq.map fun c => if c.host then { c with stop := true, code := cHandle, started := false } else c
           st := { a.st with hs := a.st.hs.map inv } }

/-- A strand that a quota check stopped continues with the trap that it had put off, or at TRPC.  R436 has no word for such a stop: the
model takes it from the registers of the record, CAUSE = T_QUOTA with ACT = 0, whoever wrote them (R89, R136, log 95). -/
def Strand.afterQuota (st : Strand) : Strand :=
  if fld st.trcause 0 8 = tQuota ∧ !st.act then
    let c := fld st.trinfo 56 8
    if c = 0 then st else { st with held := some ⟨c, st.trinfo.getLsbD 55, nat64 (fld st.trinfo 0 55)⟩ }
  else st

/-- The divisors of a record, raised to the floor of the rail (R103). -/
def Divs.raise (d : Divs) (n : Nat) : Divs :=
  ⟨max n d.core, max n d.vx, max n d.mx, max n d.rt, max n d.ring, max n d.copy⟩

/-- The atoll in focus is restored from its record; PCOUNT has risen (R386, R387, R389). -/
def State.restoreAtoll (s : State) (x : Launch) (qsw : Word) : State :=
  let m := s.a.n
  let ra := recordAt x.savePa (s.recordOf x m)
  let mv := s.railOf m
  let gtc := s.a.st.gtcOff
  let s1 := (s.updA fun a => x.atollStart s a).readRecord ra
  let s2 := s1.updA fun a => { a with div := (s.dev.recordDivs ra).raise (railFloor mv) }
  let s3 := s2.readQueues ra (s2.seq - 64)
  let s4 := match x.kept.find? fun k => k.n == m with
    | some k => s3.updA fun a => k.rejoin a
    | none => s3.updA Atoll.imported
  s4.updSt fun st =>
    { st.afterQuota with
      gtcOff := gtc, qsw := qsw, laglvl := setBits st.laglvl 0 12 mv, codeLo := x.df 3 0 48, codeHi := x.df 3 0 48 + x.df 4 0 32
      realigned := false, pend := 0, phaseTick := Vector.replicate 8 none, wait := .none, more := [], evReq := false, bpc := st.pc }

/-- The commands of an atoll go on from where they stopped (R312, R341, R362). -/
def State.resumeCommands (s : State) : State :=
  let s1 := (s.a.cq.filter CCmd.started).foldl (fun (s : State) c => s.later s.a.n .copyBurst (.n c.id)) s.kickCopies
  let s2 := if s1.a.st.run = .halting then s1.sched s1.now 6 .none .strandStop .none else s1
  s2.a.lq.foldl (fun (s : State) c =>
    if !c.started then s.later s.a.n .linkCommandArrive (.n c.id)
    else match c.kind with
      | .send => if c.sent < c.p then s.later s.a.n .planeSent (.n2 c.id (c.sent + 1)) else s
      | .relay => s.kickRelay c.id
      | .nmc => s.later s.a.n (if c.hdr then .nmcRowUpdate else .nmcReefCheck) (.n c.id)
      | .recv => s) s2

/-- A sender that an import has restored has sent its header and some planes: the stream that stands at the receiver, its planes from
the sender's buffer (R341, log 27). -/
def LCmd.resent (c : LCmd) (m : Nat) (a b : Atoll) : Option Stream :=
  if c.started && c.hdr && (c.kind == .send || (c.kind == .relay && c.fwd && c.loc)) then
    let h := a.sp.row c.buf
    some { tile := c.u, src := m, stile := c.stream, hdr := if c.kind = .send then BitVec.ofNat 1024 (h.toNat % 2 ^ 264 + c.p * 2 ^ 264) else h
           p := if (b.receiver c.u).any fun r => r.kind == .recv then ctrLanded (SMap.get b.ctr c.u) else c.sent
           planes := (List.range c.sent).map fun k => (planeRows c.buf (k + 1)).map fun r => a.sp.row r, ended := false, refused := false }
  else none

/-- The streams between the atolls of an imported launch stand again, and held headers have their senders (R341, log 27). -/
def State.rebuildStreams (s : State) (x : Launch) : State :=
  x.atolls.foldl (fun (s : State) m =>
    match s.atoll m with
    | none => s
    | some a => a.lq.foldl (fun (s : State) c =>
      match s.atoll c.peer with
      | none => s
      | some b =>
        match c.resent m a b with
        | none => s
        | some y => s.updAtoll c.peer fun b =>
          if b.held.any fun z => z.tile == y.tile then { b with held := b.held.map fun z => if z.tile = y.tile then { y with hdr := z.hdr, p := 0 } else z }
          else if (b.receiver y.tile).isSome then { b with ins := b.ins ++ [y] }
          else b) s) s

/-- The atolls of a saved launch take its records (R389). -/
def State.restoreTeam (s : State) (x : Launch) (qsw : Word) : State :=
  let s1 := { s with seq := s.seq + 64 * (x.atolls.length + 1) }
  let s2 := s1.eachOf x.atolls fun s => s.restoreAtoll x qsw
  if x.kept = [] then s2.rebuildStreams x else s2

/-! ## Placement (R372, R373, R398) -/

/-- The physical graph slots and channels that a launch needs can be given (R349, R358). -/
def State.unitsFree (s : State) (graphs : Nat) (chans : List Nat) : Bool :=
  decide (s.fe.graphsHeld + graphs ≤ 8) && chans.all fun c => (s.dev.chan c).owner == 0 && !(s.dev.chan c).running

/-- The channels of a package that the scripts of a launch name. -/
def Launch.channels (x : Launch) (d : Dev) (p : Nat × Nat) : List Nat :=
  ((x.scriptEntries d).filter fun e => scPkg e == p).map scChan

/-- No die that holds any of the atolls is at 95 °C or above (R29). -/
def State.cool (s : State) (l : List Nat) : Bool :=
  l.all fun m => decide ((if m < 80 then s.fe.temp.1 else s.fe.temp.2) < 95)

def State.freeAtolls (s : State) (l : List Nat) : Bool :=
  l.all fun m => match s.atoll m with
    | some a => a.slot == 0
    | none => false

/-- The launch with its origin at (gx, gy). -/
def Launch.at' (x : Launch) (f : Fe) (gx gy : Nat) : Launch :=
  let y := { x with gx := gx, gy := gy, w := x.df 1 18 10 + 1, h := x.df 1 28 8 + 1 }
  { y with atolls := f.inside y }

/-- The launch fits at its origin as far as this package goes (R358, R372). -/
def State.fits (s : State) (x : Launch) : Bool :=
  s.freeAtolls x.atolls && s.cool x.atolls && s.unitsFree (x.graphEntries s.dev).length (x.channels s.dev (s.fe.px, s.fe.py))

/-- The origins of a launch that the scheduler chooses the origin of, in scan order (R372). -/
def State.origins (s : State) (x : Launch) : List Launch :=
  (List.range (8 * s.fe.mesh.2 - x.df 1 28 8)).flatMap fun gy =>
    (List.range (20 * s.fe.mesh.1 - x.df 1 18 10)).map fun gx => x.at' s.fe gx gy

/-- The rectangles that a candidate may take, in order: the one it was saved from, its named one, or those of the scan after the last
one tried (R372, R389). -/
def State.choices (s : State) (x : Launch) : List Launch :=
  if x.saved then [x]
  else if (x.dw 0).getLsbD 11 then
    (s.origins x).filter fun y => match x.tried with
      | some t => decide (t.2 < y.gy) || (y.gy == t.2 && decide (t.1 < y.gx))
      | none => true
  else [x.at' s.fe (x.df 1 0 10) (x.df 1 10 8)]

/-- Effective priority (R372). -/
def Launch.effPrio (x : Launch) (now : Nat) : Nat := min 7 (x.prio + (now - x.since) / 4400000)

/-- x stands before y among the candidates (R372). -/
def Launch.ahead (now : Nat) (x y : Launch) : Bool :=
  decide (y.effPrio now < x.effPrio now) || (x.effPrio now == y.effPrio now &&
    (decide (x.since < y.since) || (x.since == y.since && decide (x.q ≤ y.q))))

def insertCand (now : Nat) (x : Launch) : List Launch → List Launch
  | [] => [x]
  | y :: r => if x.ahead now y then x :: y :: r else y :: insertCand now x r

/-- The launches whose queues are READY or SAVED, in the order of R372. -/
def State.candidates (s : State) : List Launch :=
  (s.fe.launches.filter fun (x : Launch) => x.home.isNone && ((s.fe.queue x.q).state == 2 || (s.fe.queue x.q).state == 6)).foldl
    (fun l x => insertCand s.now x l) []

/-- The lowest free launch slot (R375). -/
def Fe.freeSlot (f : Fe) : Nat := (((List.range 256).drop 1).find? fun n => !f.launches.any fun x => x.slot == n).getD 255

/-- The atolls and graph slots of a launch are held for it; a member is asked next when it covers one (R375, R398). -/
def State.claim (s : State) (x : Launch) : State :=
  let k := s.fe.freeSlot
  let order := (List.range 32).flatMap fun py => x.packages.filter fun p => p.2 == py
  let others := (order.map fun p => 32 * p.1 + p.2).filter fun p => p != s.fe.pkg
  let y := { x with slot := k, tried := some (x.gx, x.gy), members := others.map fun p => (p, 0), graphs := x.images s.dev, gone := [] }
  let s0 := x.atolls.foldl (fun (s : State) m => s.updAtoll m fun a => { a with slot := k }) (s.updLaunch x.id fun _ => y)
  let s1 := (x.channels s.dev (s.fe.px, s.fe.py)).foldl (fun (s : State) c => s.updChan c fun ch => { ch with owner := k }) s0
  let s3 := s1.setQState x.q 3
  match others with
  | [] => s3.later 0 .schedulerPlace (.n k)
  | p :: _ => s3.toFront p ([0, x.id, s.fe.pkg, x.gx, x.gy, x.w, x.h, y.graphs.length] ++ x.channels s.dev (p / 32, p % 32))

/-- A candidate has not fitted: its 10 ms run from the first time (R372). -/
def State.notFitted (s : State) (x : Launch) : State :=
  if x.unfit.isSome then s
  else (s.updLaunch x.id fun x => { x with unfit := some s.now }).schedAt 0 (s.now + 44000000) 6 .none .blockerTimeout (.n2 x.q s.now)

/-- A request is raised for each of some launches (R384). -/
def State.requestAll (s : State) (l : List Launch) (reason : Nat) : State :=
  l.foldl (fun (s : State) x => s.sched s.now 6 .none .preemptRequest (.n2 x.slot reason)) s

/-- The running launches that hold an atoll of a rectangle. -/
def State.occupants (s : State) (y : Launch) : List Launch :=
  s.fe.launches.filter fun x => x.slot != 0 && y.atolls.any fun m => x.atolls.contains m

/-- The blocker's requests, with reason 3.  The occupants that a front end sees are those of its own package, so for PLACE = 1 the rectangle
is the first that covers an atoll here (R372, log 33). -/
def State.blockerRequests (s : State) (x : Launch) : State :=
  let lower := fun (y : Launch) => decide (y.prio < x.prio)
  let rect := if (x.dw 0).getLsbD 11 && !x.saved then (s.origins x).find? fun y => y.atolls != [] && (s.occupants y).all lower
    else (s.choices x).head?
  match rect with
  | none => s
  | some y =>
    let l := s.occupants y
    if l ≠ [] then s.requestAll (l.filter lower) 3
    else if 8 < s.fe.graphsHeld + (x.graphEntries s.dev).length then
      s.requestAll (s.fe.launches.filter fun z => z.slot != 0 && z.graphs != [] && lower z) 3
    else s

/-- The scheduler considers one candidate (R372). -/
def State.consider (s : State) (x : Launch) : State :=
  match (s.choices x).find? fun y => s.fits y with
  | some y => s.claim y
  | none => (s.updLaunch x.id fun x => { x with tried := none }).notFitted x

/-- Every link on the paths of the rectangle is in service: the straits to each package that it covers (R373). -/
def State.pathsUp (s : State) (x : Launch) : Bool :=
  x.packages.all fun p => 32 * p.1 + p.2 == s.fe.pkg || !s.lost (pkgAtoll (32 * p.1 + p.2))

/-- What R368 and R369 ask of a launch whose origin the scheduler has chosen: the packages of its scripts, and the areas that each
package holds. -/
def State.placedBad (s : State) (x : Launch) : Bool :=
  (x.dw 0).getLsbD 11 && !x.saved && (((x.scriptEntries s.dev).any fun e => !x.packages.contains (scPkg e)) ||
    s.partBad x (s.fe.queue x.q).func)

/-- Claims are given back, those granted last first, and the launch does not take place (R398). -/
def State.withdraw (s : State) (x : Launch) : State :=
  (((x.members.filter fun m => m.2 != 0).reverse.foldl (fun (s : State) m => s.toFront m.1 [1, x.id]) s).releaseLaunch x).unsched fun e =>
    e.i == .memberReportTimeout && (match e.arg with
      | .n2 id _ => id == x.id
      | _ => false)

/-- What a member needs for its atolls and reefs (R397). -/
def State.sendLoad (s : State) (x : Launch) (p : Nat) : State :=
  let d := s.dev
  let qsw := (s.fe.queue x.q).qsw.toNat
  let s1 := s.order x p 0 ([(s.fe.queue x.q).func, x.saved.toNat, x.pcount, qsw, x.gx, x.gy, x.imported.toNat, x.q, x.seqn] ++ x.desc.map BitVec.toNat)
  let s2 := if x.saved then s1 else
    (x.rowEntries d).foldl (fun (s : State) e =>
      (List.range (fld e.1 48 16)).foldl (fun (s : State) k =>
        s.order x p 2 [e.1.toNat, fld e.1 32 16 + k, (d.mem.row (e.2.toNat / 128 + k)).toNat]) s) s1
  let s3 := if x.saved then s2 else (x.regEntries d).foldl (fun (s : State) e => s.order x p 1 [e.1.toNat, e.2.toNat]) s2
  let s4 := (x.images d).foldl (fun (s : State) g => s.order x p 3 (g.1 :: g.2.map BitVec.toNat)) s3
  let s5 := ((x.scriptEntries d).filter fun e => scPkg e == (p / 32, p % 32)).foldl (fun (s : State) e =>
    s.order x p 9 (scChan e :: (e.getD 3 0).toNat :: (scImage e d).map BitVec.toNat)) s4
  s5.order x p 4 []

/-- Steps 1 to 5 of R374, or of a restore, for the atolls of this front end. -/
def State.performSteps (s : State) (x : Launch) : State :=
  let s1 := (s.updLaunch x.id fun y => { y with graphs := x.images s.dev }).loadScripts x
  if x.saved then s1.restoreTeam x (s.fe.queue x.q).qsw else s1.loadTables x

/-- The team starts: its queue is RUNNING, and a request that has waited for that is raised (R374, R410). -/
def State.go (s : State) (x : Launch) : State :=
  let s1 := ((s.setRunning x).runTeam x).setQState x.q 4
  let s2 := s1.eachOf x.atolls State.resumeCommands
  let s3 := (s2.updLaunch x.id fun y => { y with saved := false, kept := [], imported := false, rung := 0, gone := [] }).unsched fun e =>
    e.i == .memberReportTimeout && (match e.arg with
      | .n2 id _ => id == x.id
      | _ => false)
  match (s3.fe.queue x.q).preempt with
  | some r => ((s3.updQueue x.q fun q => { q with preempt := none }).sched s.now 6 .none .preemptRequest (.n2 x.slot r))
  | none => s3

/-- The scheduler considers its candidates in order, the blocker alone while there is one (R372); or a launch whose atolls are claimed
has had its tables loaded and checked (R373, R374). -/
def execSchedulerPlace (s : State) : Res :=
  match s.ev.arg with
  | .n slot =>
    match (if slot = 0 then none else s.launchOf slot) with
    | none => .next s
    | some x =>
      if (s.fe.queue x.q).state ≠ 3 ∨ x.home.isSome then .next s
      else if !s.pathsUp x then
        let s1 := s.withdraw x
        .next (s1.endLaunch x 3 0)
      else if s.placedBad x then .next ((s.withdraw x).endLaunch x 1 0)
      else
        let q0 := s.fe.queue x.q
        let s0 := if x.saved then s.setPcount x.q (min (2 ^ 32 - 1) (x.pcount + 1)) else s
        let y := if x.saved then { x with pcount := fld (s0.fe.queue q0.q).qsw 32 32 } else x
        let s1 := (s0.updLaunch x.id fun _ => y).performSteps y
        if y.members = [] then .next (s1.go y)
        else
          let s2 := y.members.foldl (fun (s : State) m => s.sendLoad y m.1) s1
          .next (s2.schedAt 0 (s.now + 440000000) 6 .none .memberReportTimeout (.n2 x.id s.now))
  | _ =>
    let l : List Launch := match s.fe.blocker with
      | some q => s.candidates.filter fun x => x.q == q
      | none => s.candidates
    .next (l.foldl (fun (s : State) x => if s.fe.blocker.isSome && s.fe.blocker != some x.q then s else s.consider x) s)

/-- A candidate has waited 10 ms without fitting: the first such becomes the blocker, when there is none (R372). -/
def execBlockerTimeout (s : State) : Res :=
  match s.ev.arg with
  | .n2 q t =>
    let due : Launch → Bool := fun (x : Launch) => match x.unfit with
      | some u => decide (u + 44000000 ≤ s.now)
      | none => false
    match s.fe.blocker with
    | some b => (match s.headOf b with
      | some x => .next (if b = q then (s.blockerRequests x).schedAt 0 (s.now + 44000000) 6 .none .blockerTimeout (.n2 q t) else s)
      | none => .next s)
    | none =>
      match s.candidates.find? due with
      | some x =>
        let s1 := (s.updFe fun f => { f with blocker := some x.q }).blockerRequests x
        .next ((s1.schedAt 0 (s.now + 44000000) 6 .none .blockerTimeout (.n2 x.q s.now)).kickScheduler)
      | none => .next s
  | _ => .next s

/-! ## The ladder (R384, R385) -/

/-- Nothing of a team is left to do: its strands have stopped, and no command, exchange entry or access of theirs is in flight. -/
def Ev.teamWork (l : List Nat) (e : Ev) : Bool :=
  !frontRow e.i && l.contains e.atoll &&
    match e.i with
    | .bundleFetch | .regionOverrun | .idleTimeout | .awaitTimeout | .engineGate | .engineWakeDone | .realignRelease | .dsyncRelease
    | .exchangeReceiveTimeout | .istoreFill | .strandStop | .memberReportTimeout | .copyStart | .copyBurst | .copyRow | .reefStreamRow | .nmcReefCheck
    | .nmcRowUpdate | .relayPlaneSend | .planeSent => false
    | .linkCommandArrive => (match e.arg with
      | .n _ => false
      | _ => true)
    | _ => true

def State.workOf (s : State) (x : Launch) : List Ev := s.agenda.filter (Ev.teamWork x.atolls)

/-- The strand has stopped, for good or at an event point. -/
def Atoll.atRest (a : Atoll) : Bool :=
  match a.st.run with
  | .run => a.st.wait == .stopped
  | .halting => false
  | _ => true

def State.allAtolls (s : State) (x : Launch) (f : Atoll → Bool) : Bool :=
  x.atolls.all fun m => match s.atoll m with
    | some a => f a
    | none => true

/-- Every command, stream and exchange of the team has arrived (R385). -/
def Atoll.empty (a : Atoll) : Bool := a.cq.isEmpty && a.lq.isEmpty && a.xs.isEmpty && a.xr.isEmpty && a.st.ext.isEmpty

/-- This package's part of a rung has succeeded (R385, R399). -/
def State.rungDone (s : State) (x : Launch) : Bool :=
  (s.workOf x).isEmpty && s.allAtolls x fun a => a.atRest && if x.rung == 2 then a.cq.all CCmd.atBoundary else a.empty

/-- The save area of this package is written: the records and the header (R388, R399). -/
def State.writeSave (s : State) (x : Launch) : State :=
  let s1 := s.eachOf x.atolls fun s =>
    let a := recordAt x.savePa (s.recordOf x s.a.n)
    let l := s.recordCells a
    s.updDev fun d => d.putCells a recordSize l
  s1.updDev fun d => d.putHeader x.savePa x.rung x.pcount x.rect (s.records x)

/-- This package's part of a launch is saved, and its atolls are free; what the records have no place for is kept. -/
def State.savePart (s : State) (x : Launch) : State :=
  let kept := x.atolls.filterMap fun m => s.atoll m
  let s1 := (s.writeSave x).releaseLaunch x
  s1.updLaunch x.id fun y => { y with kept := kept, saved := true, graphs := [] }

/-- The rung has succeeded everywhere: the launch is saved, and its queue is SAVED, or HELD for reasons 2 and 4 (R385, R386). -/
def State.finishSave (s : State) (x : Launch) : State :=
  let s1 := (s.savePart x).orderAll x 10 [x.rung]
  let s2 := (s1.updLaunch x.id fun y => { y with since := s.now, unfit := none, tried := none, reason := 0 }).setRung x.q x.rung
  (s2.setQState x.q (if x.reason = 2 ∨ x.reason = 4 then 7 else 6)).kickScheduler

/-- A launch in the ladder looks whether its rung has succeeded; a member reports it to the home front end (R385, R399). -/
def State.ladderLook (s : State) (x : Launch) : State :=
  if x.rung = 0 then s
  else if !s.rungDone x then
    let t := lastTick (s.workOf x)
    if (s.workOf x).isEmpty then s
    else (s.unsched fun e => e.i == (if x.rung = 1 then Instr.drainComplete else .saveComplete) && e.arg == .n x.slot).sched (max (s.now + 1) t) 6
      .none (if x.rung = 1 then .drainComplete else .saveComplete) (.n x.slot)
  else match x.home with
    | some h => if x.members = [(h, 5)] then s else (s.updLaunch x.id fun y => { y with members := [(h, 5)] }).report x 5 []
    | none => if x.allAt 5 then s.finishSave x else s

/-- A pre-empted team looks whether it has drained (R385). -/
def execDrainComplete (s : State) : Res :=
  match s.ev.arg with
  | .n slot =>
    match (if slot = 0 then none else s.launchOf slot) with
    | some x => .next (s.ladderLook x)
    | none => .next s
  | _ => .next s

/-- The save area is written once every command has stopped (R385, R388). -/
def execSaveComplete (s : State) : Res :=
  match s.ev.arg with
  | .n slot =>
    match (if slot = 0 then none else s.launchOf slot) with
    | some x => .next (if x.rung = 2 then s.ladderLook x else s)
    | none => .next s
  | _ => .next s

/-- Rung 1 for the atolls of this package: each strand stops at its next event point (R384, R385). -/
def State.beginDrain (s : State) (x : Launch) (reason : Nat) : State :=
  let s1 := s.updLaunch x.id fun y => { y with rung := 1, reason := reason }
  let s2 := s1.eachOf x.atolls fun s => if s.a.st.run = .run then s.requestEvent else s
  s2.sched s.now 6 .none .drainComplete (.n x.slot)

/-- The exchange entries of an atoll are lost; the first issued is what the strand will report (R387). -/
def Atoll.loseExchanges (a : Atoll) : Atoll :=
  let l := (a.xs.map fun e => (e.id, xtimeInfo 0x87 e.key.lvl e.key.t)) ++ a.xr.map fun e => (e.id, xtimeInfo 0x87 e.key.lvl e.key.t + 2 ^ 11)
  match l with
  | [] => a
  | x :: r =>
    let y := r.foldl (fun (m : Nat × Nat) e => if e.1 < m.1 then e else m) x
    { a with xs := [], xr := [], st := { a.st with xlost := some y.2 } }

/-- Rung 2 for the atolls of this package: running commands stop at their row and plane boundaries, and exchange entries and rows in
transit are discarded (R312, R341, R362, R385, R387). -/
def State.beginSave (s : State) (x : Launch) : State :=
  let stop := fun (e : Ev) => x.atolls.contains e.atoll && (match e.i with
    | .copyStart | .planeSent | .relayPlaneSend | .nmcReefCheck | .nmcRowUpdate | .xsendDepart | .xrecvArrival
    | .exchangeReceiveTimeout => true
    | .linkCommandArrive => (match e.arg with
      | .n _ => true
      | _ => false)
    | _ => false)
  let s1 := (s.unsched stop).updLaunch x.id fun y => { y with rung := 2, members := y.members.map fun m => (m.1, 2) }
  let s2 := x.atolls.foldl (fun (s : State) m => s.updAtoll m Atoll.loseExchanges) s1
  s2.later 0 .saveComplete (.n x.slot)

/-- T1 has passed without a complete drain: rung 2 starts, and T2 counts from here (R385). -/
def execLadderT1Expiry (s : State) : Res :=
  match s.ev.arg with
  | .n slot =>
    match (if slot = 0 then none else s.launchOf slot) with
    | some x =>
      if x.rung = 1 ∧ x.home.isNone then
        let s1 := (s.beginSave x).orderAll x 6 [2, x.reason]
        .next (s1.schedAt 0 (s.now + (s.fe.queue x.q).t2 * 4400000) 6 .none .ladderT2Expiry (.n slot))
      else .next s
    | none => .next s
  | _ => .next s

/-- A launch of this front end is reset: every command is abandoned, and it ends with a status; its queue takes a state (R385, R391). -/
def State.resetLaunch (s : State) (x : Launch) (status st : Nat) (flt : List Word) : State :=
  let y := { x with meters := x.meters ++ s.metersOf x, fault := (status, flt) }
  let s1 := ((s.setRung x.q 3).orderAll x 6 [3, x.reason]).releaseLaunch x
  s1.endLaunch y status st

/-- A queue's head launch past READY goes to rung 3; one that has not been placed is left (R385). -/
def State.forceReset (s : State) (x : Launch) (status st : Nat) : State :=
  if x.slot = 0 ∧ !x.saved then s else s.resetLaunch x status st []

/-- Rung 3 (R385): T2 has passed without a complete save, or a reason that goes straight to it. -/
def execLadderT2Expiry (s : State) : Res :=
  match s.ev.arg with
  | .n slot =>
    match (if slot = 0 then none else s.launchOf slot) with
    | some x => .next (if x.rung = 2 ∧ x.home.isNone then s.resetLaunch x 4 8 [] else s)
    | none => .next s
  | .n2 slot reason =>
    match (if slot = 0 then none else s.launchOf slot) with
    | some x =>
      if x.home.isSome then .next (s.report x 6 [16 + reason])
      else
        let s1 := if reason = 8 then s else s.setReason x.q reason
        .next (s1.resetLaunch x (if reason = 7 then 6 else 4) 8 [])
    | none => .next s
  | _ => .next s

/-- A pre-emption request: reasons 5 to 7 go to rung 3, the others enter the ladder of a running launch at rung 1; one for a launch
that is being placed is held (R384, R385, R410). -/
def State.preempt (s : State) (x : Launch) (reason : Nat) : State :=
  if x.home.isSome then s.report x 6 [reason]
  else if 5 ≤ reason then s.sched s.now 6 .none .ladderT2Expiry (.n2 x.slot reason)
  else
    let st := (s.fe.queue x.q).state
    if st = 3 then s.updQueue x.q fun q => { q with preempt := some (q.preempt.getD reason) }
    else if st ≠ 4 then s
    else
      let s1 := ((s.setReason x.q reason).setQState x.q 5).updLaunch x.id fun y => { y with members := y.members.map fun m => (m.1, 2) }
      let s2 := (s1.beginDrain x reason).orderAll x 6 [1, reason]
      s2.schedAt 0 (s.now + (s.fe.queue x.q).t1 * 4400) 6 .none .ladderT1Expiry (.n x.slot)

/-- A pre-emption request reaches the front end (R384). -/
def execPreemptRequest (s : State) : Res :=
  match s.ev.arg with
  | .n2 slot reason =>
    match (if slot = 0 then none else s.launchOf slot) with
    | some x => .next (s.preempt x reason)
    | none => .next s
  | _ => .next s

/-! ## The end (R390, R391, R399) -/

/-- Every strand has halted, and everything of the team has arrived (R390). -/
def State.teamOver (s : State) (x : Launch) : Bool :=
  (s.workOf x).isEmpty && s.allAtolls x fun a => a.st.run == .halted && a.empty

/-- A launch looks whether it has ended, or whether its rung has succeeded (R385, R390). -/
def execLaunchEnd (s : State) : Res :=
  match s.ev.arg with
  | .n slot =>
    match (if slot = 0 then none else s.launchOf slot) with
    | none => .next s
    | some x =>
      let done := s.teamOver x
      let halted := s.allAtolls x fun a => a.st.run == .halted && a.empty
      match x.home with
      | some h =>
        if done && x.members == [] && x.rung == 0 then
          .next ((s.updLaunch x.id fun y => { y with members := [(h, 3)] }).report x 3
            ((s.metersOf x).flatMap fun m => [m.1, m.2]))
        else .next (s.ladderLook x)
      | none =>
        let st := (s.fe.queue x.q).state
        if done && (st == 4 || st == 5) && x.allAt 3 then
          let y := { x with meters := x.meters ++ s.metersOf x }
          .next (((s.orderAll x 7 []).releaseLaunch x).endLaunch y 0 0)
        else if halted && !(s.workOf x).isEmpty then
          .next ((s.unsched fun e => e.i == .launchEnd && e.arg == .n slot).sched (max (s.now + 1) (lastTick (s.workOf x))) 6 .none .launchEnd
            (.n slot))
        else .next (s.ladderLook x)
  | _ => .next s

/-- The words of a fault record: the atoll's coordinates, TRPC, TRCAUSE and TRINFO (R391, R411). -/
def State.faultWords (s : State) (m : Nat) : List Word :=
  let g := s.coords m
  match s.atoll m with
  | some a => [nat64 (g.1 + g.2 * 2 ^ 10), a.st.trpc, a.st.trcause, a.st.trinfo]
  | none => [nat64 (g.1 + g.2 * 2 ^ 10)]

/-- A strand fault, or with a cause of 256 a link fault, ends the launch through rung 3 (R391). -/
def execStrandFaultEnd (s : State) : Res :=
  match s.ev.arg with
  | .n2 slot code =>
    match (if slot = 0 then none else s.launchOf slot) with
    | none => .next s
    | some x =>
      let who := (x.atolls.find? fun m => match s.atoll m with
        | some a => a.st.run == .fault code
        | none => false).getD (x.atolls.getD 0 0)
      let flt := if code = 256 then [] else s.faultWords who
      match x.home with
      | some h =>
        if s.lost (pkgAtoll h) then .next (((s.releaseLaunch x).updFe fun f =>
          { f with launches := f.launches.filter fun y => y.id != x.id }).kickScheduler)
        else .next (s.report x 4 (code :: flt.map BitVec.toNat))
      | none => .next ((if code = 256 then s.setReason x.q 7 else s).resetLaunch x (if code = 256 then 6 else 5) 8 flt)
  | _ => .next s

/-! ## Members of a launch that spans packages (R397 to R399) -/

/-- A launch as its member front end holds it. -/
def memberLaunch (id home slot gx gy w h : Nat) : Launch :=
  { id := id, slot := slot, q := 0, seqn := 0, tag := 0, home := some home, desc := [], meter := 0, gx := gx, gy := gy, w := w, h := h
    atolls := [], graphs := [], brken := false, imported := false, saved := false, pcount := 0, rung := 0, reason := 0, since := 0
    unfit := none, tried := none, members := [], meters := [], kept := [], gone := [], fault := (0, []) }

/-- The header of a save area that an import finds bad: its version, rung, rectangle, record count or digest (R409). -/
def State.headerBad (s : State) (x : Launch) : Bool :=
  let h := fun k => s.dev.at (x.savePa + 8 * k)
  let recs := s.records x
  s.dev.badRange x.savePa 4096 || (recs.any fun j => s.dev.badRange (recordAt x.savePa j) recordSize) || fld (h 0) 0 8 != 1 ||
    (fld (h 0) 8 2 != 1 && fld (h 0) 8 2 != 2) || h 1 != x.rect || fld (h 2) 0 32 != recs.length ||
    s.dev.digest x.savePa recs != (List.range 4).map fun k => h (4 + k)

/-- A claim reaches a member front end, which grants or refuses it (R398). -/
def execPlacementClaim (s : State) : Res :=
  match s.ev.arg with
  | .list _ (id :: home :: gx :: gy :: w :: h :: graphs :: chans) =>
    let x0 := match s.launchId id with
      | some y => { y with slot := s.fe.freeSlot, rung := 0, members := [] }
      | none => memberLaunch id home s.fe.freeSlot gx gy w h
    let x := { x0 with atolls := s.fe.inside x0, graphs := (List.range graphs).map fun k => (8 + k, []) }
    if s.freeAtolls x.atolls && s.cool x.atolls && s.unitsFree graphs chans then
      let s1 := s.updFe fun f => { f with launches := (f.launches.filter fun y => y.id != id) ++
        [{ x with gone := [] }] }
      let s2 := chans.foldl (fun (s : State) c => s.updChan c fun ch => { ch with owner := x.slot }) s1
      .next ((x.atolls.foldl (fun (s : State) m => s.updAtoll m fun a => { a with slot := x.slot }) s2).report x 0 [])
    else .next (s.report x 1 [])
  | _ => .next s

/-- A member has no part in a launch any more, but one that has been saved here keeps its record (R398, R399). -/
def State.dropMember (s : State) (x : Launch) : State :=
  if x.saved then s.updLaunch x.id fun y => { y with slot := 0, graphs := [] }
  else s.updFe fun f => { f with launches := f.launches.filter fun y => y.id != x.id }

/-- A granted claim is withdrawn: what was held for it is free (R398). -/
def execClaimWithdraw (s : State) : Res :=
  match s.ev.arg with
  | .list _ [id] =>
    match s.launchId id with
    | some x =>
      if x.home.isNone then .next s
      else
        let s1 := s.releaseLaunch x
        .next (s1.dropMember x).kickScheduler
    | none => .next s
  | _ => .next s

/-- A claim has been refused: every grant is withdrawn, and the launch has not fitted (R398). -/
def State.refused (s : State) (x : Launch) : State :=
  let st := if x.saved then 6 else 2
  let s1 := (s.withdraw x).setQState x.q st
  let y := { x with slot := 0 }
  match (if (x.dw 0).getLsbD 11 && !x.saved then (s1.choices y).find? fun z => s1.fits z else none) with
  | some z => s1.claim z
  | none => (s1.updLaunch x.id fun x => { x with tried := none }).notFitted y

/-- Pairs of a flat list. -/
def pairsOf : List Nat → List (Nat × Nat)
  | a :: b :: r => (a, b) :: pairsOf r
  | _ => []

/-- A member's report reaches the home front end (R398, R399). -/
def execMemberReport (s : State) : Res :=
  match s.ev.arg with
  | .list _ (kind :: id :: p :: l) =>
    match s.launchId id with
    | none => .next s
    | some x =>
      if x.home.isSome then .next s
      else
        let y := x.stage p (match kind with
          | 0 => 1
          | k => k)
        let s1 := s.updLaunch id fun _ => y
        match kind with
        | 0 =>
          (match y.members.find? fun m => m.2 == 0 with
           | some m => .next (s1.toFront m.1 ([0, id, s.fe.pkg, x.gx, x.gy, x.w, x.h, x.graphs.length] ++
               x.channels s.dev (m.1 / 32, m.1 % 32)))
           | none => .next (s1.later 0 .schedulerPlace (.n x.slot)))
        | 1 => .next (s.refused x)
        | 2 => if y.allAt 2 && (s.fe.queue x.q).state == 3 then .next ((s1.orderAll y 5 []).go y) else .next s1
        | 3 => .next ((s1.updLaunch id fun z => { z with meters := z.meters ++ pairsOf l }).sched s.now 6 .none .launchEnd (.n x.slot))
        | 4 =>
          let code := l.getD 0 0
          .next ((if code = 256 then s.setReason x.q 7 else s).resetLaunch x (if code = 256 then 6 else 5) 8 ((l.drop 1).map nat64))
        | 5 => .next (s1.ladderLook y)
        | 6 =>
          let r := l.getD 0 0
          .next (if 16 ≤ r then s.sched s.now 6 .none .ladderT2Expiry (.n2 x.slot (r - 16)) else s.preempt x r)
        | 7 => .next ((s.withdraw x).endLaunch x 1 0)
        | 8 => .next ((s.withdraw x).endLaunch x 3 0)
        | _ => .next s
  | _ => .next s

/-- A member has not reported its steps within 100 ms: the placement fails (R398). -/
def execMemberReportTimeout (s : State) : Res :=
  match s.ev.arg with
  | .n2 id _ =>
    match s.launchId id with
    | some x =>
      if x.home.isNone && (s.fe.queue x.q).state == 3 then .next ((s.withdraw x).endLaunch x 3 0) else .next s
    | none => .next s
  | _ => .next s

/-- A member's part of a launch is over: its atolls are free. -/
def State.memberDone (s : State) (x : Launch) : State :=
  ((s.releaseLaunch x).updFe fun f => { f with launches := f.launches.filter fun y => y.id != x.id }).kickScheduler

/-- Words 64 bits below and 32 bits above of a 96-bit sum. -/
def addQuota (lo hi g : Nat) : Nat × Nat :=
  let x := (lo + 2 ^ 64 * hi + g) % 2 ^ 96
  (x % 2 ^ 64, x / 2 ^ 64)

/-- The saved records of a launch in this package take a grant, and their digest follows (R392). -/
def State.grantSaved (s : State) (x : Launch) (g : Nat) : State :=
  let put := fun (d : Dev) (a k : Nat) =>
    let lo := a + 8 * (128 + k)
    let r := addQuota (d.at lo).toNat (fld (d.at (lo + 8)) 0 32) g
    { d with mem := (d.mem.setWord lo (nat64 r.1)).setWord (lo + 8) (nat64 r.2) }
  let s1 := (s.records x).foldl (fun (s : State) j =>
    s.updDev fun d => put (put d (recordAt x.savePa j) 0x010) (recordAt x.savePa j) 0x012) s
  s1.updDev fun d => d.resign x.savePa (s.records x)

/-- The strands of a launch that run here take a grant (R392). -/
def State.grantLive (s : State) (x : Launch) (g : Nat) : State :=
  if x.slot = 0 then s
  else x.atolls.foldl (fun (s : State) m => s.updAtoll m fun a =>
    { a with st := { a.st with quota := (a.st.quota + g) % 2 ^ 96, bal := (BitVec.ofInt 96 (a.st.bal + g)).toInt } }) s

/-- An order of the home front end reaches a member (R397 to R399). -/
def execMemberLoad (s : State) : Res :=
  match s.ev.arg with
  | .list _ (kind :: id :: _ :: l) =>
    match s.launchId id with
    | none => .next s
    | some x =>
      if x.home.isNone then .next s
      else match kind, l with
        | 0, fn :: saved :: pcount :: qsw :: gx :: gy :: imp :: q :: seqn :: d =>
          let y := { x with q := q, seqn := seqn, desc := d.map nat64, gx := gx, gy := gy, saved := saved == 1, pcount := pcount, imported := imp == 1, graphs := [] }
          let s1 := s.updLaunch id fun _ => y
          if !s.pathsUp y then .next (s1.report y 8 [])
          else if s.partBad y fn || (y.imported && s.headerBad y) then .next (s1.report y 7 [])
          else if y.saved then .next (s1.restoreTeam y (nat64 qsw)) else .next (s1.startAtolls y)
        | 1, [w, v] => .next (s.loadReg x (nat64 w) (nat64 v))
        | 2, [w, row, v] => .next (s.loadRow x (nat64 w) row (BitVec.ofNat 1024 v))
        | 3, idx :: img => .next (s.updLaunch id fun y => { y with graphs := y.graphs ++ [(idx, img.map nat64)] })
        | 4, _ => .next (s.report x 2 [])
        | 5, _ =>
          let s1 := ((s.setRunning x).runTeam x).eachOf x.atolls State.resumeCommands
          .next (s1.updLaunch id fun y => { y with saved := false, kept := [], imported := false, rung := 0, gone := [] })
        | 6, [rung, reason] =>
          if rung = 1 then .next (((s.strandQsw x 8 3 reason).updLaunch id fun y => { y with members := [] }).beginDrain x reason)
          else if rung = 2 then .next ((s.updLaunch id fun y => { y with members := [] }).beginSave { x with members := [] })
          else .next (s.memberDone x)
        | 7, _ => .next (s.memberDone x)
        | 8, [g] => .next ((if x.saved then s.grantSaved x g else s).grantLive x g)
        | 9, c :: start :: w => .next (s.loadScript x c start (w.map nat64))
        | 10, [rung] => .next ((s.savePart { x with rung := rung }).kickScheduler)
        | _, _ => .next s
  | _ => .next s

end Sys2Proof.Machine
end

