-- ==== Sys2Proof/Machine/Host.lean ====
section
/-! DEFINITION. The host side: doorbells and command packets (R404 to R410), registers (R8, R402, R403, R423), start-up and firmware
(R414 to R417), the debug window (R418, R419), thermal, health and supply reports (R29, R420, R424), translation (R166, R393 to
R395), and frames from other packages (R315 to R318). -/

namespace Sys2Proof.Machine

/-! ## Doorbells and packets (R405 to R409) -/

/-- QTAIL is written (R405). -/
def execQtailDoorbell (s : State) : Res :=
  match s.ev.arg with
  | .n2 q tail =>
    if !s.fe.firm.ready then .next s
    else
      let t := tail % 2 ^ 16
      .next ((s.updQueue q fun x => { x with tail := t, err := x.err || decide (2 ^ x.qlog ≤ t) }).pump q)
  | _ => .next s

/-- NOP completes; so does every packet that R406 refuses, with BADPKT. -/
def execNop (s : State) : Res :=
  match s.ev.arg with
  | .packet q tag w => .next (s.endPacket q tag (if nopOk w then 0 else 7))
  | _ => .next s

/-- The launch that a packet names, with its descriptor (R368, R406). -/
def State.launchOfPacket (s : State) (q tag : Nat) (w : List Word) : Launch :=
  let d := s.dev.words (w.getD 1 0).toNat 32
  let n := (s.fe.queue q).seqn
  let x : Launch :=
    { id := s.fe.pkg * 2 ^ 31 + q * 2 ^ 19 + n, slot := 0, q := q, seqn := n, tag := tag, home := none, desc := d, meter := (w.getD 2 0).toNat
      gx := 0, gy := 0, w := 1, h := 1, atolls := [], graphs := [], brken := false, imported := false, saved := false, pcount := 0, rung := 0
      reason := 0, since := s.now, unfit := none, tried := none, members := [], meters := [], kept := [], gone := [], fault := (0, []) }
  x.at' s.fe (x.df 1 0 10) (x.df 1 10 8)

/-- The launch takes the queue's next sequence number (R370, R386). -/
def State.enroll (s : State) (x : Launch) (qsw : Word) : State :=
  let s1 := s.updQueue x.q fun q => { q with seqn := (q.seqn + 1) % 2 ^ 19, qsw := qsw, preempt := none }
  s1.updFe fun f => { f with launches := f.launches ++ [x], ended := f.ended.filter fun e => !(e.1 == x.q && e.2.1 == x.seqn) }

/-- LAUNCH at the head of its queue: the descriptor is checked, and its dependences are looked at (R369, R371, R406). -/
def execLaunch (s : State) : Res :=
  match s.ev.arg with
  | .packet q tag w =>
    let x := s.launchOfPacket q tag w
    let s1 := s.enroll x 0
    .next (if s.descBad x (w.getD 1 0).toNat then s1.endLaunch x 1 0 else s1.firstLook x)
  | _ => .next s

/-- LAUNCH with RESUME = 1 imports a saved launch (R409). -/
def execLaunchResume (s : State) : Res :=
  match s.ev.arg with
  | .packet q tag w =>
    let x := s.launchOfPacket q tag w
    let pc := fld (s.dev.at (x.savePa + 24)) 0 32
    if s.descBad x (w.getD 1 0).toNat || (x.dw 0).getLsbD 11 || s.headerBad x then .next (s.endPacket q tag 1)
    else .next (((s.enroll { x with saved := true, imported := true, pcount := pc } (nat64 (pc * 2 ^ 32))).setQState q 6).kickScheduler)
  | _ => .next s

/-- HARVEST reads and clears the dirty bits of its groups in order, and writes the results (R364, R407). -/
def execHarvest (s : State) : Res :=
  match s.ev.arg with
  | .packet q tag w =>
    let p := fld (w.getD 1 0) 16 32
    let n := (w.getD 3 0).toNat
    let word := fun (g : Nat) => nat64 (packEls 1 (fun i => (s.dev.dirty.contains (p + 64 * g + i)).toNat) 64)
    let s1 := s.hostWords ((s.fe.queue q).hostBase + (w.getD 2 0).toNat) ((List.range n).map word)
    let s2 := s1.updDev fun d => { d with dirty := d.dirty.filter fun x => !(decide (p ≤ x) && decide (x < p + 64 * n)) }
    .next (s2.endPacket q tag 0)
  | _ => .next s

/-- MIGDONE clears the page's queued mark and its access counters (R365, R407). -/
def execMigdone (s : State) : Res :=
  match s.ev.arg with
  | .packet q tag w =>
    let p := fld (w.getD 1 0) 16 32
    let s1 := s.updFe fun f => { f with queued := f.queued.filter fun x => x != p }
    let s2 := s1.updDev fun d => { d with acc := d.acc.filter fun c => c.1 / 256 != p }
    .next (s2.endPacket q tag 0)
  | _ => .next s

/-- A 2 MiB frame lies wholly within the device memory of a function; the PF has all that is assigned to no VF (R408). -/
def State.frameOf (s : State) (fn frame : Nat) : Bool :=
  let a := frame * 2 ^ 21
  decide (a + 2 ^ 21 ≤ 12582912 * s.dev.live.length * 128) &&
    (if fn = 0 then !(s.fe.memFn.any fun m => m.1 != 0 && decide (max a m.2.1 < min (a + 2 ^ 21) (m.2.1 + m.2.2))) else s.fe.owns fn a (2 ^ 21))

/-- CCADD enters a frame in the table of compute-capable pages (R408). -/
def execCcadd (s : State) : Res :=
  match s.ev.arg with
  | .packet q tag w =>
    let f := fld (w.getD 1 0) 21 27
    if s.frameOf (fld (w.getD 2 0) 0 6) f then
      .next ((s.updDev fun d => { d with cctab := f :: d.cctab.filter fun x => x != f }).endPacket q tag 0)
    else .next (s.endPacket q tag 7)
  | _ => .next s

/-- An nmc of this package that has passed its check on a frame has still to arrive. -/
def State.nmcOn (s : State) (f : Nat) : Bool :=
  (s.a :: s.others).any fun a => a.lq.any fun c => c.kind == .nmc && c.hdr && c.frame / 32 == f

/-- CCDEL removes a frame at once, and completes after every nmc that passed its check on it (R408). -/
def execCcdel (s : State) : Res :=
  match s.ev.arg with
  | .packet q tag w =>
    let f := fld (w.getD 1 0) 21 27
    let s1 := s.updDev fun d => { d with cctab := d.cctab.filter fun x => x != f }
    if s.nmcOn f then .next (s1.again (s.now + 4)) else .next (s1.endPacket q tag 0)
  | _ => .next s

/-! ## Queue registers (R401, R404, R405, R410) -/

/-- The fields of QCFG; CLOG and QLOG keep their values where the written ones are outside 4 to 12 (R9, R404). -/
def cfgWord (old v : Word) : Word :=
  let ok := fun (x : Nat) => decide (4 ≤ x) && decide (x ≤ 12)
  let w := v &&& 0xE00FFFFF07FF0F0F
  let w1 := if ok (fld v 8 4) then w else setBits w 8 4 (fld old 8 4)
  if ok (fld v 0 4) then w1 else setBits w1 0 4 (fld old 0 4)

/-- QCFG is written: while EN = 1 only EN changes; setting EN starts fetching, and clearing it forces a launch past READY to
rung 3 (R370, R404, R405). -/
def execQcfgWrite (s : State) : Res :=
  match s.ev.arg with
  | .nw q v =>
    let x := s.fe.queue q
    if !s.fe.firm.ready then .next s
    else
      let c := if x.en then setBits x.qcfg 63 1 (fld v 63 1) else cfgWord x.qcfg v
      let s1 := s.updQueue q fun x => { x with qcfg := c }
      if !x.en && v.getLsbD 63 then
        let s2 := s1.updQueue q fun x => if x.err then { x with err := false, head := x.tail % 2 ^ x.qlog, tail := x.tail % 2 ^ x.qlog } else x
        match s.headOf q with
        | some l => .next (s2.firstLook l)
        | none => .next ((s2.setQState q 0).pump q)
      else if x.en && !v.getLsbD 63 then
        match s.headOf q with
        | some l => .next ((s1.forceReset l 4 9).setQState q 9)
        | none => .next (s1.setQState q 9)
      else .next s1
  | _ => .next s

/-- CHEAD is written: a held entry is written when there is room, and the queue goes on (R411). -/
def execCheadWrite (s : State) : Res :=
  match s.ev.arg with
  | .n2 q v =>
    if !s.fe.firm.ready then .next s
    else
      let s1 := s.updQueue q fun x => { x with chead := v % 2 ^ 16 }
      match (s1.fe.queue q).heldc with
      | some w => .next (if (s1.fe.queue q).full then s1 else (s1.writeEntry q w).pump q)
      | none => .next s1
  | _ => .next s

/-- QCTL PREEMPT: a request with reason 0 (R410). -/
def execQctlPreempt (s : State) : Res :=
  match s.ev.arg with
  | .n q =>
    match s.headOf q with
    | some x => .next (if x.slot = 0 then s else s.preempt x 0)
    | none => .next s
  | _ => .next s

/-- A HELD queue becomes SAVED (R392, R410). -/
def State.releaseHeld (s : State) (q : Nat) : State :=
  if (s.fe.queue q).state ≠ 7 then s
  else match s.headOf q with
    | some x =>
      ((s.updLaunch x.id fun x => { x with since := s.now, unfit := none, tried := none }).setQState q 6).kickScheduler
    | none => s

/-- QCTL RELEASE (R410). -/
def execQctlRelease (s : State) : Res :=
  match s.ev.arg with
  | .n q => .next (s.releaseHeld q)
  | _ => .next s

/-- QCTL GRANT: QGRANT is added to ENQUOTA and ENMETER of every strand of the head launch, running or saved; before its strands
exist, to the quota they will have (R392, R410). -/
def execQctlGrant (s : State) : Res :=
  match s.ev.arg with
  | .n q =>
    let g := (s.fe.queue q).grant
    match s.headOf q with
    | none => .next s
    | some x =>
      let st := (s.fe.queue q).state
      if x.saved then .next ((s.grantSaved x g).orderAll x 8 [g])
      else if st = 2 ∨ st = 3 then
        let r := addQuota (x.da 8) (x.df 9 0 32) g
        .next (s.updLaunch x.id fun x => { x with desc := (x.desc.set 8 (nat64 r.1)).set 9 (nat64 r.2) })
      else if x.slot ≠ 0 then
        .next ((x.atolls.foldl (fun (s : State) m => s.updAtoll m fun a =>
          { a with st := { a.st with quota := (a.st.quota + g) % 2 ^ 96, bal := (BitVec.ofInt 96 (a.st.bal + g)).toInt } }) s).orderAll x 8 [g])
      else .next s
  | _ => .next s

/-- QCTL REENABLE: a STOPPED queue goes on (R410). -/
def execQctlReenable (s : State) : Res :=
  match s.ev.arg with
  | .n q => .next (if (s.fe.queue q).state = 8 then (s.setQState q 0).pump q else s)
  | _ => .next s

/-- QMAP is written, in its field FUNC: the assignment is applied once the queue is EMPTY or DISABLED (R401, R403). -/
def execQmapWrite (s : State) : Res :=
  match s.ev.arg with
  | .n2 q f =>
    .next (if !s.fe.firm.ready then s else s.updQueue q fun x => { x with pend := some (f % 64) }.assign)
  | _ => .next s

/-! ## Starts (R417) -/

/-- The step comes from outside the package: the host, system software, the regulators, sensors, and other packages. -/
def envRow (i : Instr) : Bool :=
  match i with
  | .lagoonHoldBegin | .lagoonHoldEnd | .railChange | .patrolScrub | .layerTempSample | .channelFail | .straitFrameReceive
  | .replayRequest | .rclkLockLoss | .revokePage | .pasidTeardown | .junctionTempReport | .qtailDoorbell | .qcfgWrite | .cheadWrite
  | .qctlPreempt | .qctlRelease | .qctlGrant | .qctlReenable | .qmapWrite | .devctlCold | .devctlWarm | .powerOn | .fwupdGo | .dbgctlStop
  | .dbgctlBrken | .dbgctlResume | .dbgdataRead | .dbgdataWrite | .readClear | .registerWrite | .ageUpdate | .pairMismatch | .workerFault
  | .supplyFault | .powerLoss | .sparePortBind | .pageRequestResponse | .atsTranslationResponse | .hostLinkRetrain | .spdmRequest
  | .tdispRequest | .graphImageLoad | .memoryAssignment | .pasidAssignment | .retirementRecordWrite => true
  | _ => false

/-- What a start leaves on the agenda: what comes from outside, at its own time, which a cold start counts from its own beginning.  Of a
write of COLD and WARM together the cold start is taken (R403). -/
def State.outside (s : State) (cold : Bool) : List Ev :=
  (s.agenda.filter fun e => envRow e.i && !(cold && e.i == .devctlWarm && e.tick == s.now)).map fun e => if cold then { e with tick := e.tick - s.now } else e

/-- The firmware across a start: what is in flash and in fuses stays; READY and DONE are clear (R403, R416, R417). -/
def Firm.restart (f : Firm) (warm : Bool) : Firm :=
  { Firm.init with image := f.image, staged := f.staged, roll := f.roll, warm := warm, links := if warm then f.links else [0, 0, 0, 0] }

/-- The package without power, or as a cold start begins: nothing volatile is left (R417). -/
def State.dark (s : State) (f : Firm) : State :=
  let r := State.reset
  { r with dev := { r.dev with retire := s.dev.retire }, fe := { r.fe with px := s.fe.px, py := s.fe.py, mesh := s.fe.mesh, firm := f }
           host := s.host, out := s.out, agenda := s.outside true, free := s.free, seq := s.seq }

/-- A cold start: the reference count and GTC start at 0; its end is nominal (R19, R417). -/
def State.coldStart (s : State) : State := (s.dark (s.fe.firm.restart false)).later 0 .startDone .none

/-- DEVCTL.COLD; a device in recovery does not expose DEVCTL (R416, R417). -/
def execDevctlCold (s : State) : Res := .next (if s.fe.firm.recov then s else s.coldStart)

/-- Power-on (R417). -/
def execPowerOn (s : State) : Res := .next s.coldStart

/-- Entries for which a warm start finds no room are dropped and recorded (R417, R422). -/
def State.dropHeld (s : State) : State :=
  s.fe.queues.foldl (fun (s : State) q => match q.heldc with
    | some w => (s.updQueue q.q fun x => { x with heldc := none }).record 0xA (q.q * 2 ^ 8 + fld (w.getD 0 0) 16 19 * 2 ^ 20)
    | none => s) s

/-- Every launch ends with RESET (R414, R417). -/
def State.endAll (s : State) (st : Nat) : State :=
  (s.fe.launches.map fun x => x.id).foldl (fun (s : State) id => match s.launchId id with
    | some x =>
      if x.home.isSome then
        (s.releaseLaunch x).updFe fun f => { f with launches := f.launches.filter fun y => y.id != id }
      else if x.slot = 0 ∧ !x.saved then s.leave x 4 st else s.resetLaunch x 4 st []
    | none => s) s

/-- DEVCTL.WARM: every launch ends, queues are disabled and registers take their reset values; GTC, the links, the event log and, as
far as step 6 goes, device memory stay (R8, R417, log 68).  Of a write of COLD and WARM together only the cold start is taken, and a device
in recovery does not expose DEVCTL (R403, R416). -/
def execDevctlWarm (s : State) : Res :=
  if s.fe.firm.recov || s.agenda.any fun e => e.i == .devctlCold && e.tick == s.now then .next s
  else
  let s1 := ((s.endAll 9).updFe fun f => { f with evhead := 0, evtail := 0, evlost := 0 }).dropHeld
  let fe := { Fe.init with
    px := s.fe.px, py := s.fe.py, mesh := s.fe.mesh, rail := s.fe.rail, temp := s.fe.temp, tables := s.fe.tables
    firm := s.fe.firm.restart true, evlog := s1.fe.evlog, evhead := s1.fe.evhead, evtail := s1.fe.evtail, evlost := s1.fe.evlost }
  let clear := fun (a : Atoll) =>
    let d := startDiv (if a.n < 80 then s.fe.rail.1 else s.fe.rail.2)
    { a.clear s.now (if a.n < 80 then s.fe.rail.1 else s.fe.rail.2) with div := ⟨d, d, d, d, d, d⟩ }
  let chan := fun (c : Chan) => { Chan.init c.c with state := c.state }
  let s2 := { s1 with a := clear s1.a, others := s1.others.map clear, fe := fe, agenda := s1.outside false
                      dev := { s1.dev with chans := s1.dev.chans.map chan, temps := [] } }
  .next (s2.later 0 .startDone .none)

/-- The channels that are live once the retirement record is applied (R346, R347). -/
def Dev.retired (d : Dev) : Dev :=
  let live := (List.range 256).filter fun c => !d.retire.contains c
  let chans := d.chans.map fun c => if d.retire.contains c.c then { c with state := 2 } else if c.state = 2 then { c with state := 0 } else c
  if live = d.live then { d with chans := chans }
  else { d with mem := [], poison := [], cctab := [], dirty := [], acc := [], live := live, chans := chans }

/-- Widths and generations that the links have trained to: ×4, ×8 or ×16, and 6 or 7 (R400, R403). -/
def State.trained (s : State) : List Nat :=
  let w := fun k => (Config.freeWord (s.free + k)).toNat
  [1 + w 0 % 3, 6 + w 1 % 2, 1 + w 2 % 3, 6 + w 3 % 2]

/-- The start sequence completes: the image in flash is in force and the rollback counter advances, channels are retired, the
controllers take the GTC of their die, the links are trained, the crossing bounds are measured, and READY is set; without an image the device is in recovery (R347,
R349, R416, R417). -/
def execStartDone (s : State) : Res :=
  let f := s.fe.firm
  if f.image.isNone then .next (s.updFe fun e => { e with firm := { f with recov := true } })
  else
    let v := f.staged.getD (f.image.getD 0)
    let s1 := s.updFe fun e => { e with cross := (List.range 4).map (fun k => Config.nominal (s.free + 4 + k))
                                        firm := { f with ready := true, image := some v, staged := none, roll := max f.roll v
                                                         links := if f.warm then f.links else s.trained } }
    let gtc := fun (c : Chan) => ((s.atoll (if c.c < 128 then 0 else 80)).map fun a => a.st.gtcOff).getD 0
    let s2 := s1.updDev fun d => let d := d.retired; { d with chans := d.chans.map fun c => { c with gtcOff := gtc c } }
    .next { s2 with free := s2.free + 8 }

/-! ## Firmware (R403, R414, R416) -/

/-- FWUPD is written: ADDR is stored, and with GO an update starts unless one is in progress (R403, R416). -/
def execFwupdGo (s : State) : Res :=
  match s.ev.arg with
  | .nw _ v =>
    let s1 := s.updFe fun f => { f with firm := { f.firm with addr := fld v 12 52 } }
    if v.getLsbD 0 && !s.fe.firm.busy then
      .next ((s1.updFe fun f => { f with firm := { f.firm with busy := true, err := false, done := false } }).later 0 .firmwareUpdateDone .none)
    else .next s1
  | _ => .next s

/-- Verification and the flash write end.  Whether the signature is good, and the version in its header, are the image's own, whose
format the manual does not give (R403, R416; log 28). -/
def execFirmwareUpdateDone (s : State) : Res :=
  let good := (Config.freeWord s.free).getLsbD 0
  let v := (Config.freeWord (s.free + 1)).toNat % 2 ^ 32
  let s1 := { s with free := s.free + 2 }
  .next (s1.updFe fun f =>
    { f with firm := if good && decide (f.firm.roll ≤ v) then { f.firm with busy := false, done := true, staged := some v, image := some (f.firm.image.getD v) }
                     else { f.firm with busy := false, err := true } })

/-- Power is lost; during an update the image in flash may be lost with it (R416). -/
def execPowerLoss (s : State) : Res :=
  let f := s.fe.firm.restart false
  let lost := f.busy || s.fe.firm.busy && (Config.freeWord s.free).getLsbD 0
  .next ({ s with free := s.free + 1 }.dark (if lost then { f with image := none, staged := none } else f))

/-- FATAL: every queue is forced to rung 3 with status RESET (R414, R424). -/
def State.goFatal (s : State) (cause : Nat) : State :=
  let s1 := (s.record 8 (cause * 2 ^ 8)).updFe fun f => { f with firm := { f.firm with fatal := true } }
  s1.endAll 8

/-- The scheduler pair mismatches: it is restarted and placements start again; a second mismatch within one second is FATAL (R414). -/
def execPairMismatch (s : State) : Res :=
  let second := match s.fe.firm.mismatch with
    | some t => decide (s.now - t < 4400000000)
    | none => false
  let s1 := (s.record 6 (second.toNat * 2 ^ 8)).updFe fun f => { f with firm := { f.firm with mismatch := some s.now } }
  if second then .next (s1.goFatal 1)
  else
    .next ((s.fe.launches.foldl (fun (s : State) x =>
      if x.home.isNone && (s.fe.queue x.q).state == 3 then
        ((s.withdraw x).updLaunch x.id fun y => { y with tried := none }).setQState x.q (if x.saved then 6 else 2)
      else s) s1).kickScheduler)

/-- A worker is restarted, and parses the packet that it had in hand again from its slot (R413, R414). -/
def execWorkerFault (s : State) : Res :=
  match s.ev.arg with
  | .n w =>
    match s.agenda.find? fun e => (match e.arg with
        | .packet q _ _ => q % 8 == w
        | _ => false) with
    | some e =>
      (match e.arg with
       | .packet q _ _ =>
         let s1 := (s.record 7 (w * 2 ^ 8 + q * 2 ^ 16)).unsched fun x => x == e
         .next ((s1.updQueue q fun x => { x with busy := false, head := (x.head + 2 ^ x.qlog - 1) % 2 ^ x.qlog }).pump q)
       | _ => .next s)
    | none => .next (s.record 7 (w * 2 ^ 8))
  | _ => .next s

/-- A rail goes outside its range (R424). -/
def execSupplyFault (s : State) : Res := .next (s.goFatal 2)

/-! ## Registers (R8, R402 to R404, R423) -/

/-- DEVSTAT (R403). -/
def Firm.devstat (f : Firm) : Word :=
  let l := fun k => f.links.getD k 0
  nat64 (f.ready.toNat * 2 ^ 63 + f.fatal.toNat * 2 ^ 62 + f.recov.toNat * 2 ^ 61 + f.warm.toNat * 2 ^ 60 + l 0 * 2 ^ 45 + l 1 * 2 ^ 42 +
    l 2 * 2 ^ 39 + l 3 * 2 ^ 36 + f.roll % 2 ^ 32)

/-- QSTATE (R404). -/
def Queue.qstate (q : Queue) : Word := nat64 (q.ctail * 2 ^ 32 + q.head * 2 ^ 16 + q.err.toNat * 2 ^ 4 + q.state)

/-- A host access names a function, a BAR and an offset: BAR0 of the PF begins at 0, BAR2 of function f at 2^26 + 2^24 f, and BAR0 of VF f
at 2^31 + 2^16 f (R401). -/
def queuePages : Nat := 2 ^ 26
def vfBar : Nat := 2 ^ 31

/-- The queues of a function, in increasing number (R401). -/
def Fe.owned (f : Fe) (fn : Nat) : List Nat := (List.range 4096).filter fun q => (f.queue q).func == fn

/-- The queue whose page holds an offset: page j of a function's BAR2 is that of its j-th queue (R401). -/
def Fe.pageOf (f : Fe) (off : Nat) : Option Nat :=
  if queuePages ≤ off ∧ off < queuePages + 2 ^ 30 then
    (f.owned ((off - queuePages) / 2 ^ 24))[(off - queuePages) % 2 ^ 24 / 4096]?
  else none

/-- A register of a queue's page (R404). -/
def Queue.register (q : Queue) (off : Nat) : Word :=
  match off with
  | 0x00 => q.qbase
  | 0x08 => q.cbase
  | 0x10 => q.qcfg
  | 0x18 => nat64 (q.t1 + q.t2 * 2 ^ 16)
  | 0x28 => nat64 q.chead
  | 0x30 => q.qstate
  | 0x38 => q.qsw
  | 0x48 => nat64 (q.grant % 2 ^ 64)
  | 0x50 => nat64 (q.grant / 2 ^ 64)
  | _ => 0

/-- The value of a host register: BAR0 of the PF, the copy of DEVSTAT in a VF's BAR0, and the queue pages (R401 to R404, R423). -/
def State.register (s : State) (off : Nat) : Word :=
  let f := s.fe
  if off = 0 ∨ (vfBar < off ∧ off < vfBar + 2 ^ 22 ∧ off % 2 ^ 16 = 0) then f.firm.devstat
  else if off = 0x10 then nat64 (f.firm.addr * 2 ^ 12 + f.firm.err.toNat * 8 + f.firm.done.toNat * 4 + f.firm.busy.toNat * 2)
  else if !f.firm.ready then 0
  else if off = 0x100 then nat64 f.agethr
  else if 0x200 ≤ off ∧ off < 0x250 ∧ off % 8 = 0 then f.ages.getD ((off - 0x200) / 8) 0
  else if off = 0x1000 then f.dbgaddr
  else if off = 0x1010 then
    let on := (s.launchOf (s.slotOf (fld f.dbgaddr 48 8))).map fun x => x.brken
    nat64 (f.brkn % 256 * 2 ^ 8 + (on.getD false).toNat * 2)
  else if off = 0x2000 then nat64 f.evhead
  else if off = 0x2008 then nat64 f.evtail
  else if off = 0x2010 then nat64 f.evlost
  else if off = 0x3000 then nat64 f.nqbase
  else if off = 0x3008 then nat64 f.nqhead
  else if off = 0x3010 then nat64 f.nqtail
  else if off = 0x3018 then nat64 (f.nqlost * 2 ^ 32 + f.nqovf.toNat)
  else if off = 0x3020 then nat64 (f.nqvec * 2 ^ 16 + f.acthr)
  else if 0x10000 ≤ off ∧ off < 0x11000 ∧ off % 8 = 0 then SMap.get f.evlog ((off - 0x10000) / 8)
  else if 0x20000 ≤ off ∧ off < 0x28000 ∧ off % 8 = 0 then
    let q := f.queue ((off - 0x20000) / 8)
    nat64 (q.pend.isSome.toNat * 2 ^ 63 + q.func)
  else match f.pageOf off with
    | some q => (f.queue q).register (off % 4096)
    | none => 0

/-- A host read of a register: its value, and a field of code RC is cleared (R8).  A read of w bytes, fewer than 8, gives zero (R402). -/
def execReadClear (s : State) : Res :=
  match s.ev.arg with
  | .n off =>
    let s1 := s.emit 11 [off, (s.register off).toNat]
    if !s.fe.firm.ready then .next s1
    else if off = 0x2010 then .next (s1.updFe fun f => { f with evlost := 0 })
    else if off = 0x3018 then .next (s1.updFe fun f => { f with nqlost := 0 })
    else .next s1
  | .n2 off _ => .next (s.emit 11 [off, 0])
  | _ => .next s

/-- The units that DBGADDR may name (R418). -/
def dbgUnits : List Nat := [1, 2, 3, 4, 5, 6, 7, 8, 0x10, 0x11]

/-- A host write of a register that has no row of its own, under its access code; a reserved unit in DBGADDR leaves UNIT unchanged (R8, R9,
R402 to R404, R418, R423). -/
def execRegisterWrite (s : State) : Res :=
  match s.ev.arg with
  | .nw off v =>
    if off = 0x10 then .next (s.updFe fun f => { f with firm := { f.firm with addr := fld v 12 52 } })
    else if !s.fe.firm.ready then .next s
    else if off = 0x100 then .next (s.updFe fun f => { f with agethr := fld v 0 32 })
    else if off = 0x1000 then .next (s.updFe fun f => { f with dbgaddr := if dbgUnits.contains (fld v 56 8) then v else setBits v 56 8 (fld f.dbgaddr 56 8) })
    else if off = 0x2000 then .next (s.updFe fun f => { f with evhead := fld v 0 8 })
    else if off = 0x3000 then .next (s.updFe fun f => { f with nqbase := v.toNat })
    else if off = 0x3008 then .next (s.updFe fun f => { f with nqhead := fld v 0 12 })
    else if off = 0x3018 then .next (s.updFe fun f => { f with nqovf := f.nqovf && !v.getLsbD 0 })
    else if off = 0x3020 then
      .next (s.updFe fun f => { f with nqvec := fld v 16 11, acthr := if fld v 0 8 = 0 then f.acthr else fld v 0 8 })
    else match s.fe.pageOf off with
    | some q => (match off % 4096 with
      | 0x00 => .next (s.updQueue q fun x => { x with qbase := v })
      | 0x08 => .next (s.updQueue q fun x => { x with cbase := v })
      | 0x18 => .next (s.updQueue q fun x =>
          { x with t1 := if fld v 0 16 = 0 then x.t1 else fld v 0 16, t2 := if fld v 16 16 = 0 then x.t2 else fld v 16 16 })
      | 0x48 => .next (s.updQueue q fun x => { x with grant := v.toNat + x.grant / 2 ^ 64 * 2 ^ 64 })
      | 0x50 => .next (s.updQueue q fun x => { x with grant := x.grant % 2 ^ 64 + fld v 0 32 * 2 ^ 64 })
      | _ => .next s)
    | none => .next s
  | _ => .next s

/-! ## The debug window (R415, R418, R419) -/

/-- The atoll or channel, the unit and the index that DBGADDR names. -/
def State.dbgAtoll (s : State) : Nat := fld s.fe.dbgaddr 48 8
def State.dbgUnit (s : State) : Nat := fld s.fe.dbgaddr 56 8
def State.dbgIndex (s : State) : Nat := fld s.fe.dbgaddr 0 48

/-- The monitor refuses an access that touches what belongs to a VF in the TDISP RUN state (R415). -/
def State.guarded (s : State) (slot : Nat) : Bool :=
  match (if slot = 0 then none else s.launchOf slot) with
  | some x => s.fe.tdi.contains (s.fe.queue x.q).func
  | none => false

/-- CHSTAT (R346). -/
def Chan.chstat (c : Chan) : Word :=
  nat64 (c.owner * 2 ^ 56 + c.ue * 2 ^ 32 + c.ce * 2 ^ 16 + c.running.toNat * 2 ^ 2 + c.state)

/-- Units 0x10 and 0x11: channel registers, and the tables of the front end (R419). -/
def State.frontWord (s : State) (u i : Nat) : Word :=
  if u = 0x10 then
    (match i with
     | 0 => (s.dev.chan s.dbgAtoll).chstat
     | 1 => nat64 s.dev.live.length
     | 2 => nat64 (s.dev.live.getD s.dbgAtoll 0)
     | _ => 0)
  else if i < 4096 then (if s.fe.tdi.contains (s.fe.queue i).func then 0 else (s.fe.queue i).qstate)
  else if i < 8192 then (if s.fe.tdi.contains (s.fe.queue (i - 4096)).func then 0 else (s.fe.queue (i - 4096)).qsw)
  else if i < 8448 then
    (match (if i = 8192 then none else s.launchOf (i - 8192)) with
     | some x => if s.guarded (i - 8192) then 0 else nat64 (2 ^ 63 + x.seqn * 2 ^ 12 + x.q)
     | none => 0)
  else 0

/-- A read of DBGDATA gives the word at DBGADDR; CHSTAT's counts, of code RC, are then clear (R8, R346, R418). -/
def execDbgdataRead (s : State) : Res :=
  let u := s.dbgUnit
  let k := s.dbgAtoll
  if !s.fe.firm.ready then .next (s.emit 11 [0x1008, 0])
  else if u = 0x10 ∨ u = 0x11 then
    let s1 := s.emit 11 [0x1008, (s.frontWord u s.dbgIndex).toNat]
    .next (if u = 0x10 ∧ s.dbgIndex = 0 then s1.updChan k fun c => { c with ue := 0, ce := 0 } else s1)
  else if 160 ≤ k ∨ s.guarded (s.slotOf k) then .next (s.emit 11 [0x1008, 0])
  else
    let t := (s.focus k).updA (Atoll.settle s.now)
    .next (s.emit 11 [0x1008, (t.unitWord u s.dbgIndex false).toNat])

/-- A write of DBGDATA stores the word at DBGADDR while the atoll is stopped (R418). -/
def execDbgdataWrite (s : State) : Res :=
  match s.ev.arg with
  | .nw _ v =>
    let k := s.dbgAtoll
    let t := (s.focus k).updA (Atoll.settle s.now)
    if !s.fe.firm.ready ∨ 160 ≤ k ∨ s.guarded (s.slotOf k) ∨ !t.a.atRest then .next s
    else .next ((t.unitPut s.dbgUnit s.dbgIndex v).focus s.a.n)
  | _ => .next s

/-- DBGCTL.STOP: a debug stop request for the launch on ATOLL, with reason 4 (R134, R384, R418). -/
def execDbgctlStop (s : State) : Res :=
  let n := s.slotOf s.dbgAtoll
  if !s.fe.firm.ready ∨ n = 0 ∨ s.guarded n then .next s else .next (s.sched s.now 6 .none .preemptRequest (.n2 n 4))

/-- DBGCTL.BRKEN is written for the launch on ATOLL (R143, R418). -/
def execDbgctlBrken (s : State) : Res :=
  match s.ev.arg with
  | .nb _ b =>
    match (if s.slotOf s.dbgAtoll = 0 then none else s.launchOf (s.slotOf s.dbgAtoll)) with
    | some x => if !s.fe.firm.ready ∨ s.guarded x.slot then .next s else .next (s.updLaunch x.id fun y => { y with brken := b })
    | none => .next s
  | _ => .next s

/-- DBGCTL.RESUME releases the HELD queue of a launch stopped by brk or STOP, whose rectangle holds ATOLL (R418). -/
def execDbgctlResume (s : State) : Res :=
  match s.fe.launches.find? fun x => x.home.isNone && (s.fe.queue x.q).state == 7 && fld (s.fe.queue x.q).qsw 8 3 == 4 &&
      x.atolls.contains s.dbgAtoll && !s.fe.tdi.contains (s.fe.queue x.q).func with
  | some x => if s.fe.firm.ready then .next (s.releaseHeld x.q) else .next s
  | none => .next s

/-! ## Health (R29, R420) -/

/-- AGE[i] is updated, and a crossing of AGETHR is recorded (R420, R422). -/
def execAgeUpdate (s : State) : Res :=
  match s.ev.arg with
  | .n3 i wear eolh =>
    let old := fld (s.fe.ages.getD i 0) 0 32
    let e := min eolh (2 ^ 32 - 1)
    let s1 := s.updFe fun f => { f with ages := f.ages.set i (nat64 (wear % 2 ^ 16 * 2 ^ 32 + e)) }
    .next (if s.fe.agethr ≤ old ∧ e < s.fe.agethr then s1.record 9 (i * 2 ^ 8 + e * 2 ^ 32) else s1)
  | _ => .next s

/-- A die reports its hottest junction: at 105 °C its launches are pre-empted with reason 1, at 110 °C their queues go to rung 3 and the
event is recorded; below 95 °C it takes launches again (R29). -/
def execJunctionTempReport (s : State) : Res :=
  match s.ev.arg with
  | .n2 die t =>
    let s1 := s.updFe fun f => { f with temp := if die = 0 then (t, f.temp.2) else (f.temp.1, t) }
    let on := s.fe.launches.filter fun x => x.slot != 0 && x.atolls.any fun m => m / 80 == die
    if 110 ≤ t then
      .next (on.foldl (fun (s : State) x => s.sched s.now 6 .none .ladderT2Expiry (.n2 x.slot 1)) (s1.record 1 (die * 2 ^ 8 + t % 256 * 2 ^ 16)))
    else if 105 ≤ t then .next (s1.requestAll on 1)
    else .next s1.kickScheduler
  | _ => .next s

/-! ## Translation, revocation and teardown (R166, R393 to R395, R415) -/

/-- The handle names a frame of a space. -/
def names (sp frame : Nat) (h : Word) : Bool := hValid h && hSpace h == sp && hFrame h == frame

def revoke (sp frame : Nat) (h : Word) : Word := if names sp frame h then setBits h 63 1 0 else h

/-- The commands with an operand of a kind. -/
def CCmd.uses (f : CArea → Bool) (c : CCmd) : Bool := [c.dst, c.src, c.ext].any f

def CCmd.names (sp frame : Nat) (c : CCmd) : Bool := c.uses fun a => a.sp == sp && a.frame == frame

def LCmd.names (sp frame : Nat) (c : LCmd) : Bool := c.kind == .nmc && sp == 2 && c.frame == frame

/-- The handles of the atoll in focus are changed (R166). -/
def State.mapHandles (s : State) (f : Word → Word) : State := s.updSt fun st => { st with hs := st.hs.map f, hovf := f st.hovf }

/-- The copies of the atoll in focus with an operand of a kind stop (R166). -/
def State.stopUsers (s : State) (f : CArea → Bool) : State :=
  (s.a.cq.filter (CCmd.uses f)).foldl (fun (s : State) c => s.stopCopy c.id cHandle) s

/-- The handles and commands of the atoll in focus that name a frame lose V (R166). -/
def State.revokeHere (s : State) (sp frame : Nat) : State :=
  let s2 := (s.mapHandles (revoke sp frame)).stopUsers fun a => a.sp == sp && a.frame == frame
  (s2.a.lq.filter (LCmd.names sp frame)).foldl (fun (s : State) c => s.stopNmc c.id cHandle) s2

/-- The saved handles and commands of a launch that name a frame lose V (R166, R388). -/
def State.revokeSaved (s : State) (x : Launch) (sp frame : Nat) : State :=
  let words := (List.range 32).map (fun k => 65 + k) ++ [128 + 0x062]
  let put := fun (d : Dev) (a : Nat) => words.foldl (fun (d : Dev) k =>
    let v := d.at (a + 8 * k)
    if names sp frame v then { d with mem := d.mem.setWord (a + 8 * k) (revoke sp frame v) } else d) d
  let stopC := fun (c : CCmd) => if c.names sp frame then { c with stop := true, code := if c.code = 0 then cHandle else c.code } else c
  let stopL := fun (c : LCmd) => if c.names sp frame then { c with stop := true, code := if c.code = 0 then cHandle else c.code } else c
  let s1 := s.updDev fun d => ((s.records x).foldl (fun d j => put d (recordAt x.savePa j)) d).resign x.savePa (s.records x)
  s1.updLaunch x.id fun y => { y with kept := y.kept.map fun a => { a with cq := a.cq.map stopC, lq := a.lq.map stopL } }

/-- System software revokes a page by naming its frame (R166).  The 1,024 invalidations that a function may have outstanding (R400) bound
what the host asks; the device takes every one that comes (log 108). -/
def execRevokePage (s : State) : Res :=
  match s.ev.arg with
  | .n2 sp frame =>
    let s1 := s.eachOf (List.range 160) fun s => if s.a.slot = 0 then s else s.revokeHere sp frame
    let s2 := (s.fe.launches.filter fun x => x.saved && x.slot == 0).foldl (fun (s : State) x => s.revokeSaved x sp frame) s1
    .next ((s2.updFe fun f => { f with revoking := frame :: f.revoking }).later 0 .revocationComplete (.n2 sp frame))
  | _ => .next s

/-- Every access issued with the old handle has performed or been abandoned: the revocation is reported complete (R166). -/
def execRevocationComplete (s : State) : Res :=
  match s.ev.arg with
  | .n2 sp frame =>
    let left := (s.agenda.any fun e => match e.arg with
        | .gacc x => x.frame == frame && x.host == (sp == 3)
        | .hist _ _ _ f _ => sp == 2 && f == frame
        | .spill _ _ f => sp == 2 && f == frame
        | _ => false) ||
      (s.a :: s.others).any fun a => a.cq.any (CCmd.names sp frame) || a.lq.any (LCmd.names sp frame)
    if left then .next (s.again (s.now + 4))
    else .next ((s.updFe fun f => { f with revoking := f.revoking.erase frame }).emit 12 [sp, frame])
  | _ => .next s

/-- The launch's binding table names a PASID. -/
def State.binds (s : State) (x : Launch) (p : Nat) : Bool :=
  (List.range (x.df 7 0 10)).any fun i => i != 0 && fld (s.dev.at (x.da 6 + 8 * i)) 0 20 == p

/-- The PASID that a launch's binding of index i names, if it has one (R161, R368). -/
def State.pasidOf (s : State) (x : Launch) (i : Nat) : Option Nat :=
  if 0 < i ∧ i < x.df 7 0 10 then some (fld (s.dev.at (x.da 6 + 8 * i)) 0 20) else none

/-- The packets that the fetcher of a queue has asked for are discarded, and are still to be read (R394, log 109). -/
def State.dropFetch (s : State) (q : Nat) : State :=
  let mine := fun (e : Ev) => match e.arg with
    | .packet k _ _ => k == q
    | _ => false
  if s.agenda.any mine then
    (s.unsched mine).updQueue q fun x => { x with busy := false, head := (x.head + 2 ^ x.qlog - 1) % 2 ^ x.qlog }
  else s

/-- The handles of a launch's strands here whose PASIDX names a PASID lose V, and the commands that use one stop (R394). -/
def State.revokePasid (s : State) (x : Launch) (p : Nat) : State :=
  let dead := fun (i : Nat) => s.pasidOf x i == some p
  s.eachOf x.atolls fun s => (s.mapHandles fun h => if hValid h && hSpace h == 3 && dead (hPasidx h) then setBits h 63 1 0 else h).stopUsers
    fun a => a.sp == 3 && dead a.pasid

/-- A PASID is torn down: what the queue fetcher has asked for under it is discarded, the queues bound to it go to rung 3 with reason 5, the
handles of every other launch that name it are revoked, and the teardown is reported (R384, R394). -/
def execPasidTeardown (s : State) : Res :=
  match s.ev.arg with
  | .n p =>
    let s := (s.fe.queues.filter fun x => x.qcfg.getLsbD 61 && fld x.qcfg 32 20 == p).foldl (fun (s : State) x => s.dropFetch x.q) s
    let hit := s.fe.launches.filter fun x => x.home.isNone && (fld (s.fe.queue x.q).qcfg 32 20 == p || ((x.slot != 0 || x.saved) && s.binds x p))
    let s1 := hit.foldl (fun (s : State) x => match s.launchId x.id with
      | some y => if y.slot = 0 ∧ !y.saved then s.endLaunch y 4 8 else (s.setReason y.q 5).resetLaunch y 4 8 []
      | none => s) s
    let s2 := (s1.fe.launches.filter fun x => x.slot != 0).foldl (fun (s : State) x => s.revokePasid x p) s1
    .next (s2.emit 13 [p])
  | _ => .next s

/-- The entry of a page in the tables at a root is replaced, or with none removed (R163, R393, R395; log 25). -/
def State.mapPage (s : State) (root : Nat) (va : Nat) (e : Option PageMap) : State :=
  let l := (s.tableOf root).filter fun m => !(if m.big then m.va / 2 ^ 21 == va / 2 ^ 21 else m.va / 2 ^ 16 == va / 2 ^ 16)
  s.updFe fun f => { f with tables := (f.tables.filter fun t => t.1 != root) ++ [(root, l ++ e.toList)] }

/-- System software answers a page request, or changes the page tables: the pagers that wait for the page return, or refuse it with
a strand fault (R393). -/
def execPageRequestResponse (s : State) : Res :=
  match s.ev.arg with
  | .page root va ok frame attr =>
    let e : PageMap := ⟨va, attr.testBit 0, attr / 2 % 4, attr.testBit 3, attr.testBit 4, attr / 32, frame⟩
    let s1 := s.mapPage root va (if ok then some e else none)
    .next (s1.eachOf (List.range 160) fun s =>
      match s.a.st.wait, s.launch with
      | .pager, some x =>
        let want := fld s.a.st.trinfo 0 48
        if x.da 5 ≠ root ∨ (if e.big then want / 2 ^ 21 ≠ va / 2 ^ 21 else want / 2 ^ 16 ≠ va / 2 ^ 16) then s
        else if ok then (s.updSt fun st => { st with wait := .none, more := [] }).returnTrap
        else s.strandFault tXlat
      | _, _ => s)
  | _ => .next s

/-- The root monitor assigns device memory to a function; what it takes is no other's (R415). -/
def execMemoryAssignment (s : State) : Res :=
  match s.ev.arg with
  | .n3 fn base len =>
    .next (s.updFe fun f => { f with memFn := (f.memFn.filter fun m => !decide (max base m.2.1 < min (base + len) (m.2.1 + m.2.2))) ++ [(fn, base, len)] })
  | _ => .next s

/-- The root monitor assigns a PASID to a function (R400, R415). -/
def execPasidAssignment (s : State) : Res :=
  match s.ev.arg with
  | .n2 p fn => .next (s.updFe fun f => { f with pasids := (p, fn) :: f.pasids.filter fun x => x != (p, fn) })
  | _ => .next s

/-! ## Host links and attestation (R403, R415) -/

/-- A host link goes down or retrains, and DEVSTAT reports it: widths 0 to 3, generations 6 and 7, and for a link that is down 0
(R400, R403). -/
def execHostLinkRetrain (s : State) : Res :=
  match s.ev.arg with
  | .n3 link w g =>
    let g := if w = 0 then 0 else g
    let l := fun (x : List Nat) => if link = 0 then [w, g, x.getD 2 0, x.getD 3 0] else [x.getD 0 0, x.getD 1 0, w, g]
    .next (if w = 0 ∨ w < 4 ∧ (g = 6 ∨ g = 7) then s.updFe fun f => { f with firm := { f.firm with links := l f.firm.links } } else s)
  | _ => .next s

/-- An SPDM request for a measurement is answered with a signed digest; the measured contents are outside the manual (R415; log 28). -/
def execSpdmRequest (s : State) : Res :=
  match s.ev.arg with
  | .n i => .next ({ s with free := s.free + 4 }.emit 14 (i :: (List.range 4).map fun k => (Config.freeWord (s.free + k)).toNat))
  | _ => .next s

/-- A TDISP message moves a VF's interface into or out of RUN; the PF is never one (R400, R415). -/
def execTdispRequest (s : State) : Res :=
  match s.ev.arg with
  | .nb vf on =>
    if vf = 0 ∨ 64 ≤ vf then .next s
    else
      let rest := fun (l : List Nat) => l.filter fun x => x != vf
      .next (s.updFe fun f => { f with tdi := if on then vf :: rest f.tdi else rest f.tdi })
  | _ => .next s

/-! ## Frames (R315 to R318) -/

/-- An atoll that a frame names: its number in this package, or its name in another (R14). -/
def State.fromName (s : State) (k : Nat) : Nat :=
  if k < 1000 then k else (s.atollAt ((k - 1000) / 256) ((k - 1000) % 256)).getD k

/-- A reply from another package: the access it answers has performed, and its outcome or value comes to its strand (R167, R183). -/
def State.extReply (s : State) (d : Nat) (r : Dst) (v : Word) (chg byte : Nat) (arr : Bool) : State :=
  let mine := fun (y : Nat × Acc) => y.2.byte == byte && y.2.dst == r && (match y.2.op with
    | .arrive .. => arr
    | _ => !arr)
  match ((s.atoll d).map fun a => a.st.ext).getD [] |>.find? mine with
  | none => s
  | some x =>
    let s1 := s.updAtoll d fun a => { a with st := { a.st with ext := a.st.ext.erase x } }
    let ph := match x.2.op with
      | .arrive ph _ _ => ph
      | _ => false
    let s2 := if arr then (s1.chargeOf d chg).schedAt d s.now 3 .none .arriveOutcome (.outcome (v != 0) (byte + ph.toNat * 2 ^ 23 + 2 ^ 24))
      else s1.schedAt d s.now 3 .none .remoteReply (.reply r v none chg)
    (s2.schedAt d s.now 6 .none .dsyncRelease (.n (s.slotOf d))).schedAt d s.now 6 .none .launchEnd (.n (s.slotOf d))

/-- A row of a plane has come: with its fourth the plane has landed (R315, R321). -/
def State.planeRow (s : State) (d tile src stile p k : Nat) (row : Row) : State :=
  let is := fun (x : Nat × Nat × Nat × List Row) => x.1 == tile && x.2.1 == src && x.2.2.1 == stile
  let had := match ((s.atoll d).map fun a => a.parts).getD [] |>.find? is with
    | some x => if k = 0 then [] else x.2.2.2
    | none => []
  let l := had ++ [row]
  let s1 := s.updAtoll d fun a => { a with parts := (a.parts.filter fun x => !is x) ++ (if l.length < 4 then [(tile, src, stile, l)] else []) }
  if l.length < 4 then s1 else s1.schedAt d s.now 6 .none .planeLanded (.rows l tile p src stile)

/-- A control message of another front end (R145, R378, R397, R398, log 107). -/
def State.deliverFront (s : State) (l : List Nat) : State :=
  match l with
  | 0 :: r => s.sched s.now 6 .none .placementClaim (.list 0 r)
  | 1 :: r => s.sched s.now 6 .none .claimWithdraw (.list 0 r)
  | 2 :: r => s.sched s.now 6 .none .memberReport (.list 0 r)
  | 3 :: r => s.sched s.now 6 .none .memberLoad (.list 0 r)
  | [4, id, gx, gy] =>
    (match s.launchId id with
     | some x =>
       let s1 := s.updLaunch id fun x => { x with gone := if x.gone.contains (gx, gy) then x.gone else x.gone ++ [(gx, gy)] }
       if x.slot = 0 then s1
       else (s1.sched s.now 6 .none .realignRelease (.n x.slot)).sched s.now 6 .none .dsyncRelease (.n x.slot)
     | none => s)
  | _ => s

/-- A message is delivered to its atoll in this package, or to its front end. -/
def State.deliver (s : State) (d : Nat) (f : Frame) : State :=
  let at' := fun (i : Instr) (a : Arg) => s.schedAt d s.now 6 .none i a
  match f.m with
  | .access _ x => at' (match x.op with
      | .arrive .. => .barrierArrival
      | _ => .remoteAccessArrival) (.acc x)
  | .reply _ r v chg byte arr => s.extReply d r v chg byte arr
  | .copyRow .. => s.schedAt d s.now 1 .none .copyRow (.msg 0 0 0 true f)
  | .copied _ _ id erased => ((s.focus d).copyAcked id erased).focus s.a.n
  | .header _ tile src stile row => at' .tileHeaderArrival (.hdr tile src stile row)
  | .plane _ tile src stile p k row => s.planeRow d tile src stile p k row
  | .ack _ tile => at' .linkCommandArrive (.nb tile true)
  | .cancel _ tile => at' .cancelMessage (.n tile)
  | .endStream _ tile src stile => at' .endMessage (.n3 tile src stile)
  | .row _ k r => at' .xrecvArrival (.keyRow { k with rcv := d } r)
  | .refusal _ amount => s.chargeOf d amount
  | .frontEnd _ l => s.deliverFront l
  | .acked _ _ => s

/-- A port receives a frame: the next of its VC is acknowledged, and delivered, or goes on to its package; a bad or early one is discarded
and asked for again, once until it comes.  The acknowledgement of a frame sent from here stands outside the sequence (R316, R317, log 106). -/
def execStraitFrameReceive (s : State) : Res :=
  match s.ev.arg with
  | .msg port _ _ ok ⟨_, .acked vc seq⟩ => .next (if ok then s.frameAcked port vc seq else s)
  | .msg port vc seq ok f =>
    match s.fe.ports.find? fun p => p.n == port && p.up with
    | none => .next s
    | some p =>
      let want := p.rx.getD vc 0
      if ok && seq == want then
        let s1 := (s.updPort port fun p => { p with rx := p.rx.set vc ((want + 1) % 4096), asked := p.asked.filter fun v => v != vc }).emit 16 [port, vc, seq]
        let k := s.fromName f.m.dst
        .next (if k < 1000 then s1.deliver k f else s1.frameOut f)
      else if ok && decide ((want + 4096 - seq) % 4096 ≤ 2048) then .next (s.emit 16 [port, vc, seq])
      else if seq ≠ want ∧ p.asked.contains vc then .next s
      else .next ((s.updPort port fun p => { p with asked := vc :: p.asked.filter fun v => v != vc }).emit 15 [port, vc, want])
  | _ => .next s

/-- A direction group has no port left in service: commands whose path crosses it arrive with C_LINK, and launches that span it end as a
link fault (R318, R421). -/
def State.groupLost (s : State) (grp : Nat) : State :=
  let s1 := s.record 5 (grp * 2 ^ 8)
  let s2 := s1.eachOf (List.range 160) fun s =>
    let t := (s.a.cq.filter fun c => c.lost s).foldl (fun (t : State) c => t.stopCopy c.id cLink) s
    (t.a.lq.filter fun c => (c.started || c.kind == .recv) && c.lost s).foldl (fun (t : State) c => match t.a.link c.id with
      | some c => t.stopLink c none 6 cLink
      | none => t) t
  s2

/-- The launches of this package that span a direction group end as a link fault (R318). -/
def State.endSpanning (s : State) (grp : Nat) : State :=
  (s.fe.launches.filter fun x => x.slot != 0 && x.packages.any fun p =>
    32 * p.1 + p.2 != s.fe.pkg && s.groupTo (pkgAtoll (32 * p.1 + p.2)) == grp).foldl
    (fun (s : State) x => s.sched s.now 6 .none .strandFaultEnd (.n2 x.slot 256)) s

/-- A port is taken out of service: what it has not had acknowledged leaves on another port of its group, in sequence, and then what it has
not sent (R316, R318, R421). -/
def State.portOut (s : State) (n cause : Nat) : State :=
  match s.fe.ports.find? fun p => p.n == n && p.up with
  | none => s
  | some p =>
    let s1 := (s.updPort n fun p => { p with up := false, asked := [], kept := [], wait := [], fails := [] }).record 4 (n * 2 ^ 8 + cause * 2 ^ 16)
    match s1.portsOf p.grp with
    | [] => (s1.groupLost p.grp).endSpanning p.grp
    | _ => (p.kept.map (fun f => f.2.2) ++ p.wait.map (fun w => w.2)).foldl State.frameOut s1

/-- A replay request: those before the named frame of the VC have been received, and from it on they leave again; after eight failed replays
of one frame the port is taken out of service (R317, R318). -/
def execReplayRequest (s : State) : Res :=
  match s.ev.arg with
  | .n3 port vc seq =>
    match s.fe.ports.find? fun p => p.n == port && p.up with
    | none => .next s
    | some p =>
      let n := match p.fails.find? fun f => f.1 == vc && f.2.1 == seq with
        | some f => f.2.2 + 1
        | none => 1
      if 9 ≤ n then .next (s.portOut port 0)
      else
        let l := p.unacked vc
        let late := l.dropWhile fun f => f.2.1 != seq
        let s1 := { s with out := s.out ++ late.map fun (f : Nat × Nat × Frame) => (⟨10, [port, vc, f.2.1], some f.2.2⟩ : Out) }
        let s2 := match (if late = [] then none else (l.takeWhile fun f => f.2.1 != seq).getLast?) with
          | some f => s1.frameAcked port vc f.2.1
          | none => s1
        .next (s2.updPort port fun p => { p with fails := (vc, seq, n) :: p.fails.filter fun f => f.1 != vc })
  | _ => .next s

/-- A port loses RCLK lock: it is taken out of service, and the launches that span it end as a link fault (R125, R318). -/
def execRclkLockLoss (s : State) : Res :=
  match s.ev.arg with
  | .n port =>
    match s.fe.ports.find? fun p => p.n == port && p.up with
    | some p => .next ((s.portOut port 1).endSpanning p.grp)
    | none => .next s
  | _ => .next s

/-- System software binds a spare port into a direction group of its die that has fewer than four ports in service (R25). -/
def execSparePortBind (s : State) : Res :=
  match s.ev.arg with
  | .n2 port grp =>
    let can := (port == 8 && decide (grp < 3)) || (port == 17 && (grp == 1 || grp == 2 || grp == 3))
    if can && decide ((s.portsOf grp).length < 4) && (s.fe.ports.any fun p => p.n == port && !p.up) then
      .next (s.updPort port fun p => { p with up := true, grp := grp })
    else .next s
  | _ => .next s

end Sys2Proof.Machine
end

