-- ==== Sys2Proof/Machine/Fetch.lean ====
section
/-! DEFINITION. The fetch and the issue of bundles (R31 to R37, R53, R107 to R112, R126 to R133, R172, R174, R216): the
checks of a bundle's form, what holds it back, the traps at issue, and the order in which its syllables take effect. -/

namespace Sys2Proof.Machine

/-! ## The registers a syllable names -/

/-- A register that the interlock watches (R111, R126, R216). -/
inductive RName where
  | s (r : Reg) | p (r : Prd) | h (r : HReg) | v (r : VReg) | m (r : MReg) | lc | sys
deriving DecidableEq, Repr

/-- s0 and p0 are constants, which no write changes (R105). -/
def RName.real : RName → Bool
  | .s r => r != 0
  | .p r => r != 0
  | _ => true

/-- n vector registers from a on. -/
def vRange (a : VReg) (n : Nat) : List RName := (List.range n).map fun k => .v (a + BitVec.ofNat 11 k)

/-- The handle of a copy operand whose space is GM or HM (R296). -/
def hUse (sp : BitVec 2) (h : HReg) : List RName := if 2 ≤ sp.toNat then [.h h] else []

/-- The sources of an atomic (R64). -/
def amoReads (o : Amo) : List RName := [.s o.a, .s o.b] ++ if o.G then [.h o.h] else []

/-- The registers that a syllable reads, and those it names as destinations. -/
def usesOf (i : Instr) : List RName × List RName :=
  match i with
  | .add o | .sub o | .and o | .or o | .xor o | .andn o => ([.s o.a, .s o.b], [.s o.d])
  | .shl o | .shr o | .sra o | .mul o | .mulh o | .mulhu o => ([.s o.a, .s o.b], [.s o.d])
  | .div o | .divu o | .rem o | .min o | .max o | .minu o => ([.s o.a, .s o.b], [.s o.d])
  | .maxu o => ([.s o.a, .s o.b], [.s o.d])
  | .clz o | .popc o => ([.s o.a], [.s o.d])
  | .sel o => ([.p o.c, .s o.a, .s o.b], [.s o.d])
  | .cmpeq o | .cmpne o | .cmplt o | .cmpltu o | .cmple o | .cmpleu o => ([.s o.a, .s o.b], [.p o.p])
  | .pand o | .por o => ([.p o.a, .p o.b], [.p o.d])
  | .pnot o => ([.p o.a], [.p o.d])
  | .addi o | .andi o | .ori o | .xori o => ([.s o.a], [.s o.d])
  | .shli o | .shri o | .srai o => ([.s o.a], [.s o.d])
  | .li o => ([], [.s o.d])
  | .lih o => ([.s o.d], [.s o.d])
  | .br o => ([.p o.c], [])
  | .call o => ([], [.s o.c])
  | .ret o => ([.s o.c], [])
  | .loop _ => ([.lc], [.lc])
  | .mfsr o => ([], [.s o.d])
  | .mtsr o => ([.s o.a], [])
  | .iinvLine o | .iinvPage o => ([.s o.a], [])
  | .rdgtc o => ([], [.s o.d])
  | .lds o => ([.s o.a], [.s o.d])
  | .sts o | .binit o => ([.s o.a, .s o.b], [])
  | .gld o => ([.h o.h, .s o.a], [.s o.d])
  | .gst o => ([.h o.h, .s o.a, .s o.b], [])
  | .xlat o => ([.s o.a], [.h o.h])
  | .hinv o => ([.h o.h], [.h o.h])
  | .arrive o | .bwait o => ([.s o.a], [])
  | .btest o => ([.s o.a], [.p o.p])
  | .await o => ([.s o.a, .s o.b], [.s o.d])
  | .amoadd o | .amoxor o | .amomin o | .amomax o | .amoswp o => (amoReads o, [.s o.d])
  | .amocas o => (amoReads o ++ [.s o.d], [.s o.d])
  | .vadd o | .evadd o | .vsub o | .evsub o | .vmac o | .evmac o => ([.v o.a, .v o.b], [.v o.d])
  | .vmas o | .evmas o | .vxor o | .evxor o | .vxand o | .evxand o => ([.v o.a, .v o.b], [.v o.d])
  | .vshl o | .evshl o | .vshr o | .evshr o | .vsra o | .evsra o => ([.v o.a, .v o.b], [.v o.d])
  | .vrotl o | .evrotl o | .vand o | .evand o | .vor o | .evor o => ([.v o.a, .v o.b], [.v o.d])
  | .vmin o | .evmin o | .vmax o | .evmax o | .vmul o | .evmul o => ([.v o.a, .v o.b], [.v o.d])
  | .vfadd o | .evfadd o | .vfsub o | .evfsub o | .vfmul o | .evfmul o => ([.v o.a, .v o.b], [.v o.d])
  | .vfmin o | .evfmin o | .vfmax o | .evfmax o | .vperm o | .evperm o => ([.v o.a, .v o.b], [.v o.d])
  | .vneg o | .evneg o | .vnot o | .evnot o | .vabs o | .evabs o => ([.v o.a], [.v o.d])
  | .vpopc o | .evpopc o | .vclz o | .evclz o | .vfneg o | .evfneg o => ([.v o.a], [.v o.d])
  | .vfabs o | .evfabs o | .vfrcp o | .evfrcp o | .vfrsq o | .evfrsq o => ([.v o.a], [.v o.d])
  | .vfexp2 o | .evfexp2 o | .vflog2 o | .evflog2 o | .vftanh o | .evftanh o => ([.v o.a], [.v o.d])
  | .vldx o | .evldx o => ([.v o.a], [.v o.d])
  | .vswap o => ([], [.v o.d, .v o.a])
  | .vcswap o => ([.m o.m], [.v o.d, .v o.a])
  | .vcmpeq o | .evcmpeq o | .vcmplt o | .evcmplt o | .vcmple o | .evcmple o => ([.v o.a, .v o.b], [.m o.md])
  | .vsel o | .evsel o => ([.v o.a, .v o.b, .m o.m], [.v o.d])
  | .vassz o => ([.v o.a], [])
  | .vzmask o | .evzmask o => (vRange o.a 128, [.m o.md])
  | .vfma o | .evfma o => ([.v o.a, .v o.b, .v o.c], [.v o.d])
  | .vfcmp o | .evfcmp o => ([.v o.a, .v o.b], [.m o.md])
  | .vcvt o | .evcvt o | .vshoal o | .evshoal o | .vredadd o | .evredadd o => ([.v o.a], [.v o.d])
  | .vredmax o | .evredmax o | .vredmin o | .evredmin o | .vscan o | .evscan o => ([.v o.a], [.v o.d])
  | .vcvr o | .evcvr o => ([.v o.a], [.v o.d, .v o.b])
  | .vmerge o | .evmerge o | .vscale o | .evscale o => ([.v o.a, .v o.b], [.v o.d])
  | .vbpenc o | .evbpenc o => (vRange o.a (etWidth o.x / 2) ++ [.v o.b], [.v o.d])
  | .vbpdec o | .evbpdec o => ([.v o.a], vRange o.d 16)
  | .vld o | .evld o => ([.s o.s], [.v o.d])
  | .vst o | .evst o => ([.s o.s, .v o.a], [])
  | .vrmg o | .evrmg o => ([.s o.s, .v o.a, .v o.b], [.v o.d])
  | .vbcast o | .evbcast o => ([.s o.s], [.v o.d])
  | .vext o => ([.v o.a], [.s o.s])
  | .vins o | .evins o => ([.s o.s], [.v o.d])
  | .hpush o | .hpop o => ([], [.v o.a])
  | .mand o | .emand o | .mor o | .emor o => ([.m o.ma, .m o.mb], [.m o.md])
  | .mnot o | .emnot o => ([.m o.ma], [.m o.md])
  | .mringSet o => ([.s o.a, .s o.b], [])
  | .mringRead o => ([], [.s o.a])
  | .mringLoad o | .mtail o => ([.s o.a], [])
  | .fmtq o => ([.s o.a], [])
  | .mmacr o | .mmasr o | .emmul o | .emfma o => ([.s o.a], [])
  | .rtqr o => ([.s o.b], [])
  | .rtapl o | .rtinvApl o => ([.s o.a, .s o.b], [])
  | .rtinvQr o => ([.s o.a, .s o.b], [])
  | .rtsolve o => ([.s o.a, .s o.b], [])
  | .rtrd o | .rtwr o => ([.s o.a], [])
  | .rtgainRead o => ([], [.s o.a])
  | .cpy o | .cpyx o => (hUse o.ds o.dh ++ hUse o.ss o.sh ++ [.s o.da, .s o.sa, .s o.n, .s o.bar], [])
  | .cpycPack o => (hUse o.c.ds o.c.dh ++ hUse o.c.ss o.c.sh ++ [.s o.c.da, .s o.c.sa, .s o.c.n, .s o.c.bar, .s (o.c.da + 1)], [])
  | .cpycUnpack o => (hUse o.c.ds o.c.dh ++ hUse o.c.ss o.c.sh ++ [.s o.c.da, .s o.c.sa, .s o.c.n, .s o.c.bar, .s (o.c.sa + 1)], [])
  | .cpyg o => (hUse o.c.ds o.c.dh ++ hUse o.c.ss o.c.sh ++ [.s o.c.da, .s o.c.sa, .s o.c.n, .s o.c.bar], [])
  | .cpys o => (hUse o.c.ds o.c.dh ++ hUse o.c.ss o.c.sh ++ [.s o.c.da, .s o.c.sa, .s o.c.n, .s o.c.bar, .s (o.c.da + 1)], [])
  | .cpyz o => (hUse o.ds o.dh ++ [.s o.da, .s o.n, .s o.bar], [])
  | .cpyv o => (hUse o.c.ds o.c.dh ++ hUse o.c.ss o.c.sh ++ [.s o.c.da, .s o.c.sa, .s o.c.n, .s o.c.bar], [])
  | .ppcmp o => (hUse o.ds o.dh ++ [.s o.da, .s o.sa, .s o.n, .s o.bar, .s (o.da + 1)], [])
  | .lsend o => ([.s o.a, .s o.b, .s o.c], [])
  | .lrecv o => ([.s o.a, .s o.c], [])
  | .lradd o => ([.s o.a, .s o.b, .s o.c, .s o.d], [])
  | .lprec o => ([], [.s o.a])
  | .lwprec o => ([], [.s o.a])
  | .nmc o => ([.s o.a, .s o.b, .s o.c, .s o.d, .h o.h], [])
  | .clkdiv o => ([], [.s o.a])
  | .rdmeterUsed o | .rdmeterBal o => ([], [.s o.a])
  | .dsync o => ([], [.s o.a])
  | .xsend o => ([.s o.a, .s o.b], [])
  | .xrecv o => ([.s o.a, .s o.b, .s o.c], [])
  | _ => ([], [])

/-- The registers in which a result lands. -/
def Dst.names : Dst → List RName
  | .s r | .sx r => [.s r]
  | .p r => [.p r]
  | .h r => [.h r]
  | .sys .lc _ => [.lc]
  | .sys _ _ => [.sys]
  | _ => []

/-- The registers that a write of VX changes. -/
def VPut.names : VPut → List RName
  | .xor d _ | .ovr d _ _ | .add d _ _ | .sub d _ _ => [.v (BitVec.ofNat 11 d)]
  | .swap d a _ => [.v (BitVec.ofNat 11 d), .v (BitVec.ofNat 11 a)]
  | .mxor d _ | .movr d _ => [.m d]

/-- The registers of the strand of atoll n that a step is still to write. -/
def Ev.names (n : Nat) (e : Ev) : List RName :=
  let mine := e.atoll == n
  match e.arg with
  | .land d _ | .reply d _ _ _ => if mine then d.names else []
  | .acc x | .accTo _ x => if x.src = n then x.dst.names else []
  | .gacc x => if x.src = n then x.dst.names else []
  | .puts l _ _ => if mine then l.flatMap VPut.names else []
  | .vread _ d k _ _ _ => match k with
    | .gather _ => []
    | _ => if mine then [.v (BitVec.ofNat 11 d)] else []
  | .vfill _ d _ _ _ _ => if mine then [.v (BitVec.ofNat 11 d)] else []
  | .restart _ _ => if mine then (usesOf e.i).2 else []
  | .clock _ _ d => if mine then [.s d] else []
  | .drain d _ => if mine then [.s d] else []
  | _ => []

/-- The registers with a write pending from an earlier bundle (R111, R216). -/
def State.pending (s : State) : List RName :=
  s.agenda.flatMap (Ev.names s.a.n) ++ s.a.st.ext.flatMap fun x => x.2.dst.names

/-! ## The form of a bundle (R31 to R35, R53, R120) -/

/-- The slot group of a class: scalar, memory, vector, array, engine, prefix syllable, none (R31). -/
def slotOf (c : Nat) : Nat :=
  if c ≤ 3 then 0 else if c = 4 then 1 else if c ≤ 7 then 2 else if c ≤ 9 then 3 else if c ≤ 12 then 4 else if c = 15 then 5 else 6

/-- Some slot group holds too many syllables (R33). -/
def slotBad (l : List Word) : Bool :=
  (List.range 6).any fun g => decide ((if g = 0 then 2 else 1) < (l.filter fun w => slotOf (sylClass w) == g).length)

/-- The syllable can change the flow of control (R34). -/
def isFlow (w : Word) : Bool :=
  sylClass w == 2 || (sylClass w == 3 && [1, 2, 5, 6, 7, 8, 10, 11].contains (sylOpcode w))

/-- The instruction of a syllable whose opcode and fields exist (R58). -/
def instrOf (w : Word) : Option Instr := (decodeOp (sylClass w) (sylOpcode w) (sylOperands w)).join

/-- The scalar, predicate and handle destinations that a syllable names (R35). -/
def destsOf (w : Word) : List RName :=
  match instrOf w with
  | some i => (usesOf i).2.filter fun r => r.real && (match r with
    | .s _ | .p _ | .h _ => true
    | _ => false)
  | none => []

/-- The system register that a syllable writes (R120). -/
def sysDest (w : Word) : List SysReg :=
  match instrOf w with
  | some (.mtsr o) => [o.sr]
  | some (.loop _) => [.lc]
  | _ => []

/-- A list that holds something twice. -/
def repeats {α : Type} [BEq α] : List α → Bool
  | [] => false
  | x :: r => r.contains x || repeats r

/-- The syllable may follow a modifier syllable of class 0xF (R53). -/
def isTarget (w : Word) : Bool :=
  let op := sylOpcode w
  match sylClass w with
  | 4 => !(op == 5 || op == 6 || op == 7)
  | 7 => [1, 2, 3, 9, 10].contains (op / 2)
  | 10 | 11 => true
  | _ => false

/-- A syllable of class 0xF stands where it may not (R53). -/
def pfxBad : List Word → Bool
  | [] => false
  | [w] => sylClass w == 15
  | w :: v :: r => (sylClass w == 15 && (sylLast w || !isTarget v)) || pfxBad (v :: r)

/-- The reason of T_BUNDLE, the lowest that holds (R32 to R35, R53, R120, R140). -/
def bundleReason (l : List Word) : Option Nat :=
  if l.all fun w => !sylLast w then some 1
  else if slotBad l then some 2
  else if 2 ≤ (l.filter isFlow).length then some 3
  else if repeats (l.flatMap destsOf) then some 4
  else if pfxBad l then some 5
  else if repeats (l.flatMap sysDest) then some 6
  else none

/-! ## Fetch (R32, R107 to R109) -/

/-- What reading a syllable at an address gives: a word, a missing line, or an address outside the code space. -/
inductive Fetched where
  | word (w : Word) | miss (line : Nat) | outside
deriving DecidableEq, Repr

/-- The syllable at an address (R107, R109). -/
def Strand.fetch (st : Strand) (a : Nat) : Fetched :=
  let at' := fun (l : List (Nat × Row)) => (l.find? fun x => x.1 == a / 128).map fun x =>
    BitVec.ofNat 64 (x.2.toNat / 2 ^ (a % 128 * 8))
  if 2 ^ 47 ≤ a then (match at' st.pinned with
    | some w => .word w
    | none => .outside)
  else if st.codeLo ≤ a ∧ a < st.codeHi then (match at' st.istore with
    | some w => .word w
    | none => .miss (a / 128))
  else .outside

/-- At most n syllables from an address on, up to the first with S = 1, or what stops the fetch and at which syllable. -/
def Strand.fetchBundle (st : Strand) : Nat → Nat → Nat → List Word × Option (Nat × Fetched)
  | 0, _, _ => ([], none)
  | n + 1, k, a =>
    match st.fetch (a % 2 ^ 48) with
    | .word w =>
      if sylLast w then ([w], none)
      else
        let r := st.fetchBundle n (k + 1) (a + 8)
        (w :: r.1, r.2)
    | f => ([], some (k, f))

/-- A late result in a region: the bundle due is put off by a frozen core cycle, or T_LATE is taken (R131 to R133). -/
def State.lateRetry (s : State) (spare : Dom) (c : Nat) : State :=
  match s.a.st.rgn with
  | some r => if r.lt then s.lateOf spare c else (s.freeze spare).fetchAt (s.coreT 1)
  | none => s.fetchAt (s.coreT 1)

/-- The check of the quota before a bundle outside a region (R89). -/
def State.quotaCheckStop (s : State) : State :=
  (if s.a.st.act then s
   else s.updSt fun st =>
     { st with trpc := BitVec.ofNat 64 st.pc, trcause := setBits st.trcause 0 8 tQuota, trinfo := 0 }).quotaStop

/-- The resident pager in front of its own code: the mapping of the page that T_XLAT names is there and it returns, or the
request is no address of the code space and the strand faults, or it asks for the page and waits (R164, R393). -/
def State.pager (s : State) : State :=
  let st := s.a.st
  let va := fld st.trinfo 0 48
  if st.trinfo.getLsbD 48 then s.strandFault tXlat
  else if (s.walkVa va).isSome then s.returnTrap
  else
    let s1 := s.waitFor .pager
    s1.emit 3 [s.a.slot, s.a.n, va]

/-- The strand waits for a line, which is filled unless that is under way (R109). -/
def State.askLine (s : State) (line : Nat) : State :=
  let due := s.agenda.any fun e => e.i == .istoreFill && e.atoll == s.a.n && e.arg == .n line
  (if due then s else s.later s.a.n .istoreFill (.n line)).updSt fun st => { st with miss := some line }

/-- A bundle that does not stand in the store: the line is filled, and outside a region the strand waits (R109, R131). -/
def State.missLine (s : State) (line : Nat) : State :=
  let s1 := s.askLine line
  if s.a.st.rgn.isSome then s1.lateRetry .none 5 else s1

/-- TRINFO of T_XLAT for a line whose page has no mapping: the bundle's address, or for a line of the page after it the line's own, which
is what the pager is to map (R109, R164, log 99). -/
def Strand.missVa (st : Strand) (line : Nat) : Nat :=
  (if st.pc / 2 ^ 16 = line * 128 / 2 ^ 16 then st.pc else line * 128) + 2 ^ 49

/-- A missing line arrives through the code mapping.  The bundle that waits for it is fetched again; when its page has no mapping it
raises T_XLAT, and when its row is poisoned T_DATA with code 0x74 (R109, R164).  A line that no bundle waits for any more only fills. -/
def execIstoreFill (s : State) : Res :=
  match s.ev.arg with
  | .n line =>
    let st := s.a.st
    let waits := st.run == .run && st.miss == some line
    let ab := st.rgn.isSome
    match s.walkVa (line * 128) with
    | none => .next (if waits then s.takeTrap tXlat (st.missVa line) st.pc ab else s)
    | some e =>
      let row := codeRow e line
      if !s.served row s.a.slot false then .next (s.again s.nextCk)
      else
        let r := (s.useSlot row).gmRead row
        if r.1.2 then .next (if waits then r.2.takeTrap tData 0x74 st.pc ab else r.2)
        else
          let s1 := r.2.updSt fun st => { st with istore := (line, r.1.1) :: (st.istore.filter fun l => l.1 != line).take 2047 }
          .next (if waits && !ab then s1.fetchAt (s.coreT 0) else s1)
  | _ => .next s

/-- T_PRIV with reason 5 at syllable k of the bundle, whose address is the one that could not be fetched (R107, R108, R135, log 98). -/
def State.outsideTrap (s : State) (k : Nat) : State :=
  s.takeTrap tPriv (5 + k * 256) ((s.a.st.pc + 8 * k) % 2 ^ 48) s.a.st.rgn.isSome

/-- A syllable as it issues: none for a word that is no instruction (R58). -/
def sylOf (w : Word) : Option Syl :=
  match decode w with
  | .ok y => some y
  | .error _ => none

/-- The bundle holds rgnend with a true guard (R127). -/
def State.closes (s : State) (l : List (Option Syl)) : Bool :=
  l.any fun y => match y with
    | some y => y.i == .rgnend && s.rdP y.g
    | none => false

/-- Region cycle n has begun: only a bundle with rgnend still issues (R127, R128). -/
def State.overran (s : State) (l : List (Option Syl)) : Bool :=
  match s.a.st.rgn with
  | some r => decide (r.n ≤ s.regionCycle) && !s.closes l
  | none => false

/-- The step in hand has the next bundle's number. -/
def State.numbered (s : State) : State := { s with seq := s.seq + 1, ev := { s.ev with seq := s.seq + 1 } }

/-- The words of the bundle at the PC stand ready to issue. -/
def State.formed (s : State) (l : List Word) : State :=
  { s.updSt (fun st => { st with bpc := st.pc, npc := (st.pc + 8 * l.length) % 2 ^ 48, pos := 0, pfx := none, miss := none })
    with issueQ := l.map sylOf }

/-- The bundle at the PC is formed and checked, and its syllables stand ready to issue (R32 to R35, R89, R107 to R109, R136).  The look
at a region when one of its core cycles begins forms none (R131).  When region cycle n has begun, a bundle that could be fetched
nowhere does not issue, and the region overruns (R128, log 100). -/
def execBundleFetch (s0 : State) : Res :=
  if s0.ev.arg = .n 1 then .next s0
  else
  let s := s0.numbered
  let st := s.a.st
  let out := st.rgn.isNone
  if st.run ≠ .run ∨ st.wait ≠ .none then .next s
  else match st.held with
    | some h =>
      .next ((s.updSt fun st => { st with held := none }).takeTrap h.cause h.info.toNat (fld st.trpc 0 48) h.ab)
    | none =>
      if out && decide (st.bal < 0) then .next s.quotaCheckStop
      else if st.lagHold then
        .next ((s.updSt Strand.countHeld).lateRetry .none 2)
      else if st.bpc < 2 ^ 47 && decide (2 ^ 47 ≤ st.pc) then .next (if s.overran [] then s else s.outsideTrap 0)
      else if decide (2 ^ 47 ≤ st.pc) && st.act && st.pinned.isEmpty then .next s.pager
      else match st.fetchBundle 4 0 st.pc with
        | (_, some (_, .miss line)) => .next (s.missLine line)
        | (_, some (k, _)) => .next (if s.overran [] then s else s.outsideTrap k)
        | (l, none) =>
          if s.overran (l.map sylOf) then .next s
          else match bundleReason l with
            | some r => .next (s.takeTrap tBundle r st.pc st.rgn.isSome)
            | none => .next (s.formed l)

end Sys2Proof.Machine
end

