-- ==== Sys2Proof/Machine/Flags.lean ====
section
/-! DEFINITION. The conditions of the compare and predicate forms (R116), and the words that carry a condition. -/

namespace Sys2Proof.Machine

/-- A condition as a landing result: bit 0 of the word (R116). -/
def condWord (b : Bool) : Word := if b then 1 else 0

def condEq (a b : Word) : Bool := a == b
def condNe (a b : Word) : Bool := a != b
def condLt (a b : Word) : Bool := decide (a.toInt < b.toInt)
def condLtu (a b : Word) : Bool := decide (a.toNat < b.toNat)
def condLe (a b : Word) : Bool := decide (a.toInt ≤ b.toInt)
def condLeu (a b : Word) : Bool := decide (a.toNat ≤ b.toNat)

/-- A compare form: pd takes the condition at t+1 (R113, R116). -/
def compare (c : Word → Word → Bool) (o : RCmp) (s : State) : State :=
  s.landIn 1 (.p o.p) (condWord (c (s.rdS o.a) (s.rdS o.b)))

/-- A predicate form: pd takes the value at t+1 (R113, R116). -/
def predicate (d : Prd) (v : Bool) (s : State) : State := s.landIn 1 (.p d) (condWord v)

end Sys2Proof.Machine
end

