-- ==== Sys2Proof/Machine/Scalar.lean ====
section
/-! DEFINITION. The meanings of classes 0x0 and 0x1 (R113 to R116).  Each result lands at its latency; the
sources are read at issue, before any syllable of the bundle writes (R36, R110).  No scalar instruction traps. -/

namespace Sys2Proof.Machine

/-- A register form: sd takes the result at t+l (R113, R114). -/
def scalar3 (l : Nat) (f : Word → Word → Word) (o : R3) (s : State) : State :=
  s.landIn l (.s o.d) (f (s.rdS o.a) (s.rdS o.b))

/-- An immediate form: sd takes the result at t+1 (R113, R115). -/
def scalarImm (f : Word → Word → Word) (o : I3) (s : State) : State :=
  s.landIn 1 (.s o.d) (f (s.rdS o.a) (sx32 o.imm))

/-- A shift by an immediate count (R115). -/
def scalarShift (f : Word → Nat → Word) (o : ISh) (s : State) : State :=
  s.landIn 1 (.s o.d) (f (s.rdS o.a) o.n.toNat)

/-- sd := wrap(sa + sb) (R114). -/
def execAdd (o : R3) (s : State) : Res := .next (scalar3 1 (fun a b => a + b) o s)

/-- sd := wrap(sa − sb) (R114). -/
def execSub (o : R3) (s : State) : Res := .next (scalar3 1 (fun a b => a - b) o s)

/-- Bit by bit and (R114). -/
def execAnd (o : R3) (s : State) : Res := .next (scalar3 1 (fun a b => a &&& b) o s)

/-- Bit by bit or (R114). -/
def execOr (o : R3) (s : State) : Res := .next (scalar3 1 (fun a b => a ||| b) o s)

/-- Bit by bit xor (R114). -/
def execXor (o : R3) (s : State) : Res := .next (scalar3 1 (fun a b => a ^^^ b) o s)

/-- sa and not sb (R114). -/
def execAndn (o : R3) (s : State) : Res := .next (scalar3 1 (fun a b => a &&& ~~~b) o s)

/-- Shift left by sb[5:0] (R114). -/
def execShl (o : R3) (s : State) : Res := .next (scalar3 1 (fun a b => aluShl a (shCount b)) o s)

/-- Logical shift right (R114). -/
def execShr (o : R3) (s : State) : Res := .next (scalar3 1 (fun a b => aluShr a (shCount b)) o s)

/-- Arithmetic shift right (R114). -/
def execSra (o : R3) (s : State) : Res := .next (scalar3 1 (fun a b => aluSra a (shCount b)) o s)

/-- Low half of the product (R114). -/
def execMul (o : R3) (s : State) : Res := .next (scalar3 3 (aluMul) o s)

/-- High half of the signed product (R114). -/
def execMulh (o : R3) (s : State) : Res := .next (scalar3 3 (aluMulh) o s)

/-- High half of the unsigned product (R114). -/
def execMulhu (o : R3) (s : State) : Res := .next (scalar3 3 (aluMulhu) o s)

/-- Signed division (R114). -/
def execDiv (o : R3) (s : State) : Res := .next (scalar3 20 (aluDiv) o s)

/-- Unsigned division (R114). -/
def execDivu (o : R3) (s : State) : Res := .next (scalar3 20 (aluDivu) o s)

/-- Signed remainder (R114). -/
def execRem (o : R3) (s : State) : Res := .next (scalar3 20 (aluRem) o s)

/-- Signed minimum (R114). -/
def execMin (o : R3) (s : State) : Res := .next (scalar3 1 (aluMin) o s)

/-- Signed maximum (R114). -/
def execMax (o : R3) (s : State) : Res := .next (scalar3 1 (aluMax) o s)

/-- Unsigned minimum (R114). -/
def execMinu (o : R3) (s : State) : Res := .next (scalar3 1 (aluMinu) o s)

/-- Unsigned maximum (R114). -/
def execMaxu (o : R3) (s : State) : Res := .next (scalar3 1 (aluMaxu) o s)

/-- Leading zeros (R114). -/
def execClz (o : R2) (s : State) : Res := .next (s.landIn 1 (.s o.d) (aluClz (s.rdS o.a)))

/-- Population count (R114). -/
def execPopc (o : R2) (s : State) : Res := .next (s.landIn 1 (.s o.d) (aluPopc (s.rdS o.a)))

/-- sa if predicate pc reads true, else sb (R114). -/
def execSel (o : RSel) (s : State) : Res := .next (s.landIn 1 (.s o.d) (if s.rdP o.c then s.rdS o.a else s.rdS o.b))

/-- pd := sa = sb (R116). -/
def execCmpeq (o : RCmp) (s : State) : Res := .next (compare condEq o s)

/-- pd := sa ≠ sb (R116). -/
def execCmpne (o : RCmp) (s : State) : Res := .next (compare condNe o s)

/-- pd := s64(sa) < s64(sb) (R116). -/
def execCmplt (o : RCmp) (s : State) : Res := .next (compare condLt o s)

/-- pd := u64(sa) < u64(sb) (R116). -/
def execCmpltu (o : RCmp) (s : State) : Res := .next (compare condLtu o s)

/-- pd := s64(sa) ≤ s64(sb) (R116). -/
def execCmple (o : RCmp) (s : State) : Res := .next (compare condLe o s)

/-- pd := u64(sa) ≤ u64(sb) (R116). -/
def execCmpleu (o : RCmp) (s : State) : Res := .next (compare condLeu o s)

/-- pd := pa and pb (R116). -/
def execPand (o : P3) (s : State) : Res := .next (predicate o.d (s.rdP o.a && s.rdP o.b) s)

/-- pd := pa or pb (R116). -/
def execPor (o : P3) (s : State) : Res := .next (predicate o.d (s.rdP o.a || s.rdP o.b) s)

/-- pd := not pa (R116). -/
def execPnot (o : P2) (s : State) : Res := .next (predicate o.d (!s.rdP o.a) s)

/-- addi with sx(imm) (R115). -/
def execAddi (o : I3) (s : State) : Res := .next (scalarImm (fun a b => a + b) o s)

/-- andi with sx(imm) (R115). -/
def execAndi (o : I3) (s : State) : Res := .next (scalarImm (fun a b => a &&& b) o s)

/-- ori with sx(imm) (R115). -/
def execOri (o : I3) (s : State) : Res := .next (scalarImm (fun a b => a ||| b) o s)

/-- xori with sx(imm) (R115). -/
def execXori (o : I3) (s : State) : Res := .next (scalarImm (fun a b => a ^^^ b) o s)

/-- shli by imm[5:0] (R115). -/
def execShli (o : ISh) (s : State) : Res := .next (scalarShift aluShl o s)

/-- shri by imm[5:0] (R115). -/
def execShri (o : ISh) (s : State) : Res := .next (scalarShift aluShr o s)

/-- srai by imm[5:0] (R115). -/
def execSrai (o : ISh) (s : State) : Res := .next (scalarShift aluSra o s)

/-- sd := sx(imm) (R115). -/
def execLi (o : ILi) (s : State) : Res := .next (s.landIn 1 (.s o.d) (sx32 o.imm))

/-- sd := imm · 2^32 + sd[31:0] (R115). -/
def execLih (o : ILi) (s : State) : Res := .next (s.landIn 1 (.s o.d) (aluLih (s.rdS o.d) o.imm))

end Sys2Proof.Machine
end

