-- ==== Sys2Proof/Machine/Issue.lean ====
section
/-! DEFINITION. The issue of a bundle whose form is good: what holds it back, the traps at issue, and the order in which its
syllables take effect (R36, R37, R56, R82, R99, R103, R111, R126 to R133, R172, R174, R216, R251 to R256, R262, R307, R338). -/

namespace Sys2Proof.Machine

/-! ## The traps at issue -/

/-- The trap at issue that a syllable's own instruction states, its guard true (R37). -/
def trapsOf (i : Instr) (s : State) : Option Trap :=
  match i with
  | .br o => trapsBr o s
  | .jmp o => trapsJmp o s
  | .call o => trapsCall o s
  | .ret o => trapsRet o s
  | .loop o => trapsLoop o s
  | .rgnend => trapsRgnend s
  | .rti => trapsRti s
  | .idle | .rgn _ | .halt | .iinvAll | .iinvLine _ | .iinvPage _ | .brk _ | .hinv _ => s.rgnIll
  | .mtsr o => trapsMtsr o s
  | .lds o => trapsLds o s
  | .sts o => trapsSts o s
  | .binit o => trapsBinit o s
  | .amoadd o | .amoxor o | .amomin o | .amomax o | .amoswp o | .amocas o => trapsAmo o s
  | .gld o => trapsGld o s
  | .gst o => trapsGst o s
  | .xlat o => trapsXlat o s
  | .arrive o => trapsArrive o s
  | .bwait o => trapsBwait o s
  | .btest o => trapsBtest o s
  | .await o => trapsAwait o s
  | .vassz o => trapsVassz o s
  | .vld o | .evld o => trapsVld o s
  | .vst o | .evst o => trapsVst o s
  | .vldx o | .evldx o => trapsVldx o s
  | .hpush o => trapsHpush o s
  | .hpop o => trapsHpop o s
  | .mringSet o => trapsMringSet o s
  | .mringLoad o => trapsMringLoad o s
  | .mtail o => trapsMtail o s
  | .fmtq o => trapsFmtq o s
  | .mwld o => trapsMwld o s
  | .mmacr o => trapsProduct .macr o s
  | .mmasr o => trapsProduct .masr o s
  | .emmul o => trapsProduct .mul o s
  | .emfma o => trapsProduct .fma o s
  | .emclr o => trapsEmclr o s
  | .rtqr o => trapsRtqr o s
  | .rtapl o => trapsRtapl o s
  | .rtinvQr o => trapsRtinvQr o s
  | .rtinvApl o => trapsRtinvApl o s
  | .rtsolve o => trapsRtsolve o s
  | .rtrd o => trapsRtrd o s
  | .rtwr o => trapsRtwr o s
  | .ertclr o => trapsErtclr o s
  | .clkdiv o => trapsClkdiv o s
  | .rdmeterUsed o | .rdmeterBal o => trapsRdmeter o s
  | .cpy o => trapsCpy o s
  | .cpyx o => trapsCpyx o s
  | .cpycPack o => trapsCpycPack o s
  | .cpycUnpack o => trapsCpycUnpack o s
  | .cpyg o => trapsCpyg o s
  | .cpys o => trapsCpys o s
  | .cpyz o => trapsCpyz o s
  | .cpyv o => trapsCpyv o s
  | .ppcmp o => trapsPpcmp o s
  | .lsend o => trapsLsend o s
  | .lrecv o => trapsLrecv o s
  | .lradd o => trapsLradd o s
  | .lwprec o => trapsLwprec o s
  | .nmc o => trapsNmc o s
  | .realign => trapsRealign s
  | .dsync o => trapsDsync o s
  | .xsend o => trapsXsend o s
  | .xrecv o => trapsXrecv o s
  | _ => none

/-- The class of an instruction (R31). -/
def classOf (i : Instr) : Nat := match i.fields with
  | some f => f.1
  | none => 16

/-- The modifier of class 0xF that applies to syllable k: that of the syllable before it (R53). -/
def pfxAt (l : List (Option Syl)) (k : Nat) : Option PfxOp :=
  match k, l[k - 1]? with
  | 0, _ => none
  | _, some (some ⟨_, .pfx p⟩) => some p
  | _, _ => none

/-- The state in which syllable k of the bundle is checked and takes effect. -/
def State.atSyl (s : State) (l : List (Option Syl)) (k : Nat) : State :=
  s.updSt fun st => { st with pos := k, pfx := pfxAt l k }

/-- T_ILL of syllable k, whatever its guard: no instruction, a space check before an engine's syllable, or rgnend outside a
region (R37, R56, R58, R127). -/
def illAt (l : List (Option Syl)) (s : State) (k : Nat) : Option Trap :=
  let eng := match l[k + 1]? with
    | some (some y) => classOf y.i == 10 || classOf y.i == 11
    | _ => false
  match l[k]? with
  | some (some ⟨_, .pfx p⟩) => trapIf (eng && p.sp != 0) tIll k
  | some (some ⟨_, .rgnend⟩) => trapIf s.a.st.rgn.isNone tIll k
  | some (some _) => none
  | _ => some ⟨tIll, k⟩

/-- The trap that syllable k raises at issue; `t` is the state with the region open that the bundle's own rgn opens (R37,
R126). -/
def trapAt (l : List (Option Syl)) (s t : State) (k : Nat) : Option Trap :=
  firstTrap [illAt l s k, match l[k]? with
    | some (some y) =>
      if s.rdP y.g then
        (match y.i with
         | .rgn _ => trapsOf y.i (s.atSyl l k)
         | _ => trapsOf y.i (t.atSyl l k))
      else none
    | _ => none]

/-- The syllables that take effect, with their positions (R39). -/
def State.effective (s : State) (l : List (Option Syl)) : List (Nat × Instr) :=
  (l.zipIdx).filterMap fun x => match x.1 with
    | some y => if s.rdP y.g then some (x.2, y.i) else none
    | none => none

/-- The state with the region open that an rgn of the bundle opens (R126). -/
def State.opened (s : State) (l : List (Nat × Instr)) : State :=
  match l.find? fun x => (match x.2 with
    | .rgn _ => true
    | _ => false) with
  | some (_, .rgn o) => s.updSt fun st => { st with rgn := some ⟨st.atc, o.imm.toNat, st.sbmode.getLsbD 0⟩ }
  | _ => s

/-! ## What holds a bundle back -/

/-- The engine whose gating an instruction's operation meets (R98, R99). -/
def engineOf (i : Instr) : Option Nat :=
  match classOf i with
  | 5 | 6 | 7 => some 0
  | 8 => match i with
    | .mwld _ | .mmacr _ | .mmasr _ | .emmul _ | .emfma _ | .emclr _ => some 1
    | _ => none
  | 9 => some 2
  | 10 => match i with
    | .ppcmp _ => none
    | _ => some 3
  | _ => none

/-- The stamp of an array command (R50). -/
def stampOf (i : Instr) : Option (BitVec 10) :=
  match i with
  | .mwld o => o.stamp
  | .mmacr o | .mmasr o | .emmul o | .emfma o => o.stamp
  | .emclr o => o.stamp
  | .rtqr o => o.stamp
  | .rtapl o | .rtinvApl o => o.stamp
  | .rtinvQr o => o.stamp
  | .rtsolve o => o.stamp
  | .rtrd o | .rtwr o => o.stamp
  | .ertclr o => o.stamp
  | _ => none

/-- The tick at which an engine's operation of the syllable in hand starts (R214, R263, R288). -/
def State.startOf (s : State) (i : Instr) : Nat :=
  match engineOf i with
  | some 0 => s.vxS
  | some 1 => s.arrayS 2 (stampOf i)
  | some 2 => s.arrayS 3 (stampOf i)
  | _ => s.now

/-- Engine k is gated or still waking at a tick (R99). -/
def Atoll.asleepAt (a : Atoll) (k t : Nat) : Bool :=
  match (a.gateSt k).g with
  | .awake => false
  | .gated => true
  | .waking u => decide (t < u)

/-- The engine of an operation is gated or waking at its start; a stamped command issues all the same (R99, R263). -/
def State.asleep (s : State) (i : Instr) : Bool :=
  match engineOf i with
  | some k => (stampOf i).isNone && s.a.asleepAt k (s.startOf i)
  | none => false

/-- A command of an array that has issued starts in this core cycle with its array gated or waking (R131, R263). -/
def State.jobAsleep (s : State) : Bool :=
  let hit := fun (k t : Nat) => decide (s.now ≤ t) && decide (t < s.now + s.a.div.core) && s.a.asleepAt k t
  s.a.mjobs.any (fun j => hit 1 j.start) || s.a.rjobs.any fun j => hit 2 j.start.toNat

/-- The unit of an operation without a stamp that finds its engine occupied at its start (R82, R262, R288). -/
def State.occupied (s : State) (i : Instr) : Option Dom :=
  let mx := fun (st : Option (BitVec 10)) =>
    if st.isNone && decide (s.arrayS 2 none < s.a.mbusy) then some Dom.mx else none
  let rt := fun (k : RKind) (st : Option (BitVec 10)) =>
    if st.isNone && decide (s.arrayS 3 none < s.rtFree k) then some Dom.rt else none
  match i with
  | .mwld o => mx o.stamp
  | .mmacr o | .mmasr o | .emmul o | .emfma o => mx o.stamp
  | .emclr o => mx o.stamp
  | .rtqr o => rt .qr o.stamp
  | .rtapl o => rt .apl o.stamp
  | .rtinvQr o => rt .invQr o.stamp
  | .rtinvApl o => rt .invApl o.stamp
  | .rtsolve o => rt .solve o.stamp
  | .rtrd o => rt .rd o.stamp
  | .rtwr o => rt .wr o.stamp
  | .rtgainSet _ => rt .gainSet none
  | .rtgainRead _ => rt .gainRead none
  | .ertclr o => rt .clr o.stamp
  | _ => if (classOf i == 5 || classOf i == 6 || classOf i == 7) && decide (s.vxS < s.a.vbusy) then some .vx else none

/-- The ordering class and word of a fixed access that a syllable makes (R54, R171, R172); word 2^63 stands for none. -/
def State.fixedAccess (s : State) (i : Instr) : Option (BitVec 4 × Nat) :=
  let sp := fun (a : Reg) (off : BitVec 16) =>
    let ea := s.ea a off
    if eaRemote ea then none else some (s.cls 0, s.a.n * 2 ^ 24 + eaByte ea / 8)
  match i with
  | .lds o => sp o.a o.off
  | .sts o | .binit o => sp o.a o.off
  | .bwait o => sp o.a o.off
  | .btest o => sp o.a o.off
  | .await o => sp o.a o.off
  | .amoadd o | .amoxor o | .amomin o | .amomax o | .amoswp o | .amocas o => if o.G then none else sp o.a o.off
  | .vld _ | .evld _ | .vst _ | .evst _ | .vldx _ | .evldx _ | .hpush _ | .hpop _ => some (s.cls 4, 2 ^ 63)
  | _ => none

/-- An earlier access that is not fixed, of the class or to the word of a fixed access, has not performed (R172). -/
def State.orderHold (s : State) (i : Instr) : Bool :=
  match s.fixedAccess i with
  | some (k, w) =>
    (s.agenda.any fun e => match e.pendingAccess s.a.n with
      | some p => (p.k == k && p.owed e.seq) || p.w == w
      | none => false) || s.extBlocks s.a.n k w
  | none => false

/-- The syllable makes an access or a command that an incomplete fence holds back (R174). -/
def fenceHeld (i : Instr) : Bool :=
  match i with
  | .hinv _ | .xlat _ | .fence _ => false
  | .vld _ | .evld _ | .vst _ | .evst _ | .vldx _ | .evldx _ | .hpush _ | .hpop _ => true
  | _ => classOf i == 4 || classOf i == 10 || classOf i == 11

/-- An incomplete fence waits for an access that is not fixed (R174). -/
def State.fenceLate (s : State) : Bool :=
  s.a.st.fences.any fun f =>
    (s.agenda.any fun e => decide (e.seq < f.2) && (match e.pendingAccess s.a.n with
      | some p => f.1.getLsbD p.k.toNat && p.owed e.seq
      | none => false)) || s.fencedAbroad f.1

/-- A local arrive in a region whose arrival must wait for an earlier access that is not fixed (R183). -/
def State.arriveLate (s : State) (i : Instr) : Bool :=
  match i with
  | .arrive _ => (s.agenda.any fun e => match e.pendingAccess s.a.n with
      | some p => { p with lv := s.scope }.owed e.seq
      | none => false) || !s.a.st.ext.isEmpty
  | _ => false

/-- The pending writes that rgn waits for: scalar, predicate, handle, LC and system registers (R126). -/
def RName.scalar : RName → Bool
  | .v _ | .m _ => false
  | _ => true

/-- What a table of the atoll has no room for, as the source code of a late result (R256, R307, R338, R380). -/
def State.fullOf (s : State) (i : Instr) : Option Nat :=
  match i with
  | .xsend _ => if 32 ≤ s.a.xs.length then some 10 else none
  | .xrecv _ => if 32 ≤ s.a.xr.length then some 10 else none
  | .lsend _ | .lrecv _ | .lradd _ | .nmc _ => if 32 ≤ s.a.lq.length then some 9 else none
  | _ => if classOf i = 10 ∧ 32 ≤ s.a.cq.length then some 8 else none

/-- What holds a syllable back outside a region only (R103, R126, R254, R256). -/
def State.outsideHold (s : State) (i : Instr) : Bool :=
  match i with
  | .rgn _ => !s.a.hand.isEmpty || s.pending.any RName.scalar
  | .clkdiv o => s.a.hand.contains o.dom.toNat
  | .mringSet o => s.a.ringHeld o.x
  | .mringLoad o => s.a.ringHeld o.x
  | .fmtq _ => decide (16 ≤ s.a.fq.length)
  | _ => false

/-- The registers and guards that a bundle reads or names as destinations (R111, R216). -/
def bundleNames (l : List (Option Syl)) : List RName :=
  (l.flatMap fun y => match y with
    | some y => .p y.g :: ((usesOf y.i).1 ++ (usesOf y.i).2)
    | none => []).filter RName.real

/-- The operation of an array must wait for its start: that is the last of its checks (R262, R263, R280, R288). -/
def State.startWaits (s : State) (i : Instr) : Bool := (classOf i == 8 || classOf i == 9) && (s.asleep i || (s.occupied i).isSome)

/-- A bundle outside a region waits at issue before its checks (R82, R99, R103, R111, R126, R172, R174, R216, R307). -/
def State.heldBack (s : State) (l : List (Option Syl)) : Bool :=
  let eff := s.effective l
  let p := s.pending
  (bundleNames l).any (fun r => p.contains r) ||
    eff.any fun x =>
      let t := s.atSyl l x.1
      ((t.asleep x.2 || (t.occupied x.2).isSome) && !t.startWaits x.2) || t.orderHold x.2 || t.outsideHold x.2 || (t.fullOf x.2).isSome ||
        (fenceHeld x.2 && !s.a.st.fences.isEmpty)

/-- A bundle outside a region that has passed its checks waits for the start of an array's operation (R263, R288). -/
def State.heldLast (s : State) (l : List (Option Syl)) : Bool := (s.effective l).any fun x => (s.atSyl l x.1).startWaits x.2

/-- The lowest source code of a late result that a bundle due in a region makes, and the unit that must go on for it to clear
(R131, R159, R307). -/
def State.lateSource (s : State) (l : List (Nat × Instr)) (q : List (Option Syl)) : Option (Nat × Dom) :=
  let has := fun (f : State → Instr → Bool) => l.any fun x => f (s.atSyl q x.1) x.2
  if has fun t i => t.asleep i then some (3, .none)
  else match l.findSome? fun x => (s.atSyl q x.1).occupied x.2 with
    | some d => some (4, d)
    | none =>
      if s.historyDue then some (6, .none)
      else if has (fun t i => t.orderHold i || t.arriveLate i || (fenceHeld i && t.fenceLate)) then some (7, .none)
      else match l.filterMap fun x => (s.atSyl q x.1).fullOf x.2 with
        | [] => none
        | c :: r => some (r.foldl min c, .none)

/-- A fence that waits only for fixed accesses: the wait is part of a region's schedule (R174). -/
def State.fenceOnly (s : State) (l : List (Nat × Instr)) : Bool :=
  (l.any fun x => fenceHeld x.2) && !s.a.st.fences.isEmpty

/-- The gated engines that a bundle's operations are for begin to wake (R99). -/
def State.wakeFor (s : State) (l : List (Nat × Instr)) : State :=
  l.foldl (fun (s : State) x => match engineOf x.2 with
    | some k => if (s.a.gateSt k).g = .gated then s.wakeEngine k else s
    | none => s) s

/-! ## The issue itself -/

/-- The place of a syllable in the order of effects: rgn, whose region holds the others, then the rest, then the syllable
that changes the flow of control (R36, R126, R127). -/
def stageOf (i : Instr) : Nat :=
  match i with
  | .rgn _ => 0
  | .rgnend | .trap _ | .rti | .halt | .brk _ | .realign | .iinvAll | .iinvLine _ | .iinvPage _ => 2
  | _ => if classOf i = 2 then 2 else 1

/-- Engine k has an operation: it begins to wake, or its idle count starts again (R98, R99). -/
def State.engage (s : State) (k : Nat) : State := if (s.a.gateSt k).g = .awake then s.useEngine k else s.wakeEngine k

/-- The class of an access that the vector engine makes for a bundle is kept while steps of the bundle are due (R54, R174). -/
def State.keepClass (s : State) (i : Instr) : State :=
  match i with
  | .vld _ | .evld _ | .vst _ | .evst _ | .vldx _ | .evldx _ | .hpush _ | .hpop _ =>
    s.updSt fun st => { st with vk := (s.ev.seq, s.cls 4) :: st.vk.filter fun v => s.agenda.any fun e => e.seq == v.1 }
  | _ => s

/-- One syllable takes effect: its engine's idle count starts again, and its instruction acts (R36, R98). -/
def issueOne (exec : Instr → State → Res) (q : List (Option Syl)) (r : Res) (x : Nat × Instr) : Res :=
  match r with
  | .next s =>
    let s1 := match engineOf x.2 with
      | some k => s.engage k
      | none => s
    exec x.2 ((s1.atSyl q x.1).keepClass x.2)
  | r => r

/-- After the issue: a strand that waits or has stopped issues nothing more of its own. -/
def State.settled (s : State) : State :=
  let s := s.updSt fun st => { st with pos := 0, pfx := none }
  if s.a.st.wait ≠ .none ∨ s.a.st.run ≠ .run then s.noFetchOf s.a.n else s

/-- The bundle issues whole: it is charged, the next bundle in sequence is due a core cycle later, and its syllables take
effect (R36, R85, R88, R110). -/
def issueWhole (exec : Instr → State → Res) (q : List (Option Syl)) (eff : List (Nat × Instr)) (s : State) : Res :=
  let s1 := ((s.chargeAt (s.coreT 0) ajBundle).updSt fun st => { st with pc := st.npc, ready := s.coreT 1, pend := 0 }).fetchAt (s.coreT 1)
  let l := [0, 1, 2].flatMap fun k => eff.filter fun x => stageOf x.2 == k
  match l.foldl (issueOne exec q) (.next s1) with
  | .next s2 => .next s2.settled
  | r => r

/-- An xlat of the bundle whose walk has not begun (R163). -/
def State.walkDue (s : State) (l : List (Nat × Instr)) : Option (Nat × Instr) :=
  if s.a.st.walked.isSome then none
  else l.find? fun x => match x.2 with
    | .xlat _ => true
    | _ => false

/-- The first trap of the bundle in address order.  A syllable is checked with the lanes, ports and claims that the
syllables before it take; registers are as before the bundle (R36, R37, R155). -/
def bundleTrap (exec : Instr → State → Res) (q : List (Option Syl)) (eff : List (Nat × Instr)) (s : State) :
    List Nat → State → Option Trap
  | [], _ => none
  | k :: r, t =>
    match trapAt q s t k with
    | some tr => some tr
    | none =>
      match (eff.find? fun x => x.1 == k && stageOf x.2 == 1) with
      | some x => (match exec x.2 (t.atSyl q k) with
        | .next t1 => bundleTrap exec q eff s r t1
        | _ => bundleTrap exec q eff s r t)
      | none => bundleTrap exec q eff s r t

/-- A bundle that nothing holds back before its checks: a trap, a late result, a wait for an array, or the issue (R37). -/
def issueReady (exec : Instr → State → Res) (q : List (Option Syl)) (eff : List (Nat × Instr)) (s : State) : Res :=
  let inR := s.a.st.rgn.isSome
  match bundleTrap exec q eff s (List.range q.length) (s.opened eff) with
  | some tr => .next (s.takeTrap tr.cause tr.info s.a.st.bpc inR)
  | none =>
    if !inR && s.heldLast q then .next ((s.wakeFor eff).fetchAt (s.coreT 1))
    else match (if inR then s.lateSource eff q else none) with
    | some (c, d) => .next ((s.wakeFor eff).lateRetry d c)
    | none => if inR && s.fenceOnly eff then .next (s.fetchAt (s.coreT 1)) else issueWhole exec q eff s

/-- The bundle in hand issues, waits, or raises one trap (R37). -/
def issueAll (exec : Instr → State → Res) (s : State) : Res :=
  let q := s.issueQ
  let eff := s.effective q
  let inR := s.a.st.rgn.isSome
  if !inR && s.heldBack q then .next ((s.wakeFor eff).fetchAt (s.coreT 1))
  else match (if inR then none else s.walkDue eff) with
    | some x => (match exec x.2 (s.atSyl q x.1) with
      | .next s1 => .next (s1.updSt fun st => { st with pos := 0, pfx := none })
      | r => r)
    | none => issueReady exec q eff s

/-! ## The look at a region when a core cycle begins (R131 to R133) -/

/-- Why a bundle due in a region is late: the source, the unit that must go on, the operations that wake their engines, and a line that is
to be filled. -/
structure Late where
  code : Nat
  spare : Dom
  wakes : List (Nat × Instr)
  line : Option Nat
deriving DecidableEq, Repr

/-- The atoll of a step is in focus and brought up to date: a step that reads sees the rotator as it was before this tick. -/
def State.enter (s : State) (e : Ev) : State :=
  (s.focus e.atoll).updA fun a => Atoll.rotate (if e.phase = 0 then s.now - 1 else s.now) (Atoll.settle s.now a)

/-- The state that a bundle due in this tick would find: the steps due before it are taken, at most n of them. -/
def State.ahead (exec : Instr → State → Res) (k : Nat) : Nat → State → State
  | 0, s => s.focus k
  | n + 1, s => match s.agenda with
    | [] => s.focus k
    | e :: r =>
      if s.now < e.tick ∨ 5 ≤ e.phase then s.focus k
      else if e.i = .bundleFetch then State.ahead exec k n { s with agenda := r }
      else match exec e.i ({ s with agenda := r, ev := e }.enter e) with
        | .next t => State.ahead exec k n t
        | _ => s.focus k

/-- The late result that the bundle due makes, if it raises no trap (R131, R280). -/
def State.bundleLate (exec : Instr → State → Res) (s : State) : Option Late :=
  let st := s.a.st
  if st.run ≠ .run ∨ st.wait ≠ .none ∨ st.rgn.isNone ∨ (st.bpc < 2 ^ 47 ∧ 2 ^ 47 ≤ st.pc) then none
  else match st.fetchBundle 4 0 st.pc with
    | (_, some (_, .miss line)) => some ⟨5, .none, [], some line⟩
    | (_, some _) => none
    | (l, none) =>
      if s.overran (l.map sylOf) || (bundleReason l).isSome then none
      else
        let t := s.numbered.formed l
        let eff := t.effective t.issueQ
        if (bundleTrap exec t.issueQ eff t (List.range l.length) t).isSome then none
        else (t.lateSource eff t.issueQ).map fun x => ⟨x.1, x.2, eff, none⟩

/-- The strand's next bundle is due in this core cycle. -/
def State.bundleDue (s : State) : Bool :=
  s.agenda.any fun e => e.i == .bundleFetch && e.atoll == s.a.n && e.arg == .none && decide (e.tick < s.now + s.a.div.core)

/-- A core cycle of a region that is late: a lagoon that holds issue counts it, the engines that its bundle needs begin to wake, and a line
that it lacks is asked for (R97, R99, R109, R131). -/
def State.lateCycle (s : State) (held : Bool) (b : Option Late) (code : Nat) : State :=
  let s1 := if held then s.updSt Strand.countHeld else s
  let s2 := match b with
    | some x => (match x.line with
      | some line => (s1.wakeFor x.wakes).askLine line
      | none => s1.wakeFor x.wakes)
    | none => s1
  s2.lateOf ((b.map Late.spare).getD .none) code

/-- The core cycle that begins in an open region: a late result asserts the freeze line, before anything of the cycle has taken effect,
or raises T_LATE with the lowest code that applies (R97, R131 to R133). -/
def regionLook (exec : Instr → State → Res) (s : State) : State :=
  if s.a.st.rgn.isNone then s
  else
    let s := s.lookAt (s.coreT 1)
    let p := State.ahead exec s.a.n (2 * s.agenda.length) s
    let b := if s.bundleDue then p.bundleLate exec else none
    let own := [(s.portLate, 1), (p.a.st.lagHold, 2), (s.jobAsleep, 3), (s.historyDue, 6)].filterMap fun x => if x.1 then some x.2 else none
    match own ++ (b.map Late.code).toList with
    | [] => s
    | c :: r => s.lateCycle p.a.st.lagHold b (r.foldl min c)

/-- What follows a step: the issue of the bundle that it has formed, or the look at a region. -/
def afterStep (exec : Instr → State → Res) (i : Instr) (s : State) : Res :=
  if s.issueQ ≠ [] then issueAll exec s
  else if i = .bundleFetch ∧ s.ev.arg = .n 1 then .next (regionLook exec s)
  else .next s

end Sys2Proof.Machine
end

