-- ==== Sys2Proof/Machine/Schedule.lean ====
section
/-! DEFINITION. Which step is next: the head of the agenda, at its tick, with its atoll in focus and brought up to date
(R6, R19, log 2), and the event points of a strand (R134, R196, R382). -/

namespace Sys2Proof.Machine

/-- What a strand takes at an event point instead of its next bundle: a recorded exchange fault, the pending data flag when no
trap is active, or a strand event (R134, R196, R382). -/
def State.atEventPoint (s : State) : Option Instr :=
  let st := s.a.st
  if st.run ≠ .run ∨ st.wait ≠ .none ∨ st.rgn.isSome ∨ st.held.isSome ∨ st.bal < 0 then none
  else if st.xfault.isSome then some .exchangeFaultTaken
  else if st.dflag.isSome && !st.act then some .pendingDataTrap
  else if st.evReq then some .strandEvent
  else none

/-- The step that a due step turns into. -/
def State.turn (s : State) (i : Instr) : Instr := if i = .bundleFetch then s.atEventPoint.getD i else i

/-- The step at the head of the agenda is in hand: the tick is its own, its atoll is in focus and settled, and the crossings of mesh links
that are past are forgotten. -/
def State.take (s : State) (e : Ev) (r : List Ev) : State :=
  let t := max s.now e.tick
  { s with agenda := r, now := t, ev := e, issueQ := [], links := s.links.filter fun l => t ≤ l.1 }.enter e

end Sys2Proof.Machine
end

