-- ==== Sys2Proof/Machine/Dispatch.lean ====
section
/-! DEFINITION. The meaning of every row of the opcode table: one arm per constructor. -/

namespace Sys2Proof.Machine

def exec (i : Instr) (s : State) : Host.Outcome State Fault Refusal :=
  match i with
  | .add o => Sys2Proof.Machine.execAdd o s
  | .sub o => Sys2Proof.Machine.execSub o s
  | .and o => Sys2Proof.Machine.execAnd o s
  | .or o => Sys2Proof.Machine.execOr o s
  | .xor o => Sys2Proof.Machine.execXor o s
  | .andn o => Sys2Proof.Machine.execAndn o s
  | .shl o => Sys2Proof.Machine.execShl o s
  | .shr o => Sys2Proof.Machine.execShr o s
  | .sra o => Sys2Proof.Machine.execSra o s
  | .mul o => Sys2Proof.Machine.execMul o s
  | .mulh o => Sys2Proof.Machine.execMulh o s
  | .mulhu o => Sys2Proof.Machine.execMulhu o s
  | .div o => Sys2Proof.Machine.execDiv o s
  | .divu o => Sys2Proof.Machine.execDivu o s
  | .rem o => Sys2Proof.Machine.execRem o s
  | .min o => Sys2Proof.Machine.execMin o s
  | .max o => Sys2Proof.Machine.execMax o s
  | .minu o => Sys2Proof.Machine.execMinu o s
  | .maxu o => Sys2Proof.Machine.execMaxu o s
  | .clz o => Sys2Proof.Machine.execClz o s
  | .popc o => Sys2Proof.Machine.execPopc o s
  | .sel o => Sys2Proof.Machine.execSel o s
  | .cmpeq o => Sys2Proof.Machine.execCmpeq o s
  | .cmpne o => Sys2Proof.Machine.execCmpne o s
  | .cmplt o => Sys2Proof.Machine.execCmplt o s
  | .cmpltu o => Sys2Proof.Machine.execCmpltu o s
  | .cmple o => Sys2Proof.Machine.execCmple o s
  | .cmpleu o => Sys2Proof.Machine.execCmpleu o s
  | .pand o => Sys2Proof.Machine.execPand o s
  | .por o => Sys2Proof.Machine.execPor o s
  | .pnot o => Sys2Proof.Machine.execPnot o s
  | .addi o => Sys2Proof.Machine.execAddi o s
  | .andi o => Sys2Proof.Machine.execAndi o s
  | .ori o => Sys2Proof.Machine.execOri o s
  | .xori o => Sys2Proof.Machine.execXori o s
  | .shli o => Sys2Proof.Machine.execShli o s
  | .shri o => Sys2Proof.Machine.execShri o s
  | .srai o => Sys2Proof.Machine.execSrai o s
  | .li o => Sys2Proof.Machine.execLi o s
  | .lih o => Sys2Proof.Machine.execLih o s
  | .br o => Sys2Proof.Machine.execBr o s
  | .jmp o => Sys2Proof.Machine.execJmp o s
  | .call o => Sys2Proof.Machine.execCall o s
  | .ret o => Sys2Proof.Machine.execRet o s
  | .loop o => Sys2Proof.Machine.execLoop o s
  | .rgn o => Sys2Proof.Machine.execRgn o s
  | .mfsr o => Sys2Proof.Machine.execMfsr o s
  | .mtsr o => Sys2Proof.Machine.execMtsr o s
  | .trap o => Sys2Proof.Machine.execTrap o s
  | .iinvLine o => Sys2Proof.Machine.execIinvLine o s
  | .iinvPage o => Sys2Proof.Machine.execIinvPage o s
  | .rdgtc o => Sys2Proof.Machine.execRdgtc o s
  | .brk o => Sys2Proof.Machine.execBrk o s
  | .lds o => Sys2Proof.Machine.execLds o s
  | .sts o => Sys2Proof.Machine.execSts o s
  | .gld o => Sys2Proof.Machine.execGld o s
  | .gst o => Sys2Proof.Machine.execGst o s
  | .xlat o => Sys2Proof.Machine.execXlat o s
  | .hinv o => Sys2Proof.Machine.execHinv o s
  | .fence o => Sys2Proof.Machine.execFence o s
  | .binit o => Sys2Proof.Machine.execBinit o s
  | .arrive o => Sys2Proof.Machine.execArrive o s
  | .bwait o => Sys2Proof.Machine.execBwait o s
  | .btest o => Sys2Proof.Machine.execBtest o s
  | .await o => Sys2Proof.Machine.execAwait o s
  | .amoadd o => Sys2Proof.Machine.execAmoadd o s
  | .amoxor o => Sys2Proof.Machine.execAmoxor o s
  | .amomin o => Sys2Proof.Machine.execAmomin o s
  | .amomax o => Sys2Proof.Machine.execAmomax o s
  | .amoswp o => Sys2Proof.Machine.execAmoswp o s
  | .amocas o => Sys2Proof.Machine.execAmocas o s
  | .pfx o => Sys2Proof.Machine.execPfx o s
  | .vadd o => Sys2Proof.Machine.execVadd o s
  | .evadd o => Sys2Proof.Machine.execEvadd o s
  | .vsub o => Sys2Proof.Machine.execVsub o s
  | .evsub o => Sys2Proof.Machine.execEvsub o s
  | .vmac o => Sys2Proof.Machine.execVmac o s
  | .evmac o => Sys2Proof.Machine.execEvmac o s
  | .vmas o => Sys2Proof.Machine.execVmas o s
  | .evmas o => Sys2Proof.Machine.execEvmas o s
  | .vneg o => Sys2Proof.Machine.execVneg o s
  | .evneg o => Sys2Proof.Machine.execEvneg o s
  | .vnot o => Sys2Proof.Machine.execVnot o s
  | .evnot o => Sys2Proof.Machine.execEvnot o s
  | .vxor o => Sys2Proof.Machine.execVxor o s
  | .evxor o => Sys2Proof.Machine.execEvxor o s
  | .vxand o => Sys2Proof.Machine.execVxand o s
  | .evxand o => Sys2Proof.Machine.execEvxand o s
  | .vswap o => Sys2Proof.Machine.execVswap o s
  | .vcswap o => Sys2Proof.Machine.execVcswap o s
  | .vshl o => Sys2Proof.Machine.execVshl o s
  | .evshl o => Sys2Proof.Machine.execEvshl o s
  | .vshr o => Sys2Proof.Machine.execVshr o s
  | .evshr o => Sys2Proof.Machine.execEvshr o s
  | .vsra o => Sys2Proof.Machine.execVsra o s
  | .evsra o => Sys2Proof.Machine.execEvsra o s
  | .vrotl o => Sys2Proof.Machine.execVrotl o s
  | .evrotl o => Sys2Proof.Machine.execEvrotl o s
  | .vand o => Sys2Proof.Machine.execVand o s
  | .evand o => Sys2Proof.Machine.execEvand o s
  | .vor o => Sys2Proof.Machine.execVor o s
  | .evor o => Sys2Proof.Machine.execEvor o s
  | .vmin o => Sys2Proof.Machine.execVmin o s
  | .evmin o => Sys2Proof.Machine.execEvmin o s
  | .vmax o => Sys2Proof.Machine.execVmax o s
  | .evmax o => Sys2Proof.Machine.execEvmax o s
  | .vabs o => Sys2Proof.Machine.execVabs o s
  | .evabs o => Sys2Proof.Machine.execEvabs o s
  | .vmul o => Sys2Proof.Machine.execVmul o s
  | .evmul o => Sys2Proof.Machine.execEvmul o s
  | .vpopc o => Sys2Proof.Machine.execVpopc o s
  | .evpopc o => Sys2Proof.Machine.execEvpopc o s
  | .vclz o => Sys2Proof.Machine.execVclz o s
  | .evclz o => Sys2Proof.Machine.execEvclz o s
  | .vcmpeq o => Sys2Proof.Machine.execVcmpeq o s
  | .evcmpeq o => Sys2Proof.Machine.execEvcmpeq o s
  | .vcmplt o => Sys2Proof.Machine.execVcmplt o s
  | .evcmplt o => Sys2Proof.Machine.execEvcmplt o s
  | .vcmple o => Sys2Proof.Machine.execVcmple o s
  | .evcmple o => Sys2Proof.Machine.execEvcmple o s
  | .vsel o => Sys2Proof.Machine.execVsel o s
  | .evsel o => Sys2Proof.Machine.execEvsel o s
  | .vassz o => Sys2Proof.Machine.execVassz o s
  | .vzmask o => Sys2Proof.Machine.execVzmask o s
  | .evzmask o => Sys2Proof.Machine.execEvzmask o s
  | .vfadd o => Sys2Proof.Machine.execVfadd o s
  | .evfadd o => Sys2Proof.Machine.execEvfadd o s
  | .vfsub o => Sys2Proof.Machine.execVfsub o s
  | .evfsub o => Sys2Proof.Machine.execEvfsub o s
  | .vfmul o => Sys2Proof.Machine.execVfmul o s
  | .evfmul o => Sys2Proof.Machine.execEvfmul o s
  | .vfma o => Sys2Proof.Machine.execVfma o s
  | .evfma o => Sys2Proof.Machine.execEvfma o s
  | .vfmin o => Sys2Proof.Machine.execVfmin o s
  | .evfmin o => Sys2Proof.Machine.execEvfmin o s
  | .vfmax o => Sys2Proof.Machine.execVfmax o s
  | .evfmax o => Sys2Proof.Machine.execEvfmax o s
  | .vfneg o => Sys2Proof.Machine.execVfneg o s
  | .evfneg o => Sys2Proof.Machine.execEvfneg o s
  | .vfabs o => Sys2Proof.Machine.execVfabs o s
  | .evfabs o => Sys2Proof.Machine.execEvfabs o s
  | .vfrcp o => Sys2Proof.Machine.execVfrcp o s
  | .evfrcp o => Sys2Proof.Machine.execEvfrcp o s
  | .vfrsq o => Sys2Proof.Machine.execVfrsq o s
  | .evfrsq o => Sys2Proof.Machine.execEvfrsq o s
  | .vfexp2 o => Sys2Proof.Machine.execVfexp2 o s
  | .evfexp2 o => Sys2Proof.Machine.execEvfexp2 o s
  | .vflog2 o => Sys2Proof.Machine.execVflog2 o s
  | .evflog2 o => Sys2Proof.Machine.execEvflog2 o s
  | .vftanh o => Sys2Proof.Machine.execVftanh o s
  | .evftanh o => Sys2Proof.Machine.execEvftanh o s
  | .vfcmp o => Sys2Proof.Machine.execVfcmp o s
  | .evfcmp o => Sys2Proof.Machine.execEvfcmp o s
  | .vcvt o => Sys2Proof.Machine.execVcvt o s
  | .evcvt o => Sys2Proof.Machine.execEvcvt o s
  | .vcvr o => Sys2Proof.Machine.execVcvr o s
  | .evcvr o => Sys2Proof.Machine.execEvcvr o s
  | .vmerge o => Sys2Proof.Machine.execVmerge o s
  | .evmerge o => Sys2Proof.Machine.execEvmerge o s
  | .vshoal o => Sys2Proof.Machine.execVshoal o s
  | .evshoal o => Sys2Proof.Machine.execEvshoal o s
  | .vscale o => Sys2Proof.Machine.execVscale o s
  | .evscale o => Sys2Proof.Machine.execEvscale o s
  | .vbpenc o => Sys2Proof.Machine.execVbpenc o s
  | .evbpenc o => Sys2Proof.Machine.execEvbpenc o s
  | .vbpdec o => Sys2Proof.Machine.execVbpdec o s
  | .evbpdec o => Sys2Proof.Machine.execEvbpdec o s
  | .vredadd o => Sys2Proof.Machine.execVredadd o s
  | .evredadd o => Sys2Proof.Machine.execEvredadd o s
  | .vredmax o => Sys2Proof.Machine.execVredmax o s
  | .evredmax o => Sys2Proof.Machine.execEvredmax o s
  | .vredmin o => Sys2Proof.Machine.execVredmin o s
  | .evredmin o => Sys2Proof.Machine.execEvredmin o s
  | .vscan o => Sys2Proof.Machine.execVscan o s
  | .evscan o => Sys2Proof.Machine.execEvscan o s
  | .vld o => Sys2Proof.Machine.execVld o s
  | .evld o => Sys2Proof.Machine.execEvld o s
  | .vst o => Sys2Proof.Machine.execVst o s
  | .evst o => Sys2Proof.Machine.execEvst o s
  | .vldx o => Sys2Proof.Machine.execVldx o s
  | .evldx o => Sys2Proof.Machine.execEvldx o s
  | .vperm o => Sys2Proof.Machine.execVperm o s
  | .evperm o => Sys2Proof.Machine.execEvperm o s
  | .vrmg o => Sys2Proof.Machine.execVrmg o s
  | .evrmg o => Sys2Proof.Machine.execEvrmg o s
  | .vbcast o => Sys2Proof.Machine.execVbcast o s
  | .evbcast o => Sys2Proof.Machine.execEvbcast o s
  | .vext o => Sys2Proof.Machine.execVext o s
  | .vins o => Sys2Proof.Machine.execVins o s
  | .evins o => Sys2Proof.Machine.execEvins o s
  | .hpush o => Sys2Proof.Machine.execHpush o s
  | .hpop o => Sys2Proof.Machine.execHpop o s
  | .mand o => Sys2Proof.Machine.execMand o s
  | .emand o => Sys2Proof.Machine.execEmand o s
  | .mor o => Sys2Proof.Machine.execMor o s
  | .emor o => Sys2Proof.Machine.execEmor o s
  | .mnot o => Sys2Proof.Machine.execMnot o s
  | .emnot o => Sys2Proof.Machine.execEmnot o s
  | .mringSet o => Sys2Proof.Machine.execMringSet o s
  | .mringRead o => Sys2Proof.Machine.execMringRead o s
  | .mringLoad o => Sys2Proof.Machine.execMringLoad o s
  | .mtail o => Sys2Proof.Machine.execMtail o s
  | .fmtq o => Sys2Proof.Machine.execFmtq o s
  | .mwld o => Sys2Proof.Machine.execMwld o s
  | .mmacr o => Sys2Proof.Machine.execMmacr o s
  | .mmasr o => Sys2Proof.Machine.execMmasr o s
  | .emmul o => Sys2Proof.Machine.execEmmul o s
  | .emfma o => Sys2Proof.Machine.execEmfma o s
  | .emclr o => Sys2Proof.Machine.execEmclr o s
  | .rtqr o => Sys2Proof.Machine.execRtqr o s
  | .rtapl o => Sys2Proof.Machine.execRtapl o s
  | .rtinvQr o => Sys2Proof.Machine.execRtinvQr o s
  | .rtinvApl o => Sys2Proof.Machine.execRtinvApl o s
  | .rtsolve o => Sys2Proof.Machine.execRtsolve o s
  | .rtrd o => Sys2Proof.Machine.execRtrd o s
  | .rtwr o => Sys2Proof.Machine.execRtwr o s
  | .rtgainSet o => Sys2Proof.Machine.execRtgainSet o s
  | .rtgainRead o => Sys2Proof.Machine.execRtgainRead o s
  | .ertclr o => Sys2Proof.Machine.execErtclr o s
  | .cpy o => Sys2Proof.Machine.execCpy o s
  | .cpyx o => Sys2Proof.Machine.execCpyx o s
  | .cpycPack o => Sys2Proof.Machine.execCpycPack o s
  | .cpycUnpack o => Sys2Proof.Machine.execCpycUnpack o s
  | .cpyg o => Sys2Proof.Machine.execCpyg o s
  | .cpys o => Sys2Proof.Machine.execCpys o s
  | .cpyz o => Sys2Proof.Machine.execCpyz o s
  | .cpyv o => Sys2Proof.Machine.execCpyv o s
  | .ppcmp o => Sys2Proof.Machine.execPpcmp o s
  | .lsend o => Sys2Proof.Machine.execLsend o s
  | .lrecv o => Sys2Proof.Machine.execLrecv o s
  | .lradd o => Sys2Proof.Machine.execLradd o s
  | .lcancel o => Sys2Proof.Machine.execLcancel o s
  | .lprec o => Sys2Proof.Machine.execLprec o s
  | .lwprec o => Sys2Proof.Machine.execLwprec o s
  | .nmc o => Sys2Proof.Machine.execNmc o s
  | .wake o => Sys2Proof.Machine.execWake o s
  | .gate o => Sys2Proof.Machine.execGate o s
  | .clkdiv o => Sys2Proof.Machine.execClkdiv o s
  | .rdmeterUsed o => Sys2Proof.Machine.execRdmeterUsed o s
  | .rdmeterBal o => Sys2Proof.Machine.execRdmeterBal o s
  | .dsync o => Sys2Proof.Machine.execDsync o s
  | .xsend o => Sys2Proof.Machine.execXsend o s
  | .xrecv o => Sys2Proof.Machine.execXrecv o s
  | .idle => Sys2Proof.Machine.execIdle s
  | .rgnend => Sys2Proof.Machine.execRgnend s
  | .rti => Sys2Proof.Machine.execRti s
  | .halt => Sys2Proof.Machine.execHalt s
  | .iinvAll => Sys2Proof.Machine.execIinvAll s
  | .realign => Sys2Proof.Machine.execRealign s
  | .bundleFetch => Sys2Proof.Machine.execBundleFetch s
  | .scalarResultLand => Sys2Proof.Machine.execScalarResultLand s
  | .vectorResultLand => Sys2Proof.Machine.execVectorResultLand s
  | .regionOverrun => Sys2Proof.Machine.execRegionOverrun s
  | .pendingDataTrap => Sys2Proof.Machine.execPendingDataTrap s
  | .strandEvent => Sys2Proof.Machine.execStrandEvent s
  | .idleTimeout => Sys2Proof.Machine.execIdleTimeout s
  | .awaitTimeout => Sys2Proof.Machine.execAwaitTimeout s
  | .scalarStationAccess => Sys2Proof.Machine.execScalarStationAccess s
  | .scalarRowReturn => Sys2Proof.Machine.execScalarRowReturn s
  | .remoteAccessArrival => Sys2Proof.Machine.execRemoteAccessArrival s
  | .remoteReply => Sys2Proof.Machine.execRemoteReply s
  | .barrierArrival => Sys2Proof.Machine.execBarrierArrival s
  | .arriveOutcome => Sys2Proof.Machine.execArriveOutcome s
  | .fenceComplete => Sys2Proof.Machine.execFenceComplete s
  | .xlatWalkDone => Sys2Proof.Machine.execXlatWalkDone s
  | .rdmeterDrainDone => Sys2Proof.Machine.execRdmeterDrainDone s
  | .strandStop => Sys2Proof.Machine.execStrandStop s
  | .istoreFill => Sys2Proof.Machine.execIstoreFill s
  | .historyTransferDone => Sys2Proof.Machine.execHistoryTransferDone s
  | .clockHandover => Sys2Proof.Machine.execClockHandover s
  | .engineGate => Sys2Proof.Machine.execEngineGate s
  | .engineWakeDone => Sys2Proof.Machine.execEngineWakeDone s
  | .lagoonHoldBegin => Sys2Proof.Machine.execLagoonHoldBegin s
  | .lagoonHoldEnd => Sys2Proof.Machine.execLagoonHoldEnd s
  | .railChange => Sys2Proof.Machine.execRailChange s
  | .realignRelease => Sys2Proof.Machine.execRealignRelease s
  | .dsyncRelease => Sys2Proof.Machine.execDsyncRelease s
  | .xsendDepart => Sys2Proof.Machine.execXsendDepart s
  | .xrecvArrival => Sys2Proof.Machine.execXrecvArrival s
  | .exchangeReceiveTimeout => Sys2Proof.Machine.execExchangeReceiveTimeout s
  | .exchangeFaultTaken => Sys2Proof.Machine.execExchangeFaultTaken s
  | .vldRowRead => Sys2Proof.Machine.execVldRowRead s
  | .vldDeposit => Sys2Proof.Machine.execVldDeposit s
  | .vstRowWrite => Sys2Proof.Machine.execVstRowWrite s
  | .matrixActivationRead => Sys2Proof.Machine.execMatrixActivationRead s
  | .matrixAccumulatorRead => Sys2Proof.Machine.execMatrixAccumulatorRead s
  | .matrixWeightCapture => Sys2Proof.Machine.execMatrixWeightCapture s
  | .weightLoadChange => Sys2Proof.Machine.execWeightLoadChange s
  | .matrixWriteback => Sys2Proof.Machine.execMatrixWriteback s
  | .matrixRetire => Sys2Proof.Machine.execMatrixRetire s
  | .rotatorRowRead => Sys2Proof.Machine.execRotatorRowRead s
  | .rotatorRowWrite => Sys2Proof.Machine.execRotatorRowWrite s
  | .rotatorQuietEvent => Sys2Proof.Machine.execRotatorQuietEvent s
  | .rotatorRetire => Sys2Proof.Machine.execRotatorRetire s
  | .copyStart => Sys2Proof.Machine.execCopyStart s
  | .copyBurst => Sys2Proof.Machine.execCopyBurst s
  | .copyRow => Sys2Proof.Machine.execCopyRow s
  | .reefStreamRow => Sys2Proof.Machine.execReefStreamRow s
  | .gmAccess => Sys2Proof.Machine.execGmAccess s
  | .reefAtomic => Sys2Proof.Machine.execReefAtomic s
  | .nmcReefCheck => Sys2Proof.Machine.execNmcReefCheck s
  | .nmcRowUpdate => Sys2Proof.Machine.execNmcRowUpdate s
  | .accessCounterNotify => Sys2Proof.Machine.execAccessCounterNotify s
  | .patrolScrub => Sys2Proof.Machine.execPatrolScrub s
  | .refreshInterval => Sys2Proof.Machine.execRefreshInterval s
  | .layerTempSample => Sys2Proof.Machine.execLayerTempSample s
  | .scriptWord => Sys2Proof.Machine.execScriptWord s
  | .dynWindowEnd => Sys2Proof.Machine.execDynWindowEnd s
  | .channelFail => Sys2Proof.Machine.execChannelFail s
  | .straitFrameReceive => Sys2Proof.Machine.execStraitFrameReceive s
  | .replayRequest => Sys2Proof.Machine.execReplayRequest s
  | .rclkLockLoss => Sys2Proof.Machine.execRclkLockLoss s
  | .tileHeaderArrival => Sys2Proof.Machine.execTileHeaderArrival s
  | .planeLanded => Sys2Proof.Machine.execPlaneLanded s
  | .relayPlaneSend => Sys2Proof.Machine.execRelayPlaneSend s
  | .cancelMessage => Sys2Proof.Machine.execCancelMessage s
  | .endMessage => Sys2Proof.Machine.execEndMessage s
  | .linkCommandArrive => Sys2Proof.Machine.execLinkCommandArrive s
  | .revokePage => Sys2Proof.Machine.execRevokePage s
  | .revocationComplete => Sys2Proof.Machine.execRevocationComplete s
  | .pasidTeardown => Sys2Proof.Machine.execPasidTeardown s
  | .junctionTempReport => Sys2Proof.Machine.execJunctionTempReport s
  | .preemptRequest => Sys2Proof.Machine.execPreemptRequest s
  | .drainComplete => Sys2Proof.Machine.execDrainComplete s
  | .ladderT1Expiry => Sys2Proof.Machine.execLadderT1Expiry s
  | .saveComplete => Sys2Proof.Machine.execSaveComplete s
  | .ladderT2Expiry => Sys2Proof.Machine.execLadderT2Expiry s
  | .schedulerPlace => Sys2Proof.Machine.execSchedulerPlace s
  | .blockerTimeout => Sys2Proof.Machine.execBlockerTimeout s
  | .placementClaim => Sys2Proof.Machine.execPlacementClaim s
  | .claimWithdraw => Sys2Proof.Machine.execClaimWithdraw s
  | .memberReport => Sys2Proof.Machine.execMemberReport s
  | .memberReportTimeout => Sys2Proof.Machine.execMemberReportTimeout s
  | .launchEnd => Sys2Proof.Machine.execLaunchEnd s
  | .strandFaultEnd => Sys2Proof.Machine.execStrandFaultEnd s
  | .qtailDoorbell => Sys2Proof.Machine.execQtailDoorbell s
  | .nop => Sys2Proof.Machine.execNop s
  | .launch => Sys2Proof.Machine.execLaunch s
  | .launchResume => Sys2Proof.Machine.execLaunchResume s
  | .harvest => Sys2Proof.Machine.execHarvest s
  | .migdone => Sys2Proof.Machine.execMigdone s
  | .ccadd => Sys2Proof.Machine.execCcadd s
  | .ccdel => Sys2Proof.Machine.execCcdel s
  | .qcfgWrite => Sys2Proof.Machine.execQcfgWrite s
  | .cheadWrite => Sys2Proof.Machine.execCheadWrite s
  | .qctlPreempt => Sys2Proof.Machine.execQctlPreempt s
  | .qctlRelease => Sys2Proof.Machine.execQctlRelease s
  | .qctlGrant => Sys2Proof.Machine.execQctlGrant s
  | .qctlReenable => Sys2Proof.Machine.execQctlReenable s
  | .qmapWrite => Sys2Proof.Machine.execQmapWrite s
  | .devctlCold => Sys2Proof.Machine.execDevctlCold s
  | .devctlWarm => Sys2Proof.Machine.execDevctlWarm s
  | .powerOn => Sys2Proof.Machine.execPowerOn s
  | .startDone => Sys2Proof.Machine.execStartDone s
  | .fwupdGo => Sys2Proof.Machine.execFwupdGo s
  | .firmwareUpdateDone => Sys2Proof.Machine.execFirmwareUpdateDone s
  | .dbgctlStop => Sys2Proof.Machine.execDbgctlStop s
  | .dbgctlBrken => Sys2Proof.Machine.execDbgctlBrken s
  | .dbgctlResume => Sys2Proof.Machine.execDbgctlResume s
  | .dbgdataRead => Sys2Proof.Machine.execDbgdataRead s
  | .dbgdataWrite => Sys2Proof.Machine.execDbgdataWrite s
  | .readClear => Sys2Proof.Machine.execReadClear s
  | .registerWrite => Sys2Proof.Machine.execRegisterWrite s
  | .ageUpdate => Sys2Proof.Machine.execAgeUpdate s
  | .pairMismatch => Sys2Proof.Machine.execPairMismatch s
  | .workerFault => Sys2Proof.Machine.execWorkerFault s
  | .supplyFault => Sys2Proof.Machine.execSupplyFault s
  | .powerLoss => Sys2Proof.Machine.execPowerLoss s
  | .sparePortBind => Sys2Proof.Machine.execSparePortBind s
  | .planeSent => Sys2Proof.Machine.execPlaneSent s
  | .pageRequestResponse => Sys2Proof.Machine.execPageRequestResponse s
  | .atsTranslationResponse => Sys2Proof.Machine.execAtsTranslationResponse s
  | .hostLinkRetrain => Sys2Proof.Machine.execHostLinkRetrain s
  | .spdmRequest => Sys2Proof.Machine.execSpdmRequest s
  | .tdispRequest => Sys2Proof.Machine.execTdispRequest s
  | .graphImageLoad => Sys2Proof.Machine.execGraphImageLoad s
  | .memberLoad => Sys2Proof.Machine.execMemberLoad s
  | .memoryAssignment => Sys2Proof.Machine.execMemoryAssignment s
  | .pasidAssignment => Sys2Proof.Machine.execPasidAssignment s
  | .retirementRecordWrite => Sys2Proof.Machine.execRetirementRecordWrite s

end Sys2Proof.Machine
end

