-- ==== Sys2Proof/Machine/Step.lean ====
section
/-! DEFINITION. One step of the part: the step at the head of the agenda, and with a bundle the syllables it issues. -/

namespace Sys2Proof.Machine

/-- The step in hand, and the issue of the bundle that a fetch has formed. -/
def runStep (i : Instr) (s : State) : Host.Outcome State Fault Refusal :=
  match exec i s with
  | .next s1 => afterStep exec i s1
  | r => r

/-- One step: the head of the agenda, if there is one (log 2). -/
def step (s : State) : Host.Outcome State Fault Refusal :=
  match s.agenda with
  | [] => .next s
  | e :: r => runStep ((s.take e r).turn e.i) (s.take e r)

/-! ## Placing one instruction where the next step fetches (log 34) -/

/-- The words of a bundle that holds one syllable: a syllable without S = 1 is followed by one that ends the bundle, a `lds` of s0
behind a modifier syllable, which needs a target, and a nop behind any other (R32, R53). -/
def bundleOf (w : Word) : List Word :=
  if sylLast w then [w]
  else if sylClass w = 15 then [w, encode ⟨0, .lds ⟨0, 0, 0⟩⟩ true]
  else [w, encode ⟨0, .nop⟩ true]

/-- The row of code that begins with some words (R30). -/
def wordsRow (l : List Word) : Row := BitVec.ofNat 1024 (l.foldr (fun w n => w.toNat + 2 ^ 64 * n) 0)

/-- A strand about to issue the bundle at code address 0x10000, whose line stands in its instruction store. -/
def Strand.placed (st : Strand) (r : Row) (now : Nat) : Strand :=
  { st with run := .run, wait := .none, more := [], miss := none, pc := 0x10000, bpc := 0x10000, codeLo := 0x10000, codeHi := 0x10080, istore := [(512, r)]
            bal := 2 ^ 60, quota := 2 ^ 60, rgn := none, held := none, dflag := none, evReq := false, xfault := none, lagHold := false
            ready := now, pend := 0 }

/-- The launch in slot 1 that a placed strand belongs to: atoll n alone. -/
def placedLaunch (gx gy n now : Nat) : Launch :=
  { id := 0, slot := 1, q := 0, seqn := 0, tag := 0, home := none, desc := List.replicate 32 0, meter := 0, gx := gx, gy := gy, w := 1, h := 1
    atolls := [n], graphs := [], brken := false, imported := false, saved := false, pcount := 0, rung := 0, reason := 0, since := now
    unfit := none, tried := none, members := [], meters := [], kept := [], gone := [], fault := (0, []) }

/-- The state with an instruction of `nbits` bits `w` stored where the next step fetches: the strand of the atoll in focus runs in
a launch of its own, and its fetch is the step at the head of the agenda. -/
def State.withFetchWord (s : State) (nbits w : Nat) : State :=
  let n := s.a.n
  let c := s.coords n
  let r := wordsRow (bundleOf (BitVec.ofNat 64 (w % 2 ^ min nbits 64)))
  { s with a := { s.a with slot := 1, st := s.a.st.placed r s.now }
           fe := { s.fe with launches := placedLaunch c.1 c.2 n s.now :: s.fe.launches }
           agenda := ⟨s.now, 5, s.seq, n, .core, .bundleFetch, .none⟩ :: s.agenda }

end Sys2Proof.Machine
end

