-- ==== Sys2Proof/Laws/Decode.lean ====
section
/-! SUPPORT. A word is read back as the fields it was made of, form by form (R30, R47 to R52). -/

set_option linter.unusedSimpArgs false

namespace Sys2Proof

theorem pack_lt : ∀ l : List Fld, pack l < 2 ^ fldWidth (l.map (·.1))
  | [] => by simp [pack, fldWidth]
  | (w, v) :: r => by
    have h := pack_lt r
    have hv : v % 2 ^ w < 2 ^ w := Nat.mod_lt _ (by positivity)
    simp only [pack, List.map_cons, fldWidth, pow_add]
    nlinarith [Nat.mul_le_mul_right (2 ^ fldWidth (r.map (·.1))) (Nat.succ_le_of_lt hv)]

theorem unpack_add : ∀ (l : List Nat) (x y : Nat), unpack l (x + 2 ^ fldWidth l * y) = unpack l x
  | [], _, _ => rfl
  | w :: r, x, y => by
    simp only [unpack, fldWidth]
    have e : x + 2 ^ (w + fldWidth r) * y = x + 2 ^ fldWidth r * (2 ^ w * y) := by ring
    rw [e, unpack_add r]
    congr 1
    rw [Nat.add_mul_div_left _ _ (by positivity), Nat.add_mul_mod_self_left]

theorem unpack_pack : ∀ l : List Fld, unpack (l.map (·.1)) (pack l) = l.map fun f => f.2 % 2 ^ f.1
  | [] => rfl
  | (w, v) :: r => by
    have h := pack_lt r
    simp only [pack, List.map_cons, unpack]
    have e : v % 2 ^ w * 2 ^ fldWidth (r.map (·.1)) + pack r = pack r + 2 ^ fldWidth (r.map (·.1)) * (v % 2 ^ w) := by ring
    rw [e, unpack_add, unpack_pack r, Nat.add_mul_div_left _ _ (by positivity), Nat.div_eq_of_lt h]
    simp

theorem stampOf_stampFld (x : Option (BitVec 10)) : stampOf ((stampFld x).2 % 2 ^ 11) = some x := by
  cases x with
  | none => rfl
  | some t =>
    have h := t.isLt
    have e : (stampFld (some t)).2 % 2 ^ 11 = 1024 + t.toNat := Nat.mod_eq_of_lt (by simp only [stampFld]; omega)
    rw [e]
    unfold stampOf
    rw [if_neg (by omega), if_pos (by omega)]
    congr 2
    apply BitVec.eq_of_toNat_eq
    rw [BitVec.toNat_ofNat, Nat.add_mod_left, Nat.mod_eq_of_lt h]

@[simp] theorem stampFld_fst (x : Option (BitVec 10)) : (stampFld x).1 = 11 := by cases x <;> rfl

theorem sysOf_num (r : SysReg) : sysOf (r.num % 2 ^ 12) = some r := by cases r <;> rfl

theorem boolFld_beq (b : Bool) : (b.toNat % 2 ^ 1 == 1) = b := by cases b <;> rfl

theorem ofNat_toNat_mod {w : Nat} (x : BitVec w) : BitVec.ofNat w (x.toNat % 2 ^ w) = x := by
  rw [Nat.mod_eq_of_lt x.isLt, BitVec.ofNat_toNat, BitVec.setWidth_eq]

theorem getR3_flds (o : R3) : getR3 (unpack widR3 (pack (fldsR3 o))) = some o := by
  have h := unpack_pack (fldsR3 o)
  simp only [fldsR3, List.map_cons, List.map_nil, bvFld] at h ⊢
  unfold widR3
  rw [h]
  simp only [getR3, Nat.zero_mod, and_self, if_true, ofNat_toNat_mod]

theorem getR2_flds (o : R2) : getR2 (unpack widR2 (pack (fldsR2 o))) = some o := by
  have h := unpack_pack (fldsR2 o)
  simp only [fldsR2, List.map_cons, List.map_nil, bvFld] at h ⊢
  unfold widR2
  rw [h]
  simp only [getR2, Nat.zero_mod, and_self, if_true, ofNat_toNat_mod]

theorem getRsel_flds (o : RSel) : getRsel (unpack widRsel (pack (fldsRsel o))) = some o := by
  have h := unpack_pack (fldsRsel o)
  simp only [fldsRsel, List.map_cons, List.map_nil, bvFld] at h ⊢
  unfold widRsel
  rw [h]
  simp only [getRsel, Nat.zero_mod, and_self, if_true, ofNat_toNat_mod]

theorem getRcmp_flds (o : RCmp) : getRcmp (unpack widRcmp (pack (fldsRcmp o))) = some o := by
  have h := unpack_pack (fldsRcmp o)
  simp only [fldsRcmp, List.map_cons, List.map_nil, bvFld] at h ⊢
  unfold widRcmp
  rw [h]
  simp only [getRcmp, Nat.zero_mod, and_self, if_true, ofNat_toNat_mod]

theorem getP3_flds (o : P3) : getP3 (unpack widP3 (pack (fldsP3 o))) = some o := by
  have h := unpack_pack (fldsP3 o)
  simp only [fldsP3, List.map_cons, List.map_nil, bvFld] at h ⊢
  unfold widP3
  rw [h]
  simp only [getP3, Nat.zero_mod, and_self, if_true, ofNat_toNat_mod]

theorem getP2_flds (o : P2) : getP2 (unpack widP2 (pack (fldsP2 o))) = some o := by
  have h := unpack_pack (fldsP2 o)
  simp only [fldsP2, List.map_cons, List.map_nil, bvFld] at h ⊢
  unfold widP2
  rw [h]
  simp only [getP2, Nat.zero_mod, and_self, if_true, ofNat_toNat_mod]

theorem getI3_flds (o : I3) : getI3 (unpack widI3 (pack (fldsI3 o))) = some o := by
  have h := unpack_pack (fldsI3 o)
  simp only [fldsI3, List.map_cons, List.map_nil, bvFld] at h ⊢
  unfold widI3
  rw [h]
  simp only [getI3, Nat.zero_mod, and_self, if_true, ofNat_toNat_mod]

theorem getIsh_flds (o : ISh) : getIsh (unpack widIsh (pack (fldsIsh o))) = some o := by
  have h := unpack_pack (fldsIsh o)
  simp only [fldsIsh, List.map_cons, List.map_nil, bvFld] at h ⊢
  unfold widIsh
  rw [h]
  simp only [getIsh, Nat.zero_mod, and_self, if_true, ofNat_toNat_mod]

theorem getIli_flds (o : ILi) : getIli (unpack widIli (pack (fldsIli o))) = some o := by
  have h := unpack_pack (fldsIli o)
  simp only [fldsIli, List.map_cons, List.map_nil, bvFld] at h ⊢
  unfold widIli
  rw [h]
  simp only [getIli, Nat.zero_mod, and_self, if_true, ofNat_toNat_mod]

theorem getBr_flds (o : BrOp) : getBr (unpack widBr (pack (fldsBr o))) = some o := by
  have h := unpack_pack (fldsBr o)
  simp only [fldsBr, List.map_cons, List.map_nil, bvFld, boolFld] at h ⊢
  unfold widBr
  rw [h]
  simp only [getBr, Nat.zero_mod, and_self, if_true, ofNat_toNat_mod, boolFld_beq]

theorem getJ_flds (o : JOp) : getJ (unpack widJ (pack (fldsJ o))) = some o := by
  have h := unpack_pack (fldsJ o)
  simp only [fldsJ, List.map_cons, List.map_nil, bvFld] at h ⊢
  unfold widJ
  rw [h]
  simp only [getJ, Nat.zero_mod, and_self, if_true, ofNat_toNat_mod]

theorem getCall_flds (o : CallOp) : getCall (unpack widCall (pack (fldsCall o))) = some o := by
  have h := unpack_pack (fldsCall o)
  simp only [fldsCall, List.map_cons, List.map_nil, bvFld] at h ⊢
  unfold widCall
  rw [h]
  simp only [getCall, Nat.zero_mod, and_self, if_true, ofNat_toNat_mod]

theorem getRet_flds (o : RetOp) : getRet (unpack widRet (pack (fldsRet o))) = some o := by
  have h := unpack_pack (fldsRet o)
  simp only [fldsRet, List.map_cons, List.map_nil, bvFld] at h ⊢
  unfold widRet
  rw [h]
  simp only [getRet, Nat.zero_mod, and_self, if_true, ofNat_toNat_mod]

theorem getSyi_flds (o : SyImm) : getSyi (unpack widSyi (pack (fldsSyi o))) = some o := by
  have h := unpack_pack (fldsSyi o)
  simp only [fldsSyi, List.map_cons, List.map_nil, bvFld] at h ⊢
  unfold widSyi
  rw [h]
  simp only [getSyi, Nat.zero_mod, and_self, if_true, ofNat_toNat_mod]

theorem getMfsr_flds (o : MfsrOp) : getMfsr (unpack widMfsr (pack (fldsMfsr o))) = some o := by
  have h := unpack_pack (fldsMfsr o)
  simp only [fldsMfsr, List.map_cons, List.map_nil, bvFld] at h ⊢
  unfold widMfsr
  rw [h]
  simp only [getMfsr, Nat.zero_mod, and_self, if_true, ofNat_toNat_mod, sysOf_num, Option.bind_some]

theorem getMtsr_flds (o : MtsrOp) : getMtsr (unpack widMtsr (pack (fldsMtsr o))) = some o := by
  have h := unpack_pack (fldsMtsr o)
  simp only [fldsMtsr, List.map_cons, List.map_nil, bvFld] at h ⊢
  unfold widMtsr
  rw [h]
  simp only [getMtsr, Nat.zero_mod, and_self, if_true, ofNat_toNat_mod, sysOf_num, Option.bind_some]

theorem getIin1_flds (o : SyA) : getIin1 (unpack widIin1 (pack (fldsIin1 o))) = some o := by
  have h := unpack_pack (fldsIin1 o)
  simp only [fldsIin1, List.map_cons, List.map_nil, bvFld] at h ⊢
  unfold widIin1
  rw [h]
  simp only [getIin1, Nat.zero_mod, and_self, if_true, ofNat_toNat_mod]
  rfl

theorem getIin2_flds (o : SyA) : getIin2 (unpack widIin2 (pack (fldsIin2 o))) = some o := by
  have h := unpack_pack (fldsIin2 o)
  simp only [fldsIin2, List.map_cons, List.map_nil, bvFld] at h ⊢
  unfold widIin2
  rw [h]
  simp only [getIin2, Nat.zero_mod, and_self, if_true, ofNat_toNat_mod]
  rfl

theorem getSyd_flds (o : SyD) : getSyd (unpack widSyd (pack (fldsSyd o))) = some o := by
  have h := unpack_pack (fldsSyd o)
  simp only [fldsSyd, List.map_cons, List.map_nil, bvFld] at h ⊢
  unfold widSyd
  rw [h]
  simp only [getSyd, Nat.zero_mod, and_self, if_true, ofNat_toNat_mod]

theorem getMld_flds (o : MLd) : getMld (unpack widMld (pack (fldsMld o))) = some o := by
  have h := unpack_pack (fldsMld o)
  simp only [fldsMld, List.map_cons, List.map_nil, bvFld] at h ⊢
  unfold widMld
  rw [h]
  simp only [getMld, Nat.zero_mod, and_self, if_true, ofNat_toNat_mod]

theorem getMst_flds (o : MSt) : getMst (unpack widMst (pack (fldsMst o))) = some o := by
  have h := unpack_pack (fldsMst o)
  simp only [fldsMst, List.map_cons, List.map_nil, bvFld] at h ⊢
  unfold widMst
  rw [h]
  simp only [getMst, Nat.zero_mod, and_self, if_true, ofNat_toNat_mod]

theorem getGld_flds (o : GLdOp) : getGld (unpack widGld (pack (fldsGld o))) = some o := by
  have h := unpack_pack (fldsGld o)
  simp only [fldsGld, List.map_cons, List.map_nil, bvFld] at h ⊢
  unfold widGld
  rw [h]
  simp only [getGld, Nat.zero_mod, and_self, if_true, ofNat_toNat_mod]

theorem getGst_flds (o : GStOp) : getGst (unpack widGst (pack (fldsGst o))) = some o := by
  have h := unpack_pack (fldsGst o)
  simp only [fldsGst, List.map_cons, List.map_nil, bvFld] at h ⊢
  unfold widGst
  rw [h]
  simp only [getGst, Nat.zero_mod, and_self, if_true, ofNat_toNat_mod]

theorem getXlat_flds (o : XlatOp) : getXlat (unpack widXlat (pack (fldsXlat o))) = some o := by
  have h := unpack_pack (fldsXlat o)
  simp only [fldsXlat, List.map_cons, List.map_nil, bvFld] at h ⊢
  unfold widXlat
  rw [h]
  simp only [getXlat, Nat.zero_mod, and_self, if_true, ofNat_toNat_mod]

theorem getHinv_flds (o : HinvOp) : getHinv (unpack widHinv (pack (fldsHinv o))) = some o := by
  have h := unpack_pack (fldsHinv o)
  simp only [fldsHinv, List.map_cons, List.map_nil, bvFld] at h ⊢
  unfold widHinv
  rw [h]
  simp only [getHinv, Nat.zero_mod, and_self, if_true, ofNat_toNat_mod]

theorem getFence_flds (o : FenceOp) : getFence (unpack widFence (pack (fldsFence o))) = some o := by
  have h := unpack_pack (fldsFence o)
  simp only [fldsFence, List.map_cons, List.map_nil, bvFld] at h ⊢
  unfold widFence
  rw [h]
  simp only [getFence, Nat.zero_mod, and_self, if_true, ofNat_toNat_mod]

theorem getMad_flds (o : MAd) : getMad (unpack widMad (pack (fldsMad o))) = some o := by
  have h := unpack_pack (fldsMad o)
  simp only [fldsMad, List.map_cons, List.map_nil, bvFld] at h ⊢
  unfold widMad
  rw [h]
  simp only [getMad, Nat.zero_mod, and_self, if_true, ofNat_toNat_mod]

theorem getMtest_flds (o : MTest) : getMtest (unpack widMtest (pack (fldsMtest o))) = some o := by
  have h := unpack_pack (fldsMtest o)
  simp only [fldsMtest, List.map_cons, List.map_nil, bvFld] at h ⊢
  unfold widMtest
  rw [h]
  simp only [getMtest, Nat.zero_mod, and_self, if_true, ofNat_toNat_mod]

theorem getMawait_flds (o : MAwait) : getMawait (unpack widMawait (pack (fldsMawait o))) = some o := by
  have h := unpack_pack (fldsMawait o)
  simp only [fldsMawait, List.map_cons, List.map_nil, bvFld] at h ⊢
  unfold widMawait
  rw [h]
  simp only [getMawait, Nat.zero_mod, and_self, if_true, ofNat_toNat_mod]

theorem getAmo_flds (o : Amo) : getAmo (unpack widAmo (pack (fldsAmo o))) = some o := by
  have h := unpack_pack (fldsAmo o)
  simp only [fldsAmo, List.map_cons, List.map_nil, bvFld, boolFld] at h ⊢
  unfold widAmo
  rw [h]
  simp only [getAmo, Nat.zero_mod, and_self, if_true, ofNat_toNat_mod, boolFld_beq]

theorem getPfx_flds (o : PfxOp) : getPfx (unpack widPfx (pack (fldsPfx o))) = some o := by
  have h := unpack_pack (fldsPfx o)
  simp only [fldsPfx, List.map_cons, List.map_nil, bvFld, boolFld] at h ⊢
  unfold widPfx
  rw [h]
  simp only [getPfx, Nat.zero_mod, and_self, if_true, ofNat_toNat_mod, boolFld_beq]

theorem getV3_flds (o : V3) : getV3 (unpack widV3 (pack (fldsV3 o))) = some o := by
  have h := unpack_pack (fldsV3 o)
  simp only [fldsV3, List.map_cons, List.map_nil, bvFld] at h ⊢
  unfold widV3
  rw [h]
  simp only [getV3, ofNat_toNat_mod]

theorem getV2_flds (o : V2) : getV2 (unpack widV2 (pack (fldsV2 o))) = some o := by
  have h := unpack_pack (fldsV2 o)
  simp only [fldsV2, List.map_cons, List.map_nil, bvFld] at h ⊢
  unfold widV2
  rw [h]
  simp only [getV2, Nat.zero_mod, and_self, if_true, ofNat_toNat_mod]

theorem getVsw_flds (o : VSw) : getVsw (unpack widVsw (pack (fldsVsw o))) = some o := by
  have h := unpack_pack (fldsVsw o)
  simp only [fldsVsw, List.map_cons, List.map_nil, bvFld] at h ⊢
  unfold widVsw
  rw [h]
  simp only [getVsw, Nat.zero_mod, and_self, if_true, ofNat_toNat_mod]

theorem getVcsw_flds (o : VCSw) : getVcsw (unpack widVcsw (pack (fldsVcsw o))) = some o := by
  have h := unpack_pack (fldsVcsw o)
  simp only [fldsVcsw, List.map_cons, List.map_nil, bvFld] at h ⊢
  unfold widVcsw
  rw [h]
  simp only [getVcsw, Nat.zero_mod, and_self, if_true, ofNat_toNat_mod]

theorem getV3m_flds (o : V3M) : getV3m (unpack widV3m (pack (fldsV3m o))) = some o := by
  have h := unpack_pack (fldsV3m o)
  simp only [fldsV3m, List.map_cons, List.map_nil, bvFld] at h ⊢
  unfold widV3m
  rw [h]
  simp only [getV3m, Nat.zero_mod, and_self, if_true, ofNat_toNat_mod]

theorem getVsel_flds (o : VMOp) : getVsel (unpack widVsel (pack (fldsVsel o))) = some o := by
  have h := unpack_pack (fldsVsel o)
  simp only [fldsVsel, List.map_cons, List.map_nil, bvFld] at h ⊢
  unfold widVsel
  rw [h]
  simp only [getVsel, Nat.zero_mod, and_self, if_true, ofNat_toNat_mod]

theorem getVasz_flds (o : VA) : getVasz (unpack widVasz (pack (fldsVasz o))) = some o := by
  have h := unpack_pack (fldsVasz o)
  simp only [fldsVasz, List.map_cons, List.map_nil, bvFld] at h ⊢
  unfold widVasz
  rw [h]
  simp only [getVasz, Nat.zero_mod, and_self, if_true, ofNat_toNat_mod]

theorem getVzm_flds (o : VZm) : getVzm (unpack widVzm (pack (fldsVzm o))) = some o := by
  have h := unpack_pack (fldsVzm o)
  simp only [fldsVzm, List.map_cons, List.map_nil, bvFld] at h ⊢
  unfold widVzm
  rw [h]
  simp only [getVzm, Nat.zero_mod, and_self, if_true, ofNat_toNat_mod]

theorem getV4_flds (o : V4) : getV4 (unpack widV4 (pack (fldsV4 o))) = some o := by
  have h := unpack_pack (fldsV4 o)
  simp only [fldsV4, List.map_cons, List.map_nil, bvFld] at h ⊢
  unfold widV4
  rw [h]
  simp only [getV4, Nat.zero_mod, and_self, if_true, ofNat_toNat_mod]

theorem getVfc_flds (o : VFc) : getVfc (unpack widVfc (pack (fldsVfc o))) = some o := by
  have h := unpack_pack (fldsVfc o)
  simp only [fldsVfc, List.map_cons, List.map_nil, bvFld] at h ⊢
  unfold widVfc
  rw [h]
  simp only [getVfc, Nat.zero_mod, and_self, if_true, ofNat_toNat_mod]

theorem getVc_flds (o : VC) : getVc (unpack widVc (pack (fldsVc o))) = some o := by
  have h := unpack_pack (fldsVc o)
  simp only [fldsVc, List.map_cons, List.map_nil, bvFld] at h ⊢
  unfold widVc
  rw [h]
  simp only [getVc, ofNat_toNat_mod]

theorem getVld_flds (o : VLd) : getVld (unpack widVld (pack (fldsVld o))) = some o := by
  have h := unpack_pack (fldsVld o)
  simp only [fldsVld, List.map_cons, List.map_nil, bvFld] at h ⊢
  unfold widVld
  rw [h]
  simp only [getVld, Nat.zero_mod, and_self, if_true, ofNat_toNat_mod]

theorem getVst_flds (o : VSt) : getVst (unpack widVst (pack (fldsVst o))) = some o := by
  have h := unpack_pack (fldsVst o)
  simp only [fldsVst, List.map_cons, List.map_nil, bvFld] at h ⊢
  unfold widVst
  rw [h]
  simp only [getVst, Nat.zero_mod, and_self, if_true, ofNat_toNat_mod]

theorem getVr_flds (o : VR) : getVr (unpack widVr (pack (fldsVr o))) = some o := by
  have h := unpack_pack (fldsVr o)
  simp only [fldsVr, List.map_cons, List.map_nil, bvFld] at h ⊢
  unfold widVr
  rw [h]
  simp only [getVr, Nat.zero_mod, and_self, if_true, ofNat_toNat_mod]

theorem getVbc_flds (o : VBc) : getVbc (unpack widVbc (pack (fldsVbc o))) = some o := by
  have h := unpack_pack (fldsVbc o)
  simp only [fldsVbc, List.map_cons, List.map_nil, bvFld] at h ⊢
  unfold widVbc
  rw [h]
  simp only [getVbc, Nat.zero_mod, and_self, if_true, ofNat_toNat_mod]

theorem getVext_flds (o : VExt) : getVext (unpack widVext (pack (fldsVext o))) = some o := by
  have h := unpack_pack (fldsVext o)
  simp only [fldsVext, List.map_cons, List.map_nil, bvFld] at h ⊢
  unfold widVext
  rw [h]
  simp only [getVext, Nat.zero_mod, and_self, if_true, ofNat_toNat_mod]

theorem getVins_flds (o : VIns) : getVins (unpack widVins (pack (fldsVins o))) = some o := by
  have h := unpack_pack (fldsVins o)
  simp only [fldsVins, List.map_cons, List.map_nil, bvFld] at h ⊢
  unfold widVins
  rw [h]
  simp only [getVins, Nat.zero_mod, and_self, if_true, ofNat_toNat_mod]

theorem getHpush_flds (o : VA) : getHpush (unpack widHpush (pack (fldsHpush o))) = some o := by
  have h := unpack_pack (fldsHpush o)
  simp only [fldsHpush, List.map_cons, List.map_nil, bvFld] at h ⊢
  unfold widHpush
  rw [h]
  simp only [getHpush, Nat.zero_mod, and_self, if_true, ofNat_toNat_mod]

theorem getHpop_flds (o : VA) : getHpop (unpack widHpop (pack (fldsHpop o))) = some o := by
  have h := unpack_pack (fldsHpop o)
  simp only [fldsHpop, List.map_cons, List.map_nil, bvFld] at h ⊢
  unfold widHpop
  rw [h]
  simp only [getHpop, Nat.zero_mod, and_self, if_true, ofNat_toNat_mod]

theorem getVk_flds (o : VK) : getVk (unpack widVk (pack (fldsVk o))) = some o := by
  have h := unpack_pack (fldsVk o)
  simp only [fldsVk, List.map_cons, List.map_nil, bvFld] at h ⊢
  unfold widVk
  rw [h]
  simp only [getVk, Nat.zero_mod, and_self, if_true, ofNat_toNat_mod]

theorem getVk2_flds (o : VK2) : getVk2 (unpack widVk2 (pack (fldsVk2 o))) = some o := by
  have h := unpack_pack (fldsVk2 o)
  simp only [fldsVk2, List.map_cons, List.map_nil, bvFld] at h ⊢
  unfold widVk2
  rw [h]
  simp only [getVk2, Nat.zero_mod, and_self, if_true, ofNat_toNat_mod]

theorem getMrset_flds (o : MRing2) : getMrset (unpack widMrset (pack (fldsMrset o))) = some o := by
  have h := unpack_pack (fldsMrset o)
  simp only [fldsMrset, List.map_cons, List.map_nil, bvFld] at h ⊢
  unfold widMrset
  rw [h]
  simp only [getMrset, Nat.zero_mod, and_self, if_true, ofNat_toNat_mod]

theorem getMrread_flds (o : MRing1) : getMrread (unpack widMrread (pack (fldsMrread o))) = some o := by
  have h := unpack_pack (fldsMrread o)
  simp only [fldsMrread, List.map_cons, List.map_nil, bvFld] at h ⊢
  unfold widMrread
  rw [h]
  simp only [getMrread, Nat.zero_mod, and_self, if_true, ofNat_toNat_mod]
  rfl

theorem getMrload_flds (o : MRing1) : getMrload (unpack widMrload (pack (fldsMrload o))) = some o := by
  have h := unpack_pack (fldsMrload o)
  simp only [fldsMrload, List.map_cons, List.map_nil, bvFld] at h ⊢
  unfold widMrload
  rw [h]
  simp only [getMrload, Nat.zero_mod, and_self, if_true, ofNat_toNat_mod]
  rfl

theorem getMtail_flds (o : MRing1) : getMtail (unpack widMtail (pack (fldsMtail o))) = some o := by
  have h := unpack_pack (fldsMtail o)
  simp only [fldsMtail, List.map_cons, List.map_nil, bvFld] at h ⊢
  unfold widMtail
  rw [h]
  simp only [getMtail, Nat.zero_mod, and_self, if_true, ofNat_toNat_mod]

theorem getFmtq_flds (o : FmtqOp) : getFmtq (unpack widFmtq (pack (fldsFmtq o))) = some o := by
  have h := unpack_pack (fldsFmtq o)
  simp only [fldsFmtq, List.map_cons, List.map_nil, bvFld] at h ⊢
  unfold widFmtq
  rw [h]
  simp only [getFmtq, Nat.zero_mod, and_self, if_true, ofNat_toNat_mod]

theorem getMwld_flds (o : MwldOp) : getMwld (unpack widMwld (pack (fldsMwld o))) = some o := by
  have h := unpack_pack (fldsMwld o)
  simp only [fldsMwld, List.map_cons, List.map_nil, bvFld, stampFld_fst] at h ⊢
  unfold widMwld
  rw [h]
  simp only [getMwld, Nat.zero_mod, and_self, if_true, ofNat_toNat_mod, stampOf_stampFld, Option.bind_some]

theorem getProd_flds (o : ProdOp) : getProd (unpack widProd (pack (fldsProd o))) = some o := by
  have h := unpack_pack (fldsProd o)
  simp only [fldsProd, List.map_cons, List.map_nil, bvFld, stampFld_fst] at h ⊢
  unfold widProd
  rw [h]
  simp only [getProd, Nat.zero_mod, and_self, if_true, ofNat_toNat_mod, stampOf_stampFld, Option.bind_some]

theorem getStp_flds (o : StOp) : getStp (unpack widStp (pack (fldsStp o))) = some o := by
  have h := unpack_pack (fldsStp o)
  simp only [fldsStp, List.map_cons, List.map_nil, stampFld_fst] at h ⊢
  unfold widStp
  rw [h]
  simp only [getStp, Nat.zero_mod, and_self, if_true, stampOf_stampFld, Option.bind_some]

theorem getRtqr_flds (o : RtqrOp) : getRtqr (unpack widRtqr (pack (fldsRtqr o))) = some o := by
  have h := unpack_pack (fldsRtqr o)
  simp only [fldsRtqr, List.map_cons, List.map_nil, bvFld, stampFld_fst] at h ⊢
  unfold widRtqr
  rw [h]
  simp only [getRtqr, Nat.zero_mod, and_self, if_true, ofNat_toNat_mod, stampOf_stampFld, Option.bind_some]

theorem getRtapl_flds (o : RtaplOp) : getRtapl (unpack widRtapl (pack (fldsRtapl o))) = some o := by
  have h := unpack_pack (fldsRtapl o)
  simp only [fldsRtapl, List.map_cons, List.map_nil, bvFld, stampFld_fst] at h ⊢
  unfold widRtapl
  rw [h]
  simp only [getRtapl, Nat.zero_mod, and_self, if_true, ofNat_toNat_mod, stampOf_stampFld, Option.bind_some]

theorem getRtinvq_flds (o : RtinvQOp) : getRtinvq (unpack widRtinvq (pack (fldsRtinvq o))) = some o := by
  have h := unpack_pack (fldsRtinvq o)
  simp only [fldsRtinvq, List.map_cons, List.map_nil, bvFld, stampFld_fst] at h ⊢
  unfold widRtinvq
  rw [h]
  simp only [getRtinvq, Nat.zero_mod, and_self, if_true, ofNat_toNat_mod, stampOf_stampFld, Option.bind_some]

theorem getRtinva_flds (o : RtaplOp) : getRtinva (unpack widRtinva (pack (fldsRtinva o))) = some o := by
  have h := unpack_pack (fldsRtinva o)
  simp only [fldsRtinva, List.map_cons, List.map_nil, bvFld, stampFld_fst] at h ⊢
  unfold widRtinva
  rw [h]
  simp only [getRtinva, Nat.zero_mod, and_self, if_true, ofNat_toNat_mod, stampOf_stampFld, Option.bind_some]
  rfl

theorem getRtsolve_flds (o : RtsolveOp) : getRtsolve (unpack widRtsolve (pack (fldsRtsolve o))) = some o := by
  have h := unpack_pack (fldsRtsolve o)
  simp only [fldsRtsolve, List.map_cons, List.map_nil, bvFld, stampFld_fst] at h ⊢
  unfold widRtsolve
  rw [h]
  simp only [getRtsolve, Nat.zero_mod, and_self, if_true, ofNat_toNat_mod, stampOf_stampFld, Option.bind_some]

theorem getRtrw_flds (o : RtrwOp) : getRtrw (unpack widRtrw (pack (fldsRtrw o))) = some o := by
  have h := unpack_pack (fldsRtrw o)
  simp only [fldsRtrw, List.map_cons, List.map_nil, bvFld, stampFld_fst] at h ⊢
  unfold widRtrw
  rw [h]
  simp only [getRtrw, Nat.zero_mod, and_self, if_true, ofNat_toNat_mod, stampOf_stampFld, Option.bind_some]

theorem getRtgs_flds (o : RtgainOp) : getRtgs (unpack widRtgs (pack (fldsRtgs o))) = some o := by
  have h := unpack_pack (fldsRtgs o)
  simp only [fldsRtgs, List.map_cons, List.map_nil, bvFld] at h ⊢
  unfold widRtgs
  rw [h]
  simp only [getRtgs, Nat.zero_mod, and_self, if_true, ofNat_toNat_mod]

theorem getRtgr_flds (o : FmtqOp) : getRtgr (unpack widRtgr (pack (fldsRtgr o))) = some o := by
  have h := unpack_pack (fldsRtgr o)
  simp only [fldsRtgr, List.map_cons, List.map_nil, bvFld] at h ⊢
  unfold widRtgr
  rw [h]
  simp only [getRtgr, Nat.zero_mod, and_self, if_true, ofNat_toNat_mod]
  rfl

theorem getC_flds (o : COp) : getC (unpack widC (pack (fldsC o))) = some o := by
  have h := unpack_pack (fldsC o)
  simp only [fldsC, List.map_cons, List.map_nil, bvFld] at h ⊢
  unfold widC
  rw [h]
  simp only [getC, Nat.zero_mod, and_self, if_true, ofNat_toNat_mod]

theorem getCcp_flds (o : CcOp) : getCcp (unpack widCcp (pack (fldsCcp o))) = some o := by
  have h := unpack_pack (fldsCcp o)
  simp only [fldsCcp, List.map_cons, List.map_nil, bvFld] at h ⊢
  unfold widCcp
  rw [h]
  simp only [getCcp, Nat.zero_mod, and_self, if_true, ofNat_toNat_mod]

theorem getCcu_flds (o : CcOp) : getCcu (unpack widCcu (pack (fldsCcu o))) = some o := by
  have h := unpack_pack (fldsCcu o)
  simp only [fldsCcu, List.map_cons, List.map_nil, bvFld] at h ⊢
  unfold widCcu
  rw [h]
  simp only [getCcu, Nat.zero_mod, and_self, if_true, ofNat_toNat_mod]
  rfl

theorem getCg_flds (o : CgOp) : getCg (unpack widCg (pack (fldsCg o))) = some o := by
  have h := unpack_pack (fldsCg o)
  simp only [fldsCg, List.map_cons, List.map_nil, bvFld] at h ⊢
  unfold widCg
  rw [h]
  simp only [getCg, Nat.zero_mod, and_self, if_true, ofNat_toNat_mod]

theorem getCs_flds (o : CsOp) : getCs (unpack widCs (pack (fldsCs o))) = some o := by
  have h := unpack_pack (fldsCs o)
  simp only [fldsCs, List.map_cons, List.map_nil, bvFld, boolFld] at h ⊢
  unfold widCs
  rw [h]
  simp only [getCs, Nat.zero_mod, and_self, if_true, ofNat_toNat_mod, boolFld_beq]

theorem getCz_flds (o : CzOp) : getCz (unpack widCz (pack (fldsCz o))) = some o := by
  have h := unpack_pack (fldsCz o)
  simp only [fldsCz, List.map_cons, List.map_nil, bvFld] at h ⊢
  unfold widCz
  rw [h]
  simp only [getCz, Nat.zero_mod, and_self, if_true, ofNat_toNat_mod]

theorem getCv_flds (o : CvOp) : getCv (unpack widCv (pack (fldsCv o))) = some o := by
  have h := unpack_pack (fldsCv o)
  simp only [fldsCv, List.map_cons, List.map_nil, bvFld] at h ⊢
  unfold widCv
  rw [h]
  simp only [getCv, Nat.zero_mod, and_self, if_true, ofNat_toNat_mod]

theorem getPp_flds (o : PpOp) : getPp (unpack widPp (pack (fldsPp o))) = some o := by
  have h := unpack_pack (fldsPp o)
  simp only [fldsPp, List.map_cons, List.map_nil, bvFld, boolFld] at h ⊢
  unfold widPp
  rw [h]
  simp only [getPp, Nat.zero_mod, and_self, if_true, ofNat_toNat_mod, boolFld_beq]

theorem getLsend_flds (o : LsendOp) : getLsend (unpack widLsend (pack (fldsLsend o))) = some o := by
  have h := unpack_pack (fldsLsend o)
  simp only [fldsLsend, List.map_cons, List.map_nil, bvFld] at h ⊢
  unfold widLsend
  rw [h]
  simp only [getLsend, Nat.zero_mod, and_self, if_true, ofNat_toNat_mod]

theorem getLrecv_flds (o : LrecvOp) : getLrecv (unpack widLrecv (pack (fldsLrecv o))) = some o := by
  have h := unpack_pack (fldsLrecv o)
  simp only [fldsLrecv, List.map_cons, List.map_nil, bvFld, boolFld] at h ⊢
  unfold widLrecv
  rw [h]
  simp only [getLrecv, Nat.zero_mod, and_self, if_true, ofNat_toNat_mod, boolFld_beq]

theorem getLradd_flds (o : LraddOp) : getLradd (unpack widLradd (pack (fldsLradd o))) = some o := by
  have h := unpack_pack (fldsLradd o)
  simp only [fldsLradd, List.map_cons, List.map_nil, bvFld, boolFld] at h ⊢
  unfold widLradd
  rw [h]
  simp only [getLradd, Nat.zero_mod, and_self, if_true, ofNat_toNat_mod, boolFld_beq]

theorem getLtile_flds (o : LTile) : getLtile (unpack widLtile (pack (fldsLtile o))) = some o := by
  have h := unpack_pack (fldsLtile o)
  simp only [fldsLtile, List.map_cons, List.map_nil, bvFld] at h ⊢
  unfold widLtile
  rw [h]
  simp only [getLtile, Nat.zero_mod, and_self, if_true, ofNat_toNat_mod]

theorem getLprec_flds (o : LprecOp) : getLprec (unpack widLprec (pack (fldsLprec o))) = some o := by
  have h := unpack_pack (fldsLprec o)
  simp only [fldsLprec, List.map_cons, List.map_nil, bvFld] at h ⊢
  unfold widLprec
  rw [h]
  simp only [getLprec, Nat.zero_mod, and_self, if_true, ofNat_toNat_mod]

theorem getLwprec_flds (o : LwprecOp) : getLwprec (unpack widLwprec (pack (fldsLwprec o))) = some o := by
  have h := unpack_pack (fldsLwprec o)
  simp only [fldsLwprec, List.map_cons, List.map_nil, bvFld] at h ⊢
  unfold widLwprec
  rw [h]
  simp only [getLwprec, Nat.zero_mod, and_self, if_true, ofNat_toNat_mod]

theorem getNmc_flds (o : NmcOp) : getNmc (unpack widNmc (pack (fldsNmc o))) = some o := by
  have h := unpack_pack (fldsNmc o)
  simp only [fldsNmc, List.map_cons, List.map_nil, bvFld] at h ⊢
  unfold widNmc
  rw [h]
  simp only [getNmc, Nat.zero_mod, and_self, if_true, ofNat_toNat_mod]

theorem getEng_flds (o : EngOp) : getEng (unpack widEng (pack (fldsEng o))) = some o := by
  have h := unpack_pack (fldsEng o)
  simp only [fldsEng, List.map_cons, List.map_nil, bvFld] at h ⊢
  unfold widEng
  rw [h]
  simp only [getEng, Nat.zero_mod, and_self, if_true, ofNat_toNat_mod]

theorem getClk_flds (o : ClkOp) : getClk (unpack widClk (pack (fldsClk o))) = some o := by
  have h := unpack_pack (fldsClk o)
  simp only [fldsClk, List.map_cons, List.map_nil, bvFld] at h ⊢
  unfold widClk
  rw [h]
  simp only [getClk, Nat.zero_mod, and_self, if_true, ofNat_toNat_mod]

theorem getRdmu_flds (o : RdmOp) : getRdmu (unpack widRdmu (pack (fldsRdmu o))) = some o := by
  have h := unpack_pack (fldsRdmu o)
  simp only [fldsRdmu, List.map_cons, List.map_nil, bvFld, boolFld] at h ⊢
  unfold widRdmu
  rw [h]
  simp only [getRdmu, Nat.zero_mod, and_self, if_true, ofNat_toNat_mod, boolFld_beq]

theorem getRdmb_flds (o : RdmOp) : getRdmb (unpack widRdmb (pack (fldsRdmb o))) = some o := by
  have h := unpack_pack (fldsRdmb o)
  simp only [fldsRdmb, List.map_cons, List.map_nil, bvFld, boolFld] at h ⊢
  unfold widRdmb
  rw [h]
  simp only [getRdmb, Nat.zero_mod, and_self, if_true, ofNat_toNat_mod, boolFld_beq]
  rfl

theorem getDsync_flds (o : DsyncOp) : getDsync (unpack widDsync (pack (fldsDsync o))) = some o := by
  have h := unpack_pack (fldsDsync o)
  simp only [fldsDsync, List.map_cons, List.map_nil, bvFld] at h ⊢
  unfold widDsync
  rw [h]
  simp only [getDsync, Nat.zero_mod, and_self, if_true, ofNat_toNat_mod]

theorem getXsend_flds (o : XsendOp) : getXsend (unpack widXsend (pack (fldsXsend o))) = some o := by
  have h := unpack_pack (fldsXsend o)
  simp only [fldsXsend, List.map_cons, List.map_nil, bvFld] at h ⊢
  unfold widXsend
  rw [h]
  simp only [getXsend, Nat.zero_mod, and_self, if_true, ofNat_toNat_mod]

theorem getXrecv_flds (o : XrecvOp) : getXrecv (unpack widXrecv (pack (fldsXrecv o))) = some o := by
  have h := unpack_pack (fldsXrecv o)
  simp only [fldsXrecv, List.map_cons, List.map_nil, bvFld] at h ⊢
  unfold widXrecv
  rw [h]
  simp only [getXrecv, Nat.zero_mod, and_self, if_true, ofNat_toNat_mod]

end Sys2Proof
end

