-- ==== Sys2Proof/Laws/Fields.lean ====
section
/-! SUPPORT. Bits of a word after a field is replaced, and a field as bits (R5, R120). -/

namespace Sys2Proof.Machine

/-- A bit of a word with a field replaced is the field's inside it, and the old one outside. -/
theorem setBits_getLsbD {w : Nat} (x : BitVec w) (lo n v j : Nat) (hj : j < w) :
    (setBits x lo n v).getLsbD j = if lo ≤ j ∧ j < lo + n then v.testBit (j - lo) else x.getLsbD j := by
  have e : x.toNat % 2 ^ lo + v % 2 ^ n * 2 ^ lo + x.toNat / 2 ^ (lo + n) * 2 ^ (lo + n) =
      2 ^ lo * (2 ^ n * (x.toNat / 2 ^ (lo + n)) + v % 2 ^ n) + x.toNat % 2 ^ lo := by rw [pow_add]; ring
  rw [setBits, BitVec.getLsbD_ofNat, decide_eq_true hj, Bool.true_and, e,
    Nat.testBit_two_pow_mul_add _ (Nat.mod_lt _ (Nat.two_pow_pos _)),
    Nat.testBit_two_pow_mul_add _ (Nat.mod_lt _ (Nat.two_pow_pos _))]
  rw [Nat.testBit_mod_two_pow, Nat.testBit_mod_two_pow, Nat.testBit_div_two_pow]
  by_cases h1 : j < lo
  · rw [if_pos h1, if_neg (by omega), decide_eq_true h1, Bool.true_and, BitVec.getLsbD]
  · rw [if_neg h1]
    by_cases h2 : j - lo < n
    · rw [if_pos h2, if_pos (by omega), decide_eq_true h2, Bool.true_and]
    · rw [if_neg h2, if_neg (by omega), BitVec.getLsbD]
      congr 1
      omega

/-- A bit of a field of a word. -/
theorem fld_testBit {w : Nat} (x : BitVec w) (lo n j : Nat) : (fld x lo n).testBit j = (decide (j < n) && x.getLsbD (lo + j)) := by
  rw [fld, Nat.testBit_mod_two_pow, Nat.testBit_div_two_pow, BitVec.getLsbD, Nat.add_comm j lo]

end Sys2Proof.Machine
end

