-- ==== Sys2Proof/Safety.lean ====
section
/-! DEFINITION. What a safe run is: it never stops, every memory keeps the one form in which it is written down, and
the package keeps its atolls (R12; log 2, 4, 8). -/

namespace Sys2Proof.Machine

/-- The memories of an atoll are in canonical form: scratchpad, vector registers, weights, exponents, rotator cells and
precision counters. -/
def Atoll.Canon (a : Atoll) : Prop :=
  Memory.wf a.sp = true ∧ SMap.wf a.v = true ∧ SMap.wf a.weights = true ∧ SMap.wf a.exps = true ∧ SMap.wf a.cells = true ∧
    SMap.wf a.ctr = true

/-- Every atoll of a list has canonical memories. -/
def AllCanon (l : List Atoll) : Prop := ∀ a ∈ l, a.Canon

/-- The memories of the device side are in canonical form. -/
def Dev.Canon (d : Dev) : Prop := Memory.wf d.mem = true ∧ SMap.wf d.acc = true ∧ SMap.wf d.temps = true

/-- The atolls of a package are numbered 0 to 159, each once (R12). -/
def Numbered (n : Nat) (l : List Nat) : Prop := (n :: l).Perm (List.range 160)

/-- What every step keeps: canonical memories, and each atoll of the package once. -/
def State.Inv (s : State) : Prop :=
  Memory.wf s.host = true ∧ s.dev.Canon ∧ SMap.wf s.fe.evlog = true ∧ s.a.Canon ∧ AllCanon s.others ∧
    Numbered s.a.n (s.others.map Atoll.n)

/-- A state that a run of any number of steps comes to. -/
inductive Reaches : State → State → Prop where
  | refl (s : State) : Reaches s s
  | step {s t u : State} (h : Reaches s t) (e : step t = .next u) : Reaches s u

/-- A safe state: the next step is taken, and leaves a state in which the invariant holds. -/
def State.Safe (s : State) : Prop := ∃ t, step s = .next t ∧ t.Inv

/-! ## The terms of the claims -/

/-- The state with something for the step in hand to act on: a step of the agenda acts on what stands beside it (log 2). -/
def State.given (s : State) (x : Arg) : State := { s with ev := { s.ev with arg := x } }

/-- `t` is `s` with the step `e` on the agenda, behind every step that stands before it, and nothing else changed (log 2). -/
def Due (e : Ev) (s t : State) : Prop :=
  ∃ l r, s.agenda = l ++ r ∧ (∀ y ∈ l, y.before e = true) ∧ (∀ z, r.head? = some z → z.before e = false) ∧
    t = { s with agenda := l ++ e :: r }

/-- Instruction `i` in state `s` answers `u` with the one further step `e` on the agenda. -/
def Issues (i : Instr) (s u : State) (e : Ev) : Prop := ∃ t, exec i s = .next t ∧ Due e u t

/-- Instruction `i` answers the state it found, with the value `v` to land in `d` at core cycle t+l (R110, R113). -/
def Gives (i : Instr) (s : State) (l : Nat) (d : Dst) (v : Word) : Prop :=
  Issues i s s ⟨s.a.edge 0 s.now + l * s.a.div.core, 2, s.ev.seq, s.a.n, .core, .scalarResultLand, .land d v⟩

/-- Instruction `i` answers `u` with the step `j` to come for atoll `k` after a nominal time (R2, log 1). -/
def Sends (i : Instr) (s u : State) (k : Nat) (j : Instr) (x : Arg) : Prop :=
  Issues i s { u with free := u.free + 1 } ⟨u.now + Config.nominal u.free, 6, u.ev.seq, k, .none, j, x⟩

/-- The ticks that a flit takes at least from atoll j to atoll k of a package: 4 for each mesh hop, and 20 more over the bridge between
columns 9 and 10 (R13). -/
def meshTicks (j k : Nat) : Nat :=
  4 * (max (j / 8) (k / 8) - min (j / 8) (k / 8) + (max (j % 8) (k % 8) - min (j % 8) (k % 8))) +
    (if decide (j / 8 ≤ 9) = decide (k / 8 ≤ 9) then 0 else 20)

/-- Instruction `i` answers `u` with a message of CC on its way by XB: the step `j` is to come for atoll k once the message has gone two hops to
XB, data on a lane of the ring, and crossed the mesh, a nominal time later (R2, R13, R153, log 1). -/
def Travels (i : Instr) (s u : State) (data : Bool) (k : Nat) (j : Instr) (x : Arg) : Prop :=
  ∃ m l z, s.a.edge 4 s.now + 2 * s.a.div.ring + meshTicks s.a.n k ≤ s.now + m ∧ (data = false → z = []) ∧
    Issues i s { u with free := u.free + 1, links := u.links ++ l, a := { u.a with ures := u.a.ures ++ z } }
      ⟨u.now + m + Config.nominal u.free, 6, u.ev.seq, k, .none, j, x⟩

/-- The bundle of the strand waits for `w`, behind what it waits for already, and issues nothing more (R36). -/
def State.stalled (s : State) (w : Wait) : State :=
  { s with a := { s.a with st := if s.a.st.wait = .none then { s.a.st with wait := w, more := [] }
                                 else { s.a.st with more := s.a.st.more ++ [w] } }
           agenda := s.agenda.filter fun e => !(e.i == .bundleFetch && e.atoll == s.a.n && e.arg == .none) }

/-- Instruction `i` answers the trap of R136 with this cause and TRINFO, at the address of its own bundle (R135). -/
def Raises (i : Instr) (s : State) (cause info : Nat) : Prop :=
  exec i s = .next (s.takeTrap cause info s.a.st.bpc s.a.st.rgn.isSome)

/-- The row that the puts of a whole register carry: XOR into d for the R-class form, over d for the E-class form (R218). -/
def wholeXor (d : VReg) (x : Row) : List VPut := [.xor d.toNat x]
def wholeOver (d : VReg) (x : Row) : List VPut := [.ovr d.toNat (BitVec.allOnes 1024) x]

/-- What a vector operation does at the tick at which it reads its registers: the writes `p` land after latency `lat` at its ramp,
with its bit-steps charged then (R81, R86, R214, R215, R219). -/
def VxPuts (i : Instr) (s u : State) (ramp : BitVec 2) (lat steps : Nat) (p : List VPut) (flag : Option Nat) : Prop :=
  Issues i s u ⟨u.now + 2 ^ ramp.toNat * lat * u.a.div.vx, 2, u.ev.seq, u.a.n, .vx, .vectorResultLand,
    .puts p (steps * (2048 / 2 ^ ramp.toNat)) flag⟩

/-- The engine is taken for `occ` vector cycles at the ramp from the first vector edge (R214). -/
def State.vxTaken (s : State) (ramp : BitVec 2) (occ : Nat) : State :=
  { s with a := { s.a with vbusy := s.a.edge 1 s.now + occ * 2 ^ ramp.toNat * s.a.div.vx } }

/-- A vector operation of latency `lat`, occupancy `occ` and `steps` bit-steps, whose writes `p c` are those that the registers of the state in
hand give with the scalar source `c`.  On a vector edge it puts them, with the scalar as it stands; off one it starts at the next
edge with that scalar, and puts them when that start is in hand (R214, R215). -/
def VxTakes (i : Instr) (s : State) (ramp : BitVec 2) (lat occ steps : Nat) (cap : Word) (p : Word → List VPut) (flag : Option Nat) : Prop :=
  (s.a.edge 1 s.now = s.now →
    VxPuts i (s.given .none) ((s.given .none).vxTaken ramp occ) ramp lat steps (p cap) flag) ∧
  (s.a.edge 1 s.now ≠ s.now →
    Issues i (s.given .none) ((s.given .none).vxTaken ramp occ)
      ⟨s.a.edge 1 s.now, 4, s.ev.seq, s.a.n, .vx, i, .restart cap s.now⟩) ∧
  ∀ c k, VxPuts i (s.given (.restart c k)) (s.given (.restart c k)) ramp lat steps (p c) flag

/-- A vector operation without a scalar source. -/
def VxDoes (i : Instr) (s : State) (ramp : BitVec 2) (lat occ steps : Nat) (p : List VPut) (flag : Option Nat) : Prop :=
  VxTakes i s ramp lat occ steps 0 (fun _ => p) flag

/-- The R-class form `i` XORs into d, and the E-class form `e` writes over d, the row whose element j of `n` bits is `f j`
modulo 2^n (R218, R222). -/
def Elementwise (i e : Instr) (s : State) (d : VReg) (ramp : BitVec 2) (lat occ steps n : Nat) (f : Nat → Nat) : Prop :=
  ∃ x : Row, (∀ j < 1024 / n, elem n x j = f j % 2 ^ n) ∧
    VxDoes i s ramp lat occ steps (wholeXor d x) none ∧ VxDoes e s ramp lat occ steps (wholeOver d x) none

/-- The R-class form XORs into the mask d, and the E-class form writes over it, the mask whose bit j is `f j` for j < n and 0 above
(R218, R224). -/
def Maskwise (i e : Instr) (s : State) (d : MReg) (ramp : BitVec 2) (lat steps n : Nat) (f : Nat → Bool) : Prop :=
  ∃ x : BitVec 128, (∀ j < 128, x.getLsbD j = (decide (j < n) && f j)) ∧
    VxDoes i s ramp lat 1 steps [.mxor d x] none ∧ VxDoes e s ramp lat 1 steps [.movr d x] none

/-- `t` is `u` with the strand's next bundle the one at address `pc`, due in core cycle t+k and at no other time (R110, R117). -/
def NextAt (u t : State) (pc k : Nat) : Prop :=
  Due ⟨u.a.edge 0 u.now + k * u.a.div.core, 5, u.ev.seq, u.a.n, .core, .bundleFetch, .none⟩
    { u with a := { u.a with st := { u.a.st with pc := pc, ready := u.a.edge 0 u.now + k * u.a.div.core } }
             agenda := u.agenda.filter fun e => !(e.i == .bundleFetch && e.atoll == u.a.n && e.arg == .none) } t

/-- The strand of atoll `n` has an issue due at tick `k`, and at no other. -/
def OnlyFetch (t : State) (n k : Nat) : Prop :=
  (∃ e ∈ t.agenda, e.i = .bundleFetch ∧ e.atoll = n ∧ e.arg = .none ∧ e.tick = k) ∧
    ∀ e ∈ t.agenda, e.i = .bundleFetch → e.atoll = n → e.arg = .none → e.tick = k

/-- No issue of the strand of atoll `n` is due. -/
def NoFetch (t : State) (n : Nat) : Prop := ∀ e ∈ t.agenda, ¬(e.i = .bundleFetch ∧ e.atoll = n ∧ e.arg = .none)

/-- What no trap changes: registers, predicates, handles, the scratchpad and the engines' registers of the atoll, every other
atoll, device memory and host memory. -/
def Untouched (s t : State) : Prop :=
  t.a.st.regs = s.a.st.regs ∧ t.a.st.preds = s.a.st.preds ∧ t.a.st.hs = s.a.st.hs ∧ t.a.sp = s.a.sp ∧ t.a.v = s.a.v ∧
    t.a.masks = s.a.masks ∧ t.a.weights = s.a.weights ∧ t.a.rings = s.a.rings ∧ t.a.cells = s.a.cells ∧ t.a.rtm = s.a.rtm ∧
    t.a.cq = s.a.cq ∧ t.a.lq = s.a.lq ∧ t.others = s.others ∧ t.dev = s.dev ∧ t.host = s.host ∧ t.out = s.out ∧ t.now = s.now

/-- A scratchpad address of the issuing atoll: the byte lies in its 6 MiB and no other bit but PH is set (R149, R150). -/
def LocalAddr (ea : Word) : Prop := ea &&& 0x7FFFFFFFFF800000 = 0 ∧ ea.toNat % 2 ^ 23 < 6291456

/-- A scratchpad address of an atoll of the launch's rectangle, named by its coordinates (R149, R150). -/
def RemoteAddr (s : State) (ea : Word) : Prop :=
  ea &&& 0x7C00007FFF800000 = 0 ∧ ea.toNat % 2 ^ 23 < 6291456 ∧ ea.getLsbD 39 = true ∧
    s.inRect (ea.extractLsb' 48 10).toNat (ea.extractLsb' 40 8).toNat = true

/-- The hops between CC and the station of a row, and between XB and it (R15 to R17, R153, R157). -/
def hopsCC (row : Nat) : Nat := min ((2 * (row % 8) + 3) % 16) ((29 - 2 * (row % 8)) % 16)
def hopsXB (row : Nat) : Nat := min ((2 * (row % 8) + 1) % 16) ((31 - 2 * (row % 8)) % 16)

/-- Instruction `i` leaves `u`, with a local access of CC due at its station: its lanes and ports are taken from the first ring edge T on,
and it performs at T + h ring cycles, later by the delay that lanes already taken cause, which is none when nothing is taken
(R152 to R158). -/
def AtStation (i : Instr) (s u : State) (wr out back : Bool) (byte : Nat) (op : AccOp) (d : Dst) (chg : Nat) : Prop :=
  ∃ k, (s.a.res = [] → k = 0) ∧
    Issues i s (u.reserve (s.ccReq (byte / 128) wr out back) k)
      ⟨s.a.edge 4 s.now + (hopsCC (byte / 128) + k) * s.a.div.ring, if wr then 1 else 0, s.ev.seq, s.a.n, .ring,
        .scalarStationAccess, .acc ⟨op, byte, d, chg, s.cls 0, s.a.n, s.scope⟩⟩

/-- The hops between VX and the station of a row (R243). -/
def hopsVX (row : Nat) : Nat := [3, 1, 1, 3, 5, 7, 7, 5].getD (row % 8) 0

/-- Instruction `i` leaves an access of VX to a row due at its station: the engine is taken for an occupancy of 1, the lanes and ports `req` are
taken, k ring cycles later than asked for, which is none when nothing is taken (R155, R214, R243). -/
def VxRow (i : Instr) (s : State) (ramp : BitVec 2) (req : List (Nat × Nat)) (tick phase : Nat) (j : Instr) (x : Nat → Arg) : Prop :=
  ∃ k, (s.a.res = [] → k = 0) ∧ Issues i s ((s.reserve req k).vxTaken ramp 1)
    ⟨tick + k * s.a.div.ring, phase, s.ev.seq, s.a.n, .vx, j, x k⟩

/-- A command with stamp `st` starts at tick `S` on clock k (2 mx, 3 rt), and may: a stamp lies in an open region, its cycle has not passed,
and the engine is free by then, from tick `free` on (R50, R262, R263, R288). -/
def Punctual (s : State) (k free : Nat) (st : Option (BitVec 10)) (S : Nat) : Prop :=
  match st with
  | none => S = s.a.edge k s.now
  | some c => s.a.st.rgn.isSome ∧ s.regionCycle ≤ c.toNat ∧
      S = s.a.edge k (s.a.edge 0 s.now + (c.toNat - s.regionCycle) * s.a.div.core) ∧ free ≤ S

/-- The steps of a command of unit `dom` and number `id` that starts at S are on the agenda, each of `l` at its offset in cycles of divisor
`div`, at its place in the tick and for its part, later by the delay of lane collisions, which is none when nothing is taken; every other step of
the agenda stands as it did (R264, R266, R289, R290). -/
def Scheduled (s t : State) (dom : Dom) (div S id : Nat) (l : List (Nat × Nat × Instr × Nat)) : Prop :=
  (∀ x ∈ l, ∃ d, (s.a.res = [] → d = 0) ∧
    (⟨S + (x.1 + d) * div, x.2.1, s.ev.seq, s.a.n, dom, x.2.2.1, .n3 id 0 x.2.2.2⟩ : Ev) ∈ t.agenda) ∧
  (∀ e ∈ s.agenda, e ∈ t.agenda) ∧
  ∀ e ∈ t.agenda, e ∈ s.agenda ∨ e.seq = s.ev.seq ∧ e.atoll = s.a.n ∧ e.dom = dom ∧ ∃ x ∈ l, e.i = x.2.2.1 ∧ e.arg = .n3 id 0 x.2.2.2

/-- Instruction `i` starts a command of the matrix array at S: the command, of which `p` holds, joins those in flight, occupies the array for
`occ` cycles, and for the delay of lane collisions, which is none when nothing is taken, and has its first steps, and its retirement, on the
agenda; the words of FQ and the weight shape become `fq` and `shape`, and nothing else changes (R252, R264 to R266). -/
def MxStarts (i : Instr) (s : State) (S occ : Nat) (l : List (Nat × Nat × Instr × Nat)) (fq : List (Option Nat × Word)) (shape : Option Word)
    (p : MJob → Prop) : Prop :=
  ∃ t j d, exec i s = .next t ∧ p j ∧ (s.a.res = [] → d = 0) ∧
    j.id = s.ev.seq ∧ j.start = S ∧ j.acts = [] ∧ j.accs = [] ∧ j.outs = [] ∧ j.flag = none ∧ Scheduled s t .mx s.a.div.mx S j.id l ∧
    t = { s with agenda := t.agenda
                 a := { s.a with mjobs := s.a.mjobs ++ [j], mbusy := S + (occ + d) * s.a.div.mx, res := t.a.res, fq := fq, shape := shape } }

/-- Instruction `i` starts a command of the rotator array at S: the command, of which `p` holds, joins those in flight and has its first steps,
and its retirement, on the agenda; a streaming command occupies the array for `occ` cycles, and for the delay of lane collisions, which is none
when nothing is taken, and nothing else changes (R280, R288 to R291). -/
def RtStarts (i : Instr) (s : State) (S : Nat) (occ : Option Nat) (l : List (Nat × Nat × Instr × Nat)) (p : RJob → Prop) : Prop :=
  ∃ t j d, exec i s = .next t ∧ p j ∧ (s.a.res = [] → d = 0) ∧
    j.id = s.ev.seq ∧ j.start = S ∧ j.got = [] ∧ j.blks = [] ∧ j.outs = [] ∧ j.flag = none ∧ Scheduled s t .rt s.a.div.rt S j.id l ∧
    t = { s with agenda := t.agenda
                 a := { s.a with rjobs := s.a.rjobs ++ [j], res := t.a.res
                                 rbusy := match occ with
                                   | some n => S + (n + d) * s.a.div.rt
                                   | none => s.a.rbusy } }


/-- Nothing changes but the front end and what is due. -/
def FrontOnly (s t : State) : Prop := t = { s with fe := t.fe, agenda := t.agenda, free := t.free }

/-- A queue that is DISABLED, or EMPTY with no slot left in its ring, takes a function that waits for it (R401). -/
def Queue.taken (x : Queue) : Queue :=
  if x.state = 9 ∨ (x.state = 0 ∧ x.head = x.tail) then { x with func := x.pend.getD x.func, pend := none } else x

/-- `t` is `u` after a completion entry of queue q with the words `w`: written at CTAIL with the lap bit, and its message sent, when the ring has
room; else held, with the queue stopped behind it (R411, R412). -/
def Entry (u t : State) (q : Nat) (w : List Word) : Prop :=
  let x := (u.fe.queue q).taken
  let at' := (x.hostBase + x.cbase.toNat + 64 * x.ctail) / 8
  t.dev = u.dev ∧ t.a = u.a ∧ t.others = u.others ∧ t.now = u.now ∧ t.fe.launches = u.fe.launches ∧ t.fe.ended = u.fe.ended ∧
    (∀ p, p ≠ q → t.fe.queue p = u.fe.queue p) ∧ (t.fe.queue q).state = x.state ∧
    (x.full = true → t.fe.queue q = { x with busy := false, heldc := some w } ∧ t.host = u.host ∧ t.out = u.out) ∧
    (x.full = false → (t.fe.queue q).ctail = (x.ctail + 1) % 2 ^ x.clog ∧ (t.fe.queue q).heldc = none ∧
      t.out = u.out ++ [⟨5, [x.func, x.vec, fld x.qcfg 62 1], none⟩] ∧
      ∀ b, Mem.word t.host b = if at' ≤ b / 8 ∧ b / 8 < at' + 8 then
          w.getD (b / 8 - at') 0 ||| (if b / 8 = at' ∧ x.lap then 0x100 else 0)
        else Mem.word u.host b)

/-- Packet `i` of queue q ends from `u`, with a status and its TAG (R406, R411). -/
def Ends (i : Instr) (s u : State) (q tag status : Nat) : Prop :=
  ∃ t, exec i s = .next t ∧
    Entry u t q [nat64 (status + q * 2 ^ 35), nat64 (tag * 2 ^ 32), (u.fe.queue q).qsw, 0, 0, 0, 0, 0]

/-- Queue q takes the command slot at its head: the packet is due after a nominal time, with its TAG and words (R405, R406). -/
def Takes (u t : State) (q : Nat) : Prop :=
  let x := u.fe.queue q
  let w := (List.range 8).map fun k => Mem.word u.host (x.hostBase + x.qbase.toNat + 64 * x.head + 8 * k)
  (t.fe.queue q).head = (x.head + 1) % 2 ^ x.qlog ∧ (t.fe.queue q).busy = true ∧
    (⟨u.now + Config.nominal u.free, 6, u.ev.seq, 0, .none, packetRow x.func w, .packet q (fld (w.getD 0 0) 32 32) w⟩ : Ev) ∈ t.agenda

/-- The queue may take a command slot: enabled, EMPTY, in no error, with no packet in hand and no entry held (R370, R405, R411). -/
def Idle (f : Fe) (x : Queue) : Prop :=
  x.en = true ∧ x.err = false ∧ x.busy = false ∧ x.heldc = none ∧ x.state = 0 ∧ f.firm.ready = true ∧ f.firm.fatal = false

/-- The launch has left with a status, and what it held of the atolls is free and empty (R385, R390, R411). -/
def Gone (x : Launch) (status : Nat) (t : State) : Prop :=
  t.fe.endOf (x.q, x.seqn) = some status ∧ (∀ y ∈ t.fe.launches, y.id ≠ x.id) ∧
    ∀ m ∈ x.atolls, ∀ b, t.atoll m = some b → b.slot = 0 ∧ b.st.run = .off ∧ b.st.regs = Strand.init.regs ∧ b.sp = []

end Sys2Proof.Machine
end

