-- ==== Sys2Proof/Laws/Agenda.lean ====
section
/-! SUPPORT. What putting a step on the agenda does, said once (log 2). -/

namespace Sys2Proof.Machine

theorem insertEv_splits (e : Ev) (g : List Ev) :
    ∃ l r, g = l ++ r ∧ (∀ y ∈ l, y.before e = true) ∧ (∀ z, r.head? = some z → z.before e = false) ∧
      insertEv e g = l ++ e :: r := by
  induction g with
  | nil => exact ⟨[], [], rfl, by simp, by simp, rfl⟩
  | cons y g ih =>
    obtain ⟨l, r, rfl, hl, hr, h⟩ := ih
    by_cases hy : y.before e = true
    · refine ⟨y :: l, r, rfl, ?_, hr, ?_⟩
      · intro z hz
        rcases List.mem_cons.mp hz with rfl | hz
        · exact hy
        · exact hl z hz
      · simp [insertEv, hy, h]
    · refine ⟨[], y :: (l ++ r), rfl, by simp, ?_, ?_⟩
      · intro z hz
        simp at hz
        subst hz
        simpa using hy
      · simp [insertEv, hy]

theorem due_insertEv (e : Ev) (s : State) : Due e s { s with agenda := insertEv e s.agenda } := by
  obtain ⟨l, r, h1, h2, h3, h4⟩ := insertEv_splits e s.agenda
  exact ⟨l, r, h1, h2, h3, by rw [h4]⟩

theorem due_sched (s : State) (t p : Nat) (d : Dom) (i : Instr) (x : Arg) :
    Due ⟨t, p, s.ev.seq, s.a.n, d, i, x⟩ s (s.sched t p d i x) := due_insertEv _ _

theorem due_schedAt (s : State) (k t p : Nat) (d : Dom) (i : Instr) (x : Arg) :
    Due ⟨t, p, s.ev.seq, k, d, i, x⟩ s (s.schedAt k t p d i x) := due_insertEv _ _

theorem due_later (s : State) (k : Nat) (i : Instr) (x : Arg) :
    Due ⟨s.now + Config.nominal s.free, 6, s.ev.seq, k, .none, i, x⟩ { s with free := s.free + 1 } (s.later k i x) :=
  due_insertEv _ { s with free := s.free + 1 }

/-- A scalar result of latency 1 is due a core cycle on. -/
theorem due_landIn_one (s : State) (d : Dst) (v : Word) :
    Due ⟨s.a.edge 0 s.now + s.a.div.core, 2, s.ev.seq, s.a.n, .core, .scalarResultLand, .land d v⟩ s (s.landIn 1 d v) := by
  have h := due_insertEv ⟨s.coreT 1, 2, s.ev.seq, s.a.n, .core, .scalarResultLand, .land d v⟩ s
  have e : s.coreT 1 = s.a.edge 0 s.now + s.a.div.core := by rw [State.coreT, Nat.one_mul]
  rw [e] at h
  have k : s.landIn 1 d v =
      { s with agenda := insertEv ⟨s.a.edge 0 s.now + s.a.div.core, 2, s.ev.seq, s.a.n, .core, .scalarResultLand, .land d v⟩ s.agenda } := by
    rw [← e]; rfl
  rw [k]; exact h

theorem mem_insertEv (e x : Ev) (g : List Ev) : x ∈ insertEv e g ↔ x = e ∨ x ∈ g := by
  obtain ⟨l, r, rfl, -, -, h⟩ := insertEv_splits e g
  rw [h]
  simp only [List.mem_append, List.mem_cons]
  tauto

theorem mem_sched (s : State) (t p : Nat) (d : Dom) (i : Instr) (x : Arg) (e : Ev) :
    e ∈ (s.sched t p d i x).agenda ↔ e = ⟨t, p, s.ev.seq, s.a.n, d, i, x⟩ ∨ e ∈ s.agenda := mem_insertEv _ _ _

theorem mem_later (s : State) (k : Nat) (i : Instr) (x : Arg) (e : Ev) :
    e ∈ (s.later k i x).agenda ↔ e = ⟨s.now + Config.nominal s.free, 6, s.ev.seq, k, .none, i, x⟩ ∨ e ∈ s.agenda :=
  mem_insertEv _ _ _

theorem mem_unsched (s : State) (f : Ev → Bool) (e : Ev) : e ∈ (s.unsched f).agenda ↔ e ∈ s.agenda ∧ f e = false := by
  simp [State.unsched, List.mem_filter]

theorem mem_noFetchOf (s : State) (k : Nat) (e : Ev) :
    e ∈ (s.noFetchOf k).agenda ↔ e ∈ s.agenda ∧ ¬(e.i = .bundleFetch ∧ e.atoll = k ∧ e.arg = .none) := by
  rw [State.noFetchOf, mem_unsched]
  simp only [Bool.and_eq_false_iff, beq_eq_false_iff_ne]
  tauto

theorem mem_fetchAt (s : State) (k : Nat) (e : Ev) :
    e ∈ (s.fetchAt k).agenda ↔
      e = ⟨k, 5, s.ev.seq, s.a.n, .core, .bundleFetch, .none⟩ ∨ (e ∈ s.agenda ∧ ¬(e.i = .bundleFetch ∧ e.atoll = s.a.n ∧ e.arg = .none)) := by
  rw [State.fetchAt, mem_sched, mem_noFetchOf]
  rfl

/-- After `fetchAt` the strand issues at that tick, and at no other. -/
theorem onlyFetch_fetchAt (s : State) (k : Nat) : OnlyFetch (s.fetchAt k) s.a.n k := by
  refine ⟨⟨_, (mem_fetchAt s k _).2 (.inl rfl), rfl, rfl, rfl, rfl⟩, fun e he hi ha hx => ?_⟩
  rcases (mem_fetchAt s k e).1 he with rfl | ⟨-, h⟩
  · rfl
  · exact absurd ⟨hi, ha, hx⟩ h

/-- After `waitFor` and `noFetchOf` the strand issues nothing. -/
theorem noFetch_noFetchOf (s : State) (k : Nat) : NoFetch (s.noFetchOf k) k := fun _ he => ((mem_noFetchOf s k _).1 he).2

theorem noFetch_sched {s : State} {n : Nat} (h : NoFetch s n) (t p : Nat) (d : Dom) {i : Instr} (hi : i ≠ .bundleFetch) (x : Arg) :
    NoFetch (s.sched t p d i x) n := fun e he hh => by
  rcases (mem_sched ..).1 he with rfl | he
  · exact hi hh.1
  · exact h e he hh

theorem noFetch_later {s : State} {n : Nat} (h : NoFetch s n) (k : Nat) {i : Instr} (hi : i ≠ .bundleFetch) (x : Arg) :
    NoFetch (s.later k i x) n := fun e he hh => by
  rcases (mem_later ..).1 he with rfl | he
  · exact hi hh.1
  · exact h e he hh

/-- A meaning that is a scalar result gives it. -/
theorem gives_of {i : Instr} {s : State} {l : Nat} {d : Dst} {v : Word} (h : exec i s = .next (s.landIn l d v)) :
    Gives i s l d v := ⟨_, h, due_sched ..⟩

theorem sends_of {i : Instr} {s u : State} {k : Nat} {j : Instr} {x : Arg} (h : exec i s = .next (u.later k j x)) :
    Sends i s u k j x := ⟨_, h, due_later ..⟩

/-- A check of a jump that is allowed finds no trap (R108). -/
theorem jumpTrap_none (s : State) (T : Nat) (h : s.privileged = true ∨ T < 2 ^ 47) : s.jumpTrap T = none := by
  unfold State.jumpTrap trapIf
  rw [if_neg]
  rcases h with h | h <;> simp [h]
  intro _
  norm_num at h
  exact h

/-- A check of a jump of a user into privileged space finds T_PRIV with reason 2 (R108). -/
theorem jumpTrap_some (s : State) (T : Nat) (h : s.privileged = false) (h2 : 2 ^ 47 ≤ T) :
    s.jumpTrap T = some ⟨14, 2 + s.a.st.pos * 256⟩ := by
  unfold State.jumpTrap trapIf
  rw [if_pos]
  · rfl
  · simp only [h, Bool.not_false, Bool.true_and, decide_eq_true_eq]
    exact h2

/-- `unless` without a trap answers the effect. -/
theorem unless_none (s : State) {t : Option Trap} (h : t = none) (f : State) : s.unless t f = .next f := by
  subst h; unfold State.unless; split <;> first | rfl | simp_all

/-- `unless` with a trap, of a syllable at issue, answers the trap. -/
theorem unless_some (s : State) (c n : Nat) (f : State) (h : s.ev.arg = .none) :
    s.unless (some ⟨c, n⟩) f = .next (s.takeTrap c n s.a.st.bpc s.a.st.rgn.isSome) := by
  simp [State.unless, h, State.trapHere]

/-- A meaning whose check finds a trap raises it at issue. -/
theorem raises_of {i : Instr} {s : State} {t : Option Trap} {f : State} {c n : Nat}
    (h : exec i (s.given .none) = (s.given .none).unless t f) (ht : t = some ⟨c, n⟩) : Raises i (s.given .none) c n := by
  subst ht
  rw [Raises, h]
  exact unless_some _ _ _ _ rfl

end Sys2Proof.Machine
end

