-- ==== Sys2Proof/Laws/Vector.lean ====
section
/-! SUPPORT. Elements of rows and masks, and what a vector operation does at its start, said once (R213, R214, R218). -/

namespace Sys2Proof.Machine

theorem packEls_lt (w : Nat) (f : Nat → Nat) (n : Nat) : packEls w f n < 2 ^ (w * n) := by
  induction n with
  | zero => simp [packEls]
  | succ n ih =>
    have h : f n % 2 ^ w < 2 ^ w := Nat.mod_lt _ (Nat.two_pow_pos w)
    have : packEls w f n + f n % 2 ^ w * 2 ^ (w * n) < 2 ^ w * 2 ^ (w * n) := by
      calc packEls w f n + f n % 2 ^ w * 2 ^ (w * n) < 2 ^ (w * n) + f n % 2 ^ w * 2 ^ (w * n) := by omega
        _ = (f n % 2 ^ w + 1) * 2 ^ (w * n) := by ring
        _ ≤ 2 ^ w * 2 ^ (w * n) := Nat.mul_le_mul_right _ h
    calc packEls w f (n + 1) = packEls w f n + f n % 2 ^ w * 2 ^ (w * n) := rfl
      _ < 2 ^ w * 2 ^ (w * n) := this
      _ = 2 ^ (w * (n + 1)) := by rw [← pow_add]; congr 1; ring

theorem packEls_get (w : Nat) (f : Nat → Nat) : ∀ n j, j < n → packEls w f n / 2 ^ (w * j) % 2 ^ w = f j % 2 ^ w
  | n + 1, j, h => by
    by_cases hj : j < n
    · have e : w * n = w * j + w + w * (n - j - 1) := by
        obtain ⟨k, rfl⟩ := Nat.exists_eq_add_of_lt hj
        have : j + k + 1 - j - 1 = k := by omega
        rw [this]; ring
      have h2 : 2 ^ (w * n) = 2 ^ (w * j) * (2 ^ w * 2 ^ (w * (n - j - 1))) := by rw [e, pow_add, pow_add]; ring
      calc packEls w f (n + 1) / 2 ^ (w * j) % 2 ^ w
          = (packEls w f n + 2 ^ (w * j) * (2 ^ w * (2 ^ (w * (n - j - 1)) * (f n % 2 ^ w)))) / 2 ^ (w * j) % 2 ^ w := by
            rw [packEls, h2]; congr 2; ring
        _ = packEls w f n / 2 ^ (w * j) % 2 ^ w := by
            rw [Nat.add_mul_div_left _ _ (Nat.two_pow_pos _), Nat.add_mul_mod_self_left]
        _ = f j % 2 ^ w := packEls_get w f n j hj
    · have : j = n := by omega
      subst this
      rw [packEls, Nat.mul_comm (f j % 2 ^ w), Nat.add_mul_div_left _ _ (Nat.two_pow_pos _), Nat.div_eq_of_lt (packEls_lt w f j), zero_add,
        Nat.mod_mod]

/-- Element j of a row of elements is the element given for it. -/
theorem elem_rowOf (w : Nat) (f : Nat → Nat) (j : Nat) (h : j < 1024 / w) : elem w (rowOf w f) j = f j % 2 ^ w := by
  have hl : packEls w f (1024 / w) < 2 ^ 1024 :=
    lt_of_lt_of_le (packEls_lt w f _) (Nat.pow_le_pow_right (by norm_num) (Nat.mul_div_le 1024 w))
  have hx : (rowOf w f).toNat = packEls w f (1024 / w) := by
    rw [rowOf, rowFrom, BitVec.toNat_ofNat, Nat.mul_zero, pow_zero, Nat.mul_one, Nat.mod_eq_of_lt hl]
  rw [elem, hx, packEls_get w f _ j h]

theorem maskOf_getLsbD (n : Nat) (f : Nat → Bool) (j : Nat) (hj : j < 128) :
    (maskOf n f).getLsbD j = (decide (j < n) && f j) := by
  have hl : packEls 1 (fun j => (f j).toNat) n < 2 ^ n := by simpa using packEls_lt 1 (fun j => (f j).toNat) n
  rw [maskOf, BitVec.getLsbD_ofNat, decide_eq_true hj, Bool.true_and]
  by_cases h : j < n
  · have e := packEls_get 1 (fun j => (f j).toNat) n j h
    simp only [Nat.one_mul, pow_one] at e
    rw [Nat.testBit_eq_decide_div_mod_eq, e]
    cases f j <;> simp [h]
  · simp only [h, decide_false, Bool.false_and]
    exact Nat.testBit_lt_two_pow (lt_of_lt_of_le hl (Nat.pow_le_pow_right (by norm_num) (Nat.not_lt.mp h)))

theorem vxStartAt_now (s : State) (i : Instr) (ramp : BitVec 2) (occ : Nat) (sc : Word) (t : Nat) (eff : Word → Nat → State → State)
    (h : s.a.edge 1 s.now = s.now) :
    (s.given .none).vxStartAt i (occ * rampOf ramp) sc t eff = eff sc t ((s.given .none).vxTaken ramp occ) := by
  unfold State.vxStartAt
  exact if_pos h

theorem vxStartAt_off (s : State) (i : Instr) (ramp : BitVec 2) (occ : Nat) (sc : Word) (t : Nat) (eff : Word → Nat → State → State)
    (h : s.a.edge 1 s.now ≠ s.now) :
    (s.given .none).vxStartAt i (occ * rampOf ramp) sc t eff =
      ((s.given .none).vxTaken ramp occ).sched (s.a.edge 1 s.now) 4 .vx i (.restart sc t) := by
  unfold State.vxStartAt
  exact if_neg h

theorem vxStartAt_restart (s : State) (i : Instr) (occ : Nat) (sc c : Word) (t k : Nat) (eff : Word → Nat → State → State) :
    (s.given (.restart c k)).vxStartAt i occ sc t eff = eff c k (s.given (.restart c k)) := rfl

/-- A vector operation with a captured scalar: what its start does, on a vector edge, off one, and put off. -/
theorem vxTakes_of {i : Instr} {s : State} {ramp : BitVec 2} {lat occ steps : Nat} {cap : Word} {p : Word → List VPut} {flag : Option Nat}
    {f : Word → State → List VPut × Option Nat}
    (h : ∀ x, exec i (s.given x) = .next ((s.given x).vxStart i (occ * rampOf ramp) cap fun c _ u => u.vxLand ramp lat steps (f c u).1 (f c u).2))
    (hf : ∀ (c : Word) (u : State), u.a.v = s.a.v → u.a.masks = s.a.masks → f c u = (p c, flag)) :
    VxTakes i s ramp lat occ steps cap p flag := by
  refine ⟨fun hs => ?_, fun hs => ?_, fun c k => ?_⟩
  · refine ⟨_, h _, ?_⟩
    rw [State.vxStart, vxStartAt_now _ _ _ _ _ _ _ hs, hf _ ((s.given .none).vxTaken ramp occ) rfl rfl]
    exact due_sched ..
  · refine ⟨_, h _, ?_⟩
    rw [State.vxStart, vxStartAt_off _ _ _ _ _ _ _ hs]
    exact due_sched ..
  · refine ⟨_, h _, ?_⟩
    rw [State.vxStart, vxStartAt_restart, hf _ (s.given (.restart c k)) rfl rfl]
    exact due_sched ..

/-- A computed vector operation: what its start does, on a vector edge, off one, and put off. -/
theorem vxDoes_of {i : Instr} {s : State} {ramp : BitVec 2} {lat occ steps : Nat} {p : List VPut} {flag : Option Nat}
    {f : State → List VPut × Option Nat}
    (h : ∀ x, exec i (s.given x) = .next ((s.given x).vxOp i ramp lat occ steps f))
    (hf : ∀ u : State, u.a.v = s.a.v → u.a.masks = s.a.masks → f u = (p, flag)) : VxDoes i s ramp lat occ steps p flag :=
  vxTakes_of (f := fun _ u => f u) h fun _ u => hf u

end Sys2Proof.Machine
end

