-- ==== Sys2Proof/Certificates/Slice0/Obligations.lean ====
section
/-! DEFINITION. The statements for the provers.  A step of the whole machine acts on what stands beside it on the agenda, and
`s.given x` is s with x beside it.  The agenda, its order within a tick and the kinds of its steps are the model's (log 2); a time that the
manual calls nominal is a free value (log 1); other choices of the model are named where a statement rests on one. -/

open Sys2Proof Sys2Proof.Machine

/-! ## Scalar instructions (R105 to R116) -/

/-- R114 with the latencies of R113: what each register form gives its sd, and nothing else, whatever its data; a word with a field that its form does not
use is refused. -/
def Obligations.ScalarRegisterForms : Prop :=
  ∀ (s : State) (d a b : Reg) (c : Prd),
    let A := s.rdS a
    let B := s.rdS b
    let n := B.toNat % 64
    let overflow := A.toInt = -2 ^ 63 ∧ B.toInt = -1
    Gives (.add ⟨d, a, b⟩) s 1 (.s d) (A + B) ∧
    Gives (.sub ⟨d, a, b⟩) s 1 (.s d) (A - B) ∧
    Gives (.and ⟨d, a, b⟩) s 1 (.s d) (A &&& B) ∧
    Gives (.or ⟨d, a, b⟩) s 1 (.s d) (A ||| B) ∧
    Gives (.xor ⟨d, a, b⟩) s 1 (.s d) (A ^^^ B) ∧
    Gives (.andn ⟨d, a, b⟩) s 1 (.s d) (A &&& ~~~B) ∧
    Gives (.shl ⟨d, a, b⟩) s 1 (.s d) (A <<< n) ∧
    Gives (.shr ⟨d, a, b⟩) s 1 (.s d) (A >>> n) ∧
    Gives (.sra ⟨d, a, b⟩) s 1 (.s d) (A.sshiftRight n) ∧
    Gives (.mul ⟨d, a, b⟩) s 3 (.s d) (A * B) ∧
    Gives (.mulh ⟨d, a, b⟩) s 3 (.s d) (BitVec.ofInt 64 (A.toInt * B.toInt / 2 ^ 64)) ∧
    Gives (.mulhu ⟨d, a, b⟩) s 3 (.s d) (BitVec.ofNat 64 (A.toNat * B.toNat / 2 ^ 64)) ∧
    (B = 0 → Gives (.div ⟨d, a, b⟩) s 20 (.s d) (BitVec.allOnes 64) ∧ Gives (.rem ⟨d, a, b⟩) s 20 (.s d) A ∧
      Gives (.divu ⟨d, a, b⟩) s 20 (.s d) (BitVec.allOnes 64)) ∧
    (overflow → Gives (.div ⟨d, a, b⟩) s 20 (.s d) (BitVec.intMin 64) ∧ Gives (.rem ⟨d, a, b⟩) s 20 (.s d) 0) ∧
    (B ≠ 0 → ¬overflow → Gives (.div ⟨d, a, b⟩) s 20 (.s d) (BitVec.ofInt 64 (A.toInt.tdiv B.toInt)) ∧
      Gives (.rem ⟨d, a, b⟩) s 20 (.s d) (BitVec.ofInt 64 (A.toInt - B.toInt * A.toInt.tdiv B.toInt))) ∧
    (B ≠ 0 → Gives (.divu ⟨d, a, b⟩) s 20 (.s d) (A / B)) ∧
    Gives (.min ⟨d, a, b⟩) s 1 (.s d) (if A.toInt < B.toInt then A else B) ∧
    Gives (.max ⟨d, a, b⟩) s 1 (.s d) (if A.toInt < B.toInt then B else A) ∧
    Gives (.minu ⟨d, a, b⟩) s 1 (.s d) (if A < B then A else B) ∧
    Gives (.maxu ⟨d, a, b⟩) s 1 (.s d) (if A < B then B else A) ∧
    (∃ k, (A = 0 → k = 64) ∧ (A ≠ 0 → k < 64 ∧ A.getLsbD (63 - k) = true) ∧ (∀ j, 63 < j + k → A.getLsbD j = false) ∧
      Gives (.clz ⟨d, a⟩) s 1 (.s d) (BitVec.ofNat 64 k)) ∧
    Gives (.popc ⟨d, a⟩) s 1 (.s d) (BitVec.ofNat 64 ((List.range 64).filter fun j => A.getLsbD j).length) ∧
    Gives (.sel ⟨d, c, a, b⟩) s 1 (.s d) (if s.rdP c then A else B) ∧
    ∀ w : Word, sylClass w = 0 →
      (1 ≤ sylOpcode w → sylOpcode w ≤ 0x13 → w.extractLsb' 4 29 ≠ 0 → decode w = .error .reservedField) ∧
      (sylOpcode w = 0x14 ∨ sylOpcode w = 0x15 → w.extractLsb' 4 35 ≠ 0 → decode w = .error .reservedField) ∧
      (sylOpcode w = 0x16 → w.extractLsb' 4 23 ≠ 0 ∨ w.extractLsb' 31 2 ≠ 0 → decode w = .error .reservedField)

/-- R115 with the latency of R113: what each immediate form gives its sd, and nothing else. -/
def Obligations.ScalarImmediateForms : Prop :=
  ∀ (s : State) (d a : Reg) (imm : BitVec 32) (n : BitVec 6),
    let A := s.rdS a
    let X := imm.signExtend 64
    Gives (.addi ⟨d, a, imm⟩) s 1 (.s d) (A + X) ∧
    Gives (.andi ⟨d, a, imm⟩) s 1 (.s d) (A &&& X) ∧
    Gives (.ori ⟨d, a, imm⟩) s 1 (.s d) (A ||| X) ∧
    Gives (.xori ⟨d, a, imm⟩) s 1 (.s d) (A ^^^ X) ∧
    Gives (.shli ⟨d, a, n⟩) s 1 (.s d) (A <<< n.toNat) ∧
    Gives (.shri ⟨d, a, n⟩) s 1 (.s d) (A >>> n.toNat) ∧
    Gives (.srai ⟨d, a, n⟩) s 1 (.s d) (A.sshiftRight n.toNat) ∧
    Gives (.li ⟨d, imm⟩) s 1 (.s d) X ∧
    Gives (.lih ⟨d, imm⟩) s 1 (.s d) (imm ++ (s.rdS d).extractLsb' 0 32)

/-- R116 with the latency of R113: the condition that each compare and predicate form gives its pd, and nothing else; a predicate field with bits [5:4]
not zero, and a field b of pnot, are refused; and the eight syllables whose words the rule gives. -/
def Obligations.ComparesAndPredicates : Prop :=
  ∀ (s : State) (p : Prd) (a b : Reg) (q r : Prd),
    let A := s.rdS a
    let B := s.rdS b
    let bit := fun (x : Bool) => (BitVec.ofBool x).setWidth 64
    Gives (.cmpeq ⟨p, a, b⟩) s 1 (.p p) (bit (decide (A = B))) ∧
    Gives (.cmpne ⟨p, a, b⟩) s 1 (.p p) (bit (decide (A ≠ B))) ∧
    Gives (.cmplt ⟨p, a, b⟩) s 1 (.p p) (bit (A.slt B)) ∧
    Gives (.cmpltu ⟨p, a, b⟩) s 1 (.p p) (bit (A.ult B)) ∧
    Gives (.cmple ⟨p, a, b⟩) s 1 (.p p) (bit (A.sle B)) ∧
    Gives (.cmpleu ⟨p, a, b⟩) s 1 (.p p) (bit (A.ule B)) ∧
    Gives (.pand ⟨p, q, r⟩) s 1 (.p p) (bit (s.rdP q && s.rdP r)) ∧
    Gives (.por ⟨p, q, r⟩) s 1 (.p p) (bit (s.rdP q || s.rdP r)) ∧
    Gives (.pnot ⟨p, q⟩) s 1 (.p p) (bit (!s.rdP q)) ∧
    (∀ w : Word, sylClass w = 0 →
      (sylOpcode w ∈ [0x20, 0x21, 0x22, 0x23, 0x24, 0x25] → w.extractLsb' 49 2 ≠ 0 → decode w = .error .reservedField) ∧
      (sylOpcode w ∈ [0x28, 0x29] → w.extractLsb' 49 2 ≠ 0 ∨ w.extractLsb' 43 2 ≠ 0 ∨ w.extractLsb' 37 2 ≠ 0 → decode w = .error .reservedField) ∧
      (sylOpcode w = 0x2A → w.extractLsb' 49 2 ≠ 0 ∨ w.extractLsb' 43 2 ≠ 0 ∨ w.extractLsb' 33 6 ≠ 0 → decode w = .error .reservedField)) ∧
    decode 0x8110620A00000000#64 = .ok ⟨0, .cmplt ⟨3, 4, 5⟩⟩ ∧ decode 0x8808410000000080#64 = .ok ⟨0, .addi ⟨2, 2, 1⟩⟩ ∧
    decode 0x9820030380000000#64 = .ok ⟨0, .mtsr ⟨.lc, 6⟩⟩ ∧ decode 0x9808000000014000#64 = .ok ⟨0, .rgn ⟨40⟩⟩ ∧
    decode 0x9810000000000000#64 = .ok ⟨0, .rgnend⟩ ∧ decode 0x9828000000004800#64 = .ok ⟨0, .trap ⟨9⟩⟩ ∧
    decode 0x9830000000000000#64 = .ok ⟨0, .rti⟩ ∧ decode 0x9838000000000000#64 = .ok ⟨0, .halt⟩

/-- R105, R112: a result that lands in a scalar register, a predicate or a handle changes that one, s0 and p0 excepted, and nothing else. R120: what a
write of a system register leaves to be read, field by field, in a core cycle in which no charge fell; the other system registers, and everything
outside the system registers, are as before. R120: a charge of c aJ that fell in the cycle of a write of x to ENMETER leaves x − c, and never less
than −2^95 (R90). -/
def Obligations.RegistersTakeWhatLands : Prop :=
  (∀ (s : State) (v : Word) (r q : Reg) (p c : Prd) (h g : HReg),
    (s.rdS 0 = 0 ∧ s.rdP 0 = true) ∧
    (∃ t, exec .scalarResultLand (s.given (.land (.s r) v)) = .next t ∧
      t.rdS q = (if q = r ∧ r ≠ 0 then v else s.rdS q) ∧
      t = { s.given (.land (.s r) v) with a := { s.a with st := { s.a.st with regs := t.a.st.regs } } }) ∧
    (∃ t, exec .scalarResultLand (s.given (.land (.p p) v)) = .next t ∧
      t.rdP c = (if c = p ∧ p ≠ 0 then v.getLsbD 0 else s.rdP c) ∧
      t = { s.given (.land (.p p) v) with a := { s.a with st := { s.a.st with preds := t.a.st.preds } } }) ∧
    ∃ t, exec .scalarResultLand (s.given (.land (.h h) v)) = .next t ∧
      t.rdH g = (if g = h then v else s.rdH g) ∧
      t = { s.given (.land (.h h) v) with a := { s.a with st := { s.a.st with hs := t.a.st.hs } } }) ∧
  (∀ (s : State) (r : SysReg) (k : Nat) (v : Word), s.a.st.lastCh.1 ≠ k → s.a.st.quota < 2 ^ 96 → k ≤ s.now →
    ∃ t, exec .scalarResultLand (s.given (.land (.sys r k) v)) = .next t ∧
      (∀ q, q ≠ r → t.sysRead q = s.sysRead q) ∧
      t.a.st.regs = s.a.st.regs ∧ t.a.st.preds = s.a.st.preds ∧ t.a.st.hs = s.a.st.hs ∧ t.a.st.pc = s.a.st.pc ∧
      t = { s.given (.land (.sys r k) v) with a := { s.a with st := t.a.st } } ∧
      match r with
      | .aclass => (t.sysRead r).extractLsb' 0 19 = v.extractLsb' 0 19 ∧ (t.sysRead r).extractLsb' 22 42 = 0 ∧
          (v.extractLsb' 19 3 ≤ 3#3 → (t.sysRead r).extractLsb' 19 3 = v.extractLsb' 19 3) ∧
          (3#3 < v.extractLsb' 19 3 → (t.sysRead r).extractLsb' 19 3 = s.a.st.aclass.extractLsb' 19 3)
      | .sbmode => t.sysRead r = v &&& 1
      | .enmeterLo => t.sysRead r = v
      | .enmeterHi => t.sysRead r = v &&& 0xFFFFFFFF
      | .enquotaLo => t.sysRead r = v
      | .enquotaHi => t.sysRead r = v &&& 0xFFFFFFFF
      | .tvec | .trpc => t.sysRead r = v &&& 0x0000FFFFFFFFFFF8
      | .qsw => t.sysRead r = v &&& 0xFFFFFFFF00000703
      | .domain => t.sysRead r = v &&& 0x003FFFFFFFFFFFFF
      | .gtc => t.sysRead r = v + BitVec.ofNat 64 (s.now - k)
      | .atc => t.sysRead r = v + 1
      | .laglvl => (t.sysRead r).extractLsb' 0 16 = s.a.st.laglvl.extractLsb' 0 16 ∧
          (t.sysRead r).extractLsb' 28 36 = s.a.st.laglvl.extractLsb' 28 36 ∧
          (t.sysRead r).extractLsb' 16 12 = if 360 ≤ (v.extractLsb' 16 12).toNat ∧ (v.extractLsb' 16 12).toNat + 10 ≤ s.railOf s.a.n
            then v.extractLsb' 16 12 else s.a.st.laglvl.extractLsb' 16 12
      | .idlemx => t.sysRead r = v &&& 0x80000000FFFFFFFF
      | .grottoBase => t.sysRead r = v &&& 0x0000FFFF0000FFFF
      | .grottoRows => t.sysRead r = v &&& 0xFFFFFFFF0000FFFF
      | .hovf => t.sysRead r = v &&& 0xFFFFFFFFFFFF0000
      | .lc | .trinfo => t.sysRead r = v
      | .trcause => (t.sysRead r).extractLsb' 0 8 = v.extractLsb' 0 8 ∧ (t.sysRead r).getLsbD 17 = v.getLsbD 17 ∧
          ∀ j, 8 ≤ j → j ≠ 17 → (t.sysRead r).getLsbD j = s.a.st.trcause.getLsbD j) ∧
  (∀ (s : State) (k c : Nat) (v : Word), s.a.st.lastCh = (k, c) →
    (∃ t, exec .scalarResultLand (s.given (.land (.sys .enmeterLo k) v)) = .next t ∧
      t.a.st.bal = max (-2 ^ 95) (((BitVec.ofInt 96 (s.a.st.bal + c)).extractLsb' 64 32 ++ v).toInt - c) ∧
      t = { s.given (.land (.sys .enmeterLo k) v) with a := { s.a with st := { s.a.st with bal := t.a.st.bal } } }) ∧
    ∃ t, exec .scalarResultLand (s.given (.land (.sys .enmeterHi k) v)) = .next t ∧
      t.a.st.bal = max (-2 ^ 95) ((v.extractLsb' 0 32 ++ (BitVec.ofInt 96 (s.a.st.bal + c)).extractLsb' 0 64).toInt - c) ∧
      t = { s.given (.land (.sys .enmeterHi k) v) with a := { s.a with st := { s.a.st with bal := t.a.st.bal } } })

/-- R120, R113, R122, R144: mfsr gives the register as it stands, at t+2; rdgtc gives GTC, at t+1; mtsr puts its source into the register from t+1 for a
privileged strand, and for a user at a register that a user may write. A write of IDLEMX makes every engine look again whether it is to gate. R120,
R122: a user's write of a privileged register, and of a privileged handler to TVEC, raises T_PRIV with its reason and the syllable's position, and
writes nothing. -/
def Obligations.SystemRegisterInstructions : Prop :=
  (∀ (s : State) (x : Arg) (d a : Reg) (r : SysReg),
    Gives (.mfsr ⟨d, r⟩) s 2 (.s d) (s.sysRead r) ∧
    Gives (.rdgtc ⟨d⟩) s 1 (.s d) (s.sysRead .gtc) ∧
    (s.privileged = true ∨ (r ∈ [SysReg.aclass, .sbmode, .tvec, .idlemx, .lc, .trpc, .trcause, .trinfo] ∧
        ¬(r = .tvec ∧ (s.rdS a).getLsbD 47 = true)) →
      if r = .idlemx then
        ∃ u, Due ⟨s.a.edge 0 s.now + s.a.div.core, 2, s.ev.seq, s.a.n, .core, .scalarResultLand,
            .land (.sys r s.now) (s.rdS a)⟩ (s.given x) u ∧
          exec (.mtsr ⟨r, a⟩) (s.given x) = .next (u.regate (u.coreT 1))
      else Gives (.mtsr ⟨r, a⟩) (s.given x) 1 (.sys r s.now) (s.rdS a))) ∧
  (∀ (s : State) (a : Reg) (r : SysReg), s.privileged = false →
    (r ∉ [SysReg.aclass, .sbmode, .tvec, .idlemx, .lc, .trpc, .trcause, .trinfo] →
      Raises (.mtsr ⟨r, a⟩) (s.given .none) 14 (1 + s.a.st.pos * 256)) ∧
    ((s.rdS a).getLsbD 47 = true → Raises (.mtsr ⟨.tvec, a⟩) (s.given .none) 14 (6 + s.a.st.pos * 256)))

/-! ## Control and traps (R107 to R109, R117 to R147) -/

/-- R117, R118, R113: where each change of flow goes and when its target issues; call writes its link, and loop LC. R108: at user level a jump that would
be made into privileged space raises T_PRIV with reason 2, and nothing else. -/
def Obligations.BranchesAndJumps : Prop :=
  (∀ (s : State) (c : Prd) (n : Bool) (a : Reg) (off : BitVec 32),
    let T := (BitVec.ofNat 48 s.a.st.bpc + 8 * off.signExtend 48).toNat
    let R := (s.rdS a).toNat % 2 ^ 48 / 8 * 8
    (s.privileged = true ∨ T < 2 ^ 47 →
      (s.rdP c ≠ n → ∃ t, exec (.br ⟨c, n, off⟩) s = .next t ∧ NextAt s t T 3) ∧
      (∃ t, exec (.jmp ⟨off⟩) s = .next t ∧ NextAt s t T 3) ∧
      (∃ u t, exec (.call ⟨a, off⟩) s = .next t ∧ NextAt u t T 3 ∧
        Due ⟨s.a.edge 0 s.now + s.a.div.core, 2, s.ev.seq, s.a.n, .core, .scalarResultLand,
          .land (.s a) (BitVec.ofNat 64 s.a.st.npc)⟩ s u) ∧
      (1 < s.a.st.lc → ∃ u t, exec (.loop ⟨off⟩) s = .next t ∧ NextAt u t T 1 ∧
        Due ⟨s.a.edge 0 s.now + s.a.div.core, 2, s.ev.seq, s.a.n, .core, .scalarResultLand,
          .land (.sys .lc s.now) (s.a.st.lc - 1)⟩ s u)) ∧
    (s.privileged = true ∨ R < 2 ^ 47 → ∃ t, exec (.ret ⟨a⟩) s = .next t ∧ NextAt s t R 3) ∧
    (s.rdP c = n → exec (.br ⟨c, n, off⟩) s = .next s) ∧
    (s.a.st.lc = 1 → Gives (.loop ⟨off⟩) s 1 (.sys .lc s.now) 0) ∧
    (s.a.st.lc = 0 → exec (.loop ⟨off⟩) s = .next s)) ∧
  (∀ (s : State) (c : Prd) (n : Bool) (a : Reg) (off : BitVec 32), s.privileged = false →
    (2 ^ 47 ≤ (BitVec.ofNat 48 s.a.st.bpc + 8 * off.signExtend 48).toNat →
      (s.rdP c ≠ n → Raises (.br ⟨c, n, off⟩) (s.given .none) 14 (2 + s.a.st.pos * 256)) ∧
      Raises (.jmp ⟨off⟩) (s.given .none) 14 (2 + s.a.st.pos * 256) ∧
      Raises (.call ⟨a, off⟩) (s.given .none) 14 (2 + s.a.st.pos * 256) ∧
      (1 < s.a.st.lc → Raises (.loop ⟨off⟩) (s.given .none) 14 (2 + s.a.st.pos * 256))) ∧
    ((s.rdS a).getLsbD 47 = true → Raises (.ret ⟨a⟩) (s.given .none) 14 (2 + s.a.st.pos * 256)))

/-- R119: idle returns at once with the wake latch set, and clears it; else the strand waits for the latch or for 65,536 core cycles, after which it goes
on a core cycle later, no earlier than in the order of issue, once nothing else that its bundle waits for is left. R187, R188: await answers 0 when
its word differs from sb, arms its own entry or the first free one and waits, and answers 1 with the table full; after 65,536 core cycles it answers 2
and the entry stays armed, and the strand goes on once nothing else that its bundle waits for is left. -/
def Obligations.WaitsEnd : Prop :=
  (∀ (s : State) (k : Nat), s.a.st.rgn = none →
    (s.a.st.wake = true → exec .idle s = .next { s with a := { s.a with st := { s.a.st with wake := false } } }) ∧
    (s.a.st.wake = false → ∃ t, exec .idle s = .next t ∧ Wait.idle (s.a.st.token + 1) ∈ t.a.st.waits ∧ NoFetch t s.a.n ∧
      Untouched s t ∧ ∃ e ∈ t.agenda, e.i = .idleTimeout ∧ e.arg = .n (s.a.st.token + 1) ∧ e.atoll = s.a.n ∧
        e.tick = s.a.edge 0 s.now + 65536 * s.a.div.core) ∧
    (∀ x r, s.a.st.wait = .idle k → s.a.st.more = x :: r → ∃ t, exec .idleTimeout (s.given (.n k)) = .next t ∧ t.a.st.wait = x ∧ t.a.st.more = r ∧
      t.a.st.wake = false ∧ t.agenda = s.agenda ∧ Untouched s t) ∧
    (s.a.st.wait = .idle k → s.a.st.more = [] → ∃ t, exec .idleTimeout (s.given (.n k)) = .next t ∧ t.a.st.wait = .none ∧ t.a.st.wake = false ∧
      OnlyFetch t s.a.n (max (s.a.edge 0 s.now + s.a.div.core) s.a.st.ready) ∧ Untouched s t)) ∧
  (∀ (s : State) (d b a : Reg) (off : BitVec 16) (k : Nat),
    let ea := s.rdS a + off.signExtend 64
    let byte := ea.toNat % 2 ^ 23 / 8 * 8
    let c := s.a.edge 0 s.now
    let u : State := { s with a := { s.a with st := { s.a.st with due := s.a.st.due ++ [(c, 65536)] } } }
    let gives := fun (v : Word) => Issues (.await ⟨d, b, a, off⟩) s u
      ⟨c + s.a.div.core, 2, s.ev.seq, s.a.n, .core, .scalarResultLand, .land (.s d) v⟩
    LocalAddr ea → s.pfxSpace < 2 → s.a.st.rgn = none →
    (Mem.word s.a.sp byte ≠ s.rdS b → gives 0) ∧
    (Mem.word s.a.sp byte = s.rdS b → (∀ m ∈ s.a.st.mons, ∃ x, m = some x ∧ x.byte ≠ byte) → gives 1) ∧
    (Mem.word s.a.sp byte = s.rdS b → none ∈ s.a.st.mons → ∃ t, exec (.await ⟨d, b, a, off⟩) s = .next t ∧
      Wait.await (s.a.st.token + 1) d byte ∈ t.a.st.waits ∧ NoFetch t s.a.n ∧ some ⟨byte, s.rdS b⟩ ∈ t.a.st.mons ∧ t.a.sp = s.a.sp ∧
      t.a.st.regs = s.a.st.regs ∧ ∃ e ∈ t.agenda, e.i = .awaitTimeout ∧ e.arg = .n (s.a.st.token + 1) ∧
        e.tick = c + 65536 * s.a.div.core) ∧
    (s.a.st.wait = .await k d byte → ∃ t, exec .awaitTimeout (s.given (.n k)) = .next t ∧
      t.a.st.mons = s.a.st.mons ∧ (s.a.st.more = [] → t.a.st.wait = .none ∧ OnlyFetch t s.a.n (max (c + s.a.div.core) s.a.st.ready)) ∧
      (∀ x r, s.a.st.more = x :: r → t.a.st.wait = x ∧ t.a.st.more = r) ∧
      ∃ e ∈ t.agenda, e.i = .scalarResultLand ∧ e.arg = .land (.s d) 2 ∧ e.tick = c + s.a.div.core))

/-- R126 to R128, R131: rgn opens a region of n core cycles in the mode of SBMODE, its overrun is due n core cycles later, and the region is looked at
before anything of its next cycle; rgnend closes it, so that nothing overruns; an overrun closes it and raises T_RGNOVER with n. R129: an instruction
that is illegal in a timed region raises T_RGNILL there with the syllable's position, and has no effect. -/
def Obligations.RegionsOpenAndClose : Prop :=
  (∀ (s : State) (n : BitVec 16),
    (s.a.st.rgn = none → ∃ u t, exec (.rgn ⟨n⟩) s = .next t ∧
      Due ⟨s.a.edge 0 s.now + n.toNat * s.a.div.core, 6, s.ev.seq, s.a.n, .core, .regionOverrun, .none⟩
        { s with a := { s.a with st := { s.a.st with rgn := some ⟨s.a.st.atc, n.toNat, s.a.st.sbmode.getLsbD 0⟩ } } } u ∧
      Due ⟨s.a.edge 0 s.now + s.a.div.core, 0, 0, s.a.n, .none, .bundleFetch, .n 1⟩ u t) ∧
    (∀ r, s.a.st.rgn = some r → ∃ t, exec .rgnend s = .next t ∧
      t.a.st = { s.a.st with rgn := none } ∧ Untouched s t ∧
      (∀ e, e.i ≠ .engineGate → (e ∈ t.agenda ↔ e ∈ s.agenda ∧ ¬((e.i = .regionOverrun ∨ e.i = .bundleFetch ∧ e.arg = .n 1) ∧ e.atoll = s.a.n)))) ∧
    (∀ r, s.a.st.rgn = some r → s.a.st.run = .run →
      exec .regionOverrun s = .next (s.takeTrap 6 r.n s.a.st.pc true)) ∧
    (s.a.st.rgn = none → Raises .rgnend (s.given .none) 1 s.a.st.pos)) ∧
  (∀ (s : State) (o : SyA) (n : BitVec 16), s.a.st.rgn.isSome = true →
    Raises (.rgn ⟨n⟩) (s.given .none) 7 s.a.st.pos ∧
    Raises .idle (s.given .none) 7 s.a.st.pos ∧
    Raises .halt (s.given .none) 7 s.a.st.pos ∧
    Raises (.brk ⟨n⟩) (s.given .none) 7 s.a.st.pos ∧
    Raises .iinvAll (s.given .none) 7 s.a.st.pos ∧
    Raises (.iinvLine o) (s.given .none) 7 s.a.st.pos ∧
    Raises (.iinvPage o) (s.given .none) 7 s.a.st.pos ∧
    Raises .realign (s.given .none) 7 s.a.st.pos ∧
    (s.a.st.act = true → (s.privileged = true ∨ s.a.st.trpc.getLsbD 47 = false) → Raises .rti (s.given .none) 7 s.a.st.pos))

/-- R136: what taking a trap saves and where it goes. A trap inside a trap and a trap without a handler stop the strand with a strand fault, a trap at a
negative balance is put off and stops it with a quota stop, and any other goes to its handler at t+4, T_XLAT to the resident pager. -/
def Obligations.TrapEntry : Prop :=
  ∀ (s : State) (c info rec : Nat) (ab : Bool),
    let t := s.takeTrap c info rec ab
    let cause := t.a.st.trcause
    Untouched s t ∧ t.a.st.trpc = BitVec.ofNat 64 rec ∧
    (∀ j, j ≠ 16 → j ≠ 17 → j ≠ 18 → 8 ≤ j → cause.getLsbD j = s.a.st.trcause.getLsbD j) ∧
    (s.a.st.act = true →
      cause.extractLsb' 0 8 = BitVec.ofNat 8 c ∧ cause.getLsbD 18 = true ∧ cause.getLsbD 16 = true ∧ cause.getLsbD 17 = s.a.st.trcause.getLsbD 17 ∧
      t.a.st.trinfo = BitVec.ofNat 64 info ∧ t.a.st.run = .fault c ∧ NoFetch t s.a.n ∧
      ∃ e ∈ t.agenda, e.i = .strandFaultEnd ∧ e.arg = .n2 s.a.slot c) ∧
    (s.a.st.act = false → s.a.st.bal < 0 →
      cause.extractLsb' 0 8 = 12 ∧ (∀ j, 8 ≤ j → cause.getLsbD j = s.a.st.trcause.getLsbD j) ∧
      t.a.st.trinfo = BitVec.ofNat 64 (c * 2 ^ 56 + ab.toNat * 2 ^ 55 + info) ∧ t.a.st.run = .quota ∧ NoFetch t s.a.n ∧
      ∃ e ∈ t.agenda, e.i = .preemptRequest ∧ e.arg = .n2 s.a.slot 2) ∧
    (s.a.st.act = false → 0 ≤ s.a.st.bal →
      cause.extractLsb' 0 8 = BitVec.ofNat 8 c ∧ cause.getLsbD 16 = true ∧ cause.getLsbD 17 = ab ∧
      cause.getLsbD 18 = s.a.st.trcause.getLsbD 18 ∧ t.a.st.trinfo = BitVec.ofNat 64 info ∧ t.a.st.rgn = none ∧
      (c = 4 → t.a.st.pc = 0x800000000000 ∧ OnlyFetch t s.a.n (s.a.edge 0 s.now + 4 * s.a.div.core)) ∧
      (c ≠ 4 → s.a.st.tvec.extractLsb' 3 45 = 0 → t.a.st.run = .fault c ∧ NoFetch t s.a.n ∧
        ∃ e ∈ t.agenda, e.i = .strandFaultEnd ∧ e.arg = .n2 s.a.slot c) ∧
      (c ≠ 4 → s.a.st.tvec.extractLsb' 3 45 ≠ 0 → t.a.st.pc = (s.a.st.tvec.extractLsb' 0 48).toNat ∧
        t.a.st.run = s.a.st.run ∧ OnlyFetch t s.a.n (s.a.edge 0 s.now + 4 * s.a.div.core)))

/-- R141: rti clears ACT and the bundle at TRPC issues at t+3; with no trap active, or at user level with TRPC in privileged space, it raises T_PRIV and
has no effect. -/
def Obligations.ReturnFromTrap : Prop :=
  ∀ s : State,
    (s.a.st.trcause.getLsbD 16 = true → s.a.st.rgn = none → (s.privileged = true ∨ s.a.st.trpc.getLsbD 47 = false) →
      ∃ t, exec .rti s = .next t ∧ Untouched s t ∧ t.a.st.pc = s.a.st.trpc.toNat % 2 ^ 48 ∧
        (∀ j < 64, t.a.st.trcause.getLsbD j = (decide (j ≠ 16) && s.a.st.trcause.getLsbD j)) ∧
        t.a.st = { s.a.st with pc := t.a.st.pc, trcause := t.a.st.trcause, ready := s.a.edge 0 s.now + 3 * s.a.div.core } ∧
        OnlyFetch t s.a.n (s.a.edge 0 s.now + 3 * s.a.div.core)) ∧
    (s.a.st.trcause.getLsbD 16 = false → Raises .rti (s.given .none) 14 (4 + s.a.st.pos * 256)) ∧
    (s.a.st.trcause.getLsbD 16 = true → s.privileged = false → s.a.st.trpc.getLsbD 47 = true →
      Raises .rti (s.given .none) 14 (3 + s.a.st.pos * 256)) ∧
    (s.a.st.trcause.getLsbD 16 = true → (s.privileged = true ∨ s.a.st.trpc.getLsbD 47 = false) → s.a.st.rgn.isSome = true →
      Raises .rti (s.given .none) 7 s.a.st.pos)

/-- R142, R143, R134, R196, R382: trap n, brk n without armed breakpoints, a pending data flag and a recorded exchange fault take their traps; armed, brk
stops the strand behind its bundle and asks for the pre-emption of its launch; a strand event stops the issue. Nominal times are free values (log 1). -/
def Obligations.TrapsTaken : Prop :=
  ∀ (s : State) (n : BitVec 16) (l : Launch),
    exec (.trap ⟨n⟩) s = .next (s.takeTrap 15 (0x10000 + n.toNat) s.a.st.npc s.a.st.rgn.isSome) ∧
    (s.a.st.rgn = none → s.launch = none ∨ (s.launch = some l ∧ l.brken = false) →
      exec (.brk ⟨n⟩) s = .next (s.takeTrap 15 (0x20000 + n.toNat) s.a.st.npc false)) ∧
    (s.a.st.rgn = none → s.launch = some l → l.brken = true →
      ∃ t, exec (.brk ⟨n⟩) s = .next t ∧ t.a.st = { s.a.st with pc := s.a.st.npc, bpc := s.a.st.npc, wait := .stopped, more := [] } ∧
        NoFetch t s.a.n ∧ t.fe = { s.fe with brkn := n.toNat } ∧
        ∃ e ∈ t.agenda, e.i = .preemptRequest ∧ e.arg = .n2 s.a.slot 4 ∧ e.tick = s.now + Config.nominal s.free) ∧
    (∀ c, s.a.st.dflag = some c → exec .pendingDataTrap s =
      .next (({ s with a := { s.a with st := { s.a.st with dflag := none } } } : State).takeTrap 15 c s.a.st.pc false)) ∧
    (∀ c, s.a.st.xfault = some c → exec .exchangeFaultTaken s =
      .next (({ s with a := { s.a with st := { s.a.st with xfault := none } } } : State).takeTrap 16 c s.a.st.pc false)) ∧
    ∃ t, exec .strandEvent s = .next t ∧ t.a.st = { s.a.st with evReq := false, wait := .stopped, more := [], walked := none, miss := none } ∧
      NoFetch t s.a.n ∧ Untouched s t ∧ t.fe = s.fe ∧
      ∃ e ∈ t.agenda, e.i = .drainComplete ∧ e.arg = .n s.a.slot ∧ e.tick = s.now

/-- R146, R147, R109: halt stops the issue, and the strand stops once nothing of its atoll's engines and lanes is due, PP has no command and no copy into
its own scratchpad has still to arrive; iinv invalidates all lines, the line, or the lines of the 64 KiB page, that hold its address; a missing line
that its channel serves arrives through the code mapping, and the bundle that waits for it is fetched again; with no mapping that bundle raises
T_XLAT, with its own address or that of the line when this lies in the page after it (log 99). A line that none waits for only fills. -/
def Obligations.HaltAndInstructionStore : Prop :=
  ∀ (s : State) (a : Reg) (line : Nat) (e : PageMap),
    let g := s.given (.n line)
    let row := (e.frame * 2 ^ 16 + line * 128 % (if e.big then 2 ^ 21 else 2 ^ 16)) / 128
    let waits : Prop := s.a.st.run = .run ∧ s.a.st.miss = some line
    (s.a.st.rgn = none →
      (∃ t, exec .halt s = .next t ∧ t.a.st = { s.a.st with run := .halting, pc := s.a.st.npc } ∧ NoFetch t s.a.n ∧ Untouched s t ∧
        ∃ e ∈ t.agenda, e.i = .strandStop ∧ e.tick = s.now ∧ e.atoll = s.a.n) ∧
      (s.a.st.run = .halting → (∀ e ∈ s.agenda, e.atoll = s.a.n → e.dom ∉ [Dom.vx, .mx, .rt, .ring]) →
        (∀ c ∈ s.a.cq, c.kind ≠ .ppcmp ∧ ¬(c.dst.sp ≤ 1 ∧ c.dst.atoll = s.a.n)) → s.a.arriving = [] →
        ∃ t, exec .strandStop s = .next t ∧
          t.a.st = { s.a.st with run := .halted, wait := .none, more := [], walked := none, miss := none } ∧ NoFetch t s.a.n ∧ Untouched s t ∧
          ∀ i ∈ [Instr.launchEnd, .realignRelease, .dsyncRelease], ∃ e ∈ t.agenda, e.i = i ∧ e.arg = .n s.a.slot ∧ e.tick = s.now) ∧
      (∃ t, exec .iinvAll s = .next t ∧ t.a.st.istore = [] ∧
        t = { s with a := { s.a with st := { s.a.st with istore := t.a.st.istore } } }) ∧
      (∃ t, exec (.iinvLine ⟨a⟩) s = .next t ∧
        (∀ x, x ∈ t.a.st.istore ↔ x ∈ s.a.st.istore ∧ x.1 ≠ (s.rdS a).toNat % 2 ^ 48 / 128) ∧
        t = { s with a := { s.a with st := { s.a.st with istore := t.a.st.istore } } }) ∧
      (∃ t, exec (.iinvPage ⟨a⟩) s = .next t ∧
        (∀ x, x ∈ t.a.st.istore ↔ x ∈ s.a.st.istore ∧ x.1 * 128 / 2 ^ 16 ≠ (s.rdS a).toNat % 2 ^ 48 / 2 ^ 16) ∧
        t = { s with a := { s.a with st := { s.a.st with istore := t.a.st.istore } } })) ∧
    (s.walkVa (line * 128) = some e → s.served row s.a.slot false = true → s.dev.bad row = false → (row, true) ∉ s.dev.errs →
      ∃ t, exec .istoreFill g = .next t ∧ (line, s.dev.mem.row row) ∈ t.a.st.istore ∧
        t.a.st.istore.length ≤ 2048 ∧ (∀ x ∈ t.a.st.istore, x.1 ≠ line → x ∈ s.a.st.istore) ∧
        t.a = { s.a with st := { s.a.st with istore := t.a.st.istore } } ∧
        (waits → s.a.st.rgn = none → OnlyFetch t s.a.n (s.a.edge 0 s.now)) ∧
        (¬waits → ∀ k, k.i = .bundleFetch → (k ∈ t.agenda ↔ k ∈ s.agenda))) ∧
    (s.walkVa (line * 128) = none →
      (waits → exec .istoreFill g = .next (g.takeTrap 4
        ((if s.a.st.pc / 2 ^ 16 = line * 128 / 2 ^ 16 then s.a.st.pc else line * 128) + 2 ^ 49) s.a.st.pc s.a.st.rgn.isSome)) ∧
      (¬waits → exec .istoreFill g = .next g)) ∧
    ∀ o, exec (.pfx o) s = .next s

/-- R32, R35, R37, R89, R107 to R109, R128: the bundle at the PC, which is up to four syllables, the last with S = 1, is formed when its lines stand in
the instruction store, and its syllables stand ready to issue; one whose form is bad raises T_BUNDLE with its reason; a line that is missing is asked
for; a negative balance stops a strand outside a region, whose trap record holds T_QUOTA and the address of the bundle; a strand that does not run, or
that waits, forms none; once region cycle n has begun only a bundle with rgnend is formed; code that runs from below 2^47 into the privileged space
raises T_PRIV. -/
def Obligations.BundlesAreFetched : Prop :=
  ∀ (s : State) (l : List Word) (w : Option (Nat × Fetched)) (line : Nat), s.ev.arg = .none →
    let st := s.a.st
    let u : State := { s with seq := s.seq + 1, ev := { s.ev with seq := s.seq + 1 } }
    let closed : Prop := ∀ r, st.rgn = some r → s.regionCycle < r.n ∨ s.closes (l.map sylOf) = true
    (st.run ≠ .run ∨ st.wait ≠ .none → exec .bundleFetch s = .next u) ∧
    (st.run = .run → st.wait = .none → st.held = none →
      (st.rgn = none → st.bal < 0 → st.act = false → ∃ t, exec .bundleFetch s = .next t ∧ t.a.st.run = .quota ∧ NoFetch t s.a.n ∧
        Untouched s t ∧ t.a.st.trpc = BitVec.ofNat 64 st.pc ∧ t.a.st.trcause.extractLsb' 0 8 = 12 ∧ t.a.st.trinfo = 0 ∧
        ∃ e ∈ t.agenda, e.i = .preemptRequest ∧ e.arg = .n2 s.a.slot 2) ∧
      (st.lagHold = false → st.rgn ≠ none ∨ 0 ≤ st.bal →
        ((st.pc < 2 ^ 47 ∨ (2 ^ 47 ≤ st.bpc ∧ (st.act = false ∨ st.pinned ≠ []))) → st.fetchBundle 4 0 st.pc = (l, w) →
          (w = none → closed →
            (∀ r, bundleReason l = some r → exec .bundleFetch s = .next (u.takeTrap 2 r st.pc st.rgn.isSome)) ∧
            (bundleReason l = none → exec .bundleFetch s = .next
              { u with a := { s.a with st := { st with bpc := st.pc, npc := (st.pc + 8 * l.length) % 2 ^ 48, pos := 0, pfx := none
                                                       miss := none } }
                       issueQ := l.map sylOf })) ∧
          (w = none → ¬closed → exec .bundleFetch s = .next u) ∧
          (∀ k, w = some (k, .miss line) → st.rgn = none → ∃ t, exec .bundleFetch s = .next t ∧
            (∃ e ∈ t.agenda, e.i = .istoreFill ∧ e.atoll = s.a.n ∧ e.arg = .n line) ∧
            t.a = { s.a with st := { st with miss := some line } } ∧ ∀ e, e.i ≠ .istoreFill → (e ∈ t.agenda ↔ e ∈ s.agenda))) ∧
        (st.bpc < 2 ^ 47 → 2 ^ 47 ≤ st.pc → st.pc < 2 ^ 48 → st.rgn = none → exec .bundleFetch s = .next (u.takeTrap 14 5 st.pc false))))

/-- R36, R85, R110: when the bundle at the PC is one syllable whose guard reads true, nothing holds it back and no check finds a trap, the step is `exec`
of the instruction that the decoder reads, in the state in which the bundle has been charged 16,384 aJ, the PC has moved past it and the next bundle
is due a core cycle later; a strand that then waits or has stopped issues nothing more. -/
def Obligations.StepRunsDecodedInstruction : Prop :=
  ∀ (s : State) (e : Ev) (r : List Ev) (w : Word) (y : Syl), s.agenda = e :: r → e.i = .bundleFetch → e.arg = .none →
    let s1 := s.take e r
    let st := s1.a.st
    st.run = .run → st.wait = .none → st.held = none → st.lagHold = false → st.rgn = none → 0 ≤ st.bal → st.xfault = none →
    st.dflag = none → st.evReq = false → st.pc < 2 ^ 47 → st.fetchBundle 4 0 st.pc = ([w], none) → bundleReason [w] = none →
    decode w = .ok y → s1.rdP y.g = true →
    let s2 : State := { s1 with seq := s1.seq + 1, ev := { s1.ev with seq := s1.seq + 1 }, issueQ := [some y]
                                a := { s1.a with st := { st with bpc := st.pc, npc := (st.pc + 8) % 2 ^ 48, pos := 0, pfx := none, miss := none } } }
    s2.heldBack [some y] = false → s2.heldLast [some y] = false → trapAt [some y] s2 (s2.opened [(0, y.i)]) 0 = none →
    s2.walkDue [(0, y.i)] = none →
    let s3 := ((s2.chargeAt (s2.coreT 0) 16384).updSt fun st =>
      { st with pc := st.npc, ready := s2.coreT 1, pend := 0 }).fetchAt (s2.coreT 1)
    let s4 := match engineOf y.i with
      | some k => s3.engage k
      | none => s3
    step s = match exec y.i ((s4.atSyl [some y] 0).keepClass y.i) with
      | .next t => .next t.settled
      | o => o

/-! ## Memory (R149 to R188) -/

/-- R5, R151: a byte reads as what was written last: writing n bytes changes those bytes and no other, and a word or a row that was written reads back. -/
def Obligations.MemoryReadsWhatWasWritten : Prop :=
  ∀ (m : Mem) (a n v j : Nat) (x : Word) (y : Row) (b r q : Nat),
    SMap.get (Mem.write m a n v) j = (if a ≤ j ∧ j < a + n then BitVec.ofNat 8 (v / 256 ^ (j - a)) else SMap.get m j) ∧
    Mem.word (Mem.setWord m a x) b = (if b / 8 = a / 8 then x else Mem.word m b) ∧
    Mem.row (Mem.setRow m r y) q = (if q = r then y else Mem.row m q)

/-- R149, R150, R158, R167, R169, R177, R182, R184, R185: an access to the strand's own scratchpad is made at its station at the ring cycle of R158, with
its charge; what it leaves at issue is the lanes and ports it takes. R152, R155, R183: a local arrive takes both ports of its station, and performs at
T + h ring cycles, one ring cycle after the last earlier fixed write, and no earlier than an earlier fixed read (log 103), later by the delay of
collisions; outside a region the next bundle waits for its outcome. R13, R149, R153, R160, R167, R169, R177, R182, R183: outside a region an access to
another atoll of the launch in this package travels through XB to its owner, with its charge. -/
def Obligations.ScratchpadAccesses : Prop :=
  (∀ (s : State) (d a b : Reg) (p : Prd) (h : HReg) (off : BitVec 16),
    let ea := s.rdS a + off.signExtend 64
    let byte := ea.toNat % 2 ^ 23
    let ph := ea.getLsbD 63
    let hop := 8192 * hopsCC (byte / 128)
    LocalAddr ea → s.pfxSpace < 2 → (s.a.st.rgn = none ∨ s.a.res = []) →
    AtStation (.lds ⟨d, a, off⟩) s s false false true byte .read (.s d) (65536 + hop) ∧
    AtStation (.sts ⟨b, a, off⟩) s s true true false byte (.write (s.rdS b)) .none (65536 + hop) ∧
    (0 < (s.rdS b).toNat ∧ (s.rdS b).toNat ≤ 65535 →
      AtStation (.binit ⟨b, a, off⟩) s s true true false byte
        (.write (BitVec.ofNat 64 (ph.toNat * 2 ^ 63 + (s.rdS b).toNat * 2 ^ 32))) .none (65536 + hop)) ∧
    AtStation (.btest ⟨p, a, off⟩) s s false false false byte (.test ph) (.p p) 65536 ∧
    (s.a.st.rgn = none → AtStation (.bwait ⟨a, off⟩) s (s.stalled (.bwait byte ph))
      false false false byte (.wait ph) .none 65536) ∧
    AtStation (.amoadd ⟨d, b, h, a, off, false⟩) s s true true true byte (.amo .add (s.rdS b)) (.s d) (65536 + 2 * hop) ∧
    AtStation (.amoxor ⟨d, b, h, a, off, false⟩) s s true true true byte (.amo .xor (s.rdS b)) (.s d) (65536 + 2 * hop) ∧
    AtStation (.amomin ⟨d, b, h, a, off, false⟩) s s true true true byte (.amo .min (s.rdS b)) (.s d) (65536 + 2 * hop) ∧
    AtStation (.amomax ⟨d, b, h, a, off, false⟩) s s true true true byte (.amo .max (s.rdS b)) (.s d) (65536 + 2 * hop) ∧
    AtStation (.amoswp ⟨d, b, h, a, off, false⟩) s s true true true byte (.amo .swp (s.rdS b)) (.s d) (65536 + 2 * hop) ∧
    AtStation (.amocas ⟨d, b, h, a, off, false⟩) s s true true true byte (.amo (.cas (s.rdS d)) (s.rdS b)) (.s d) (65536 + 2 * hop)) ∧
  (∀ (s : State) (a : Reg) (off : BitVec 16),
    let ea := s.rdS a + off.signExtend 64
    let byte := ea.toNat % 2 ^ 23
    let l := s.agenda.filter fun e => e.fixed s.a.n && decide (e.seq < s.ev.seq)
    let w := lastPerform (l.filter fun e => e.fixedWrite s.a.n)
    let t := max (max (s.a.edge 4 s.now + hopsCC (byte / 128) * s.a.div.ring) (if w = 0 then 0 else w + s.a.div.ring))
      (edgeAt s.a.div.ring (lastPerform l))
    LocalAddr ea → s.pfxSpace < 2 → (s.a.st.rgn = none ∨ s.a.res = []) → ∃ k, (s.a.res = [] → k = 0) ∧
      Issues (.arrive ⟨a, off⟩) s
        ((if s.a.st.rgn = none then s.stalled .outcome else s).reserve
          [(t, 1000 + byte / 128 % 8), (t, 1000 + byte / 128 % 8 + 8)] k)
        ⟨t + k * s.a.div.ring, 1, s.ev.seq, s.a.n, .ring, .barrierArrival,
          .acc ⟨.arrive (ea.getLsbD 63) false 0, byte, .none, 2 * 65536, s.cls 0, s.a.n, s.scope⟩⟩) ∧
  (∀ (s : State) (d a b : Reg) (h : HReg) (off : BitVec 16) (k : Nat),
    let ea := s.rdS a + off.signExtend 64
    let byte := ea.toNat % 2 ^ 23
    let n := (s.rdS b).toNat
    let hop := 8192 * (hopsXB (byte / 128) + 2)
    let x := fun (op : AccOp) (dst : Dst) (chg : Nat) => Arg.acc ⟨op, byte, dst, chg, s.cls 0, s.a.n, s.scope⟩
    RemoteAddr s ea → s.pfxSpace < 2 → s.a.st.rgn = none →
    s.atollAt (ea.extractLsb' 48 10).toNat (ea.extractLsb' 40 8).toNat = some k → k < 1000 →
    Travels (.lds ⟨d, a, off⟩) s s false k .remoteAccessArrival (x .read (.s d) (65536 + hop)) ∧
    Travels (.sts ⟨b, a, off⟩) s s true k .remoteAccessArrival (x (.write (s.rdS b)) .none (65536 + hop)) ∧
    (0 < n ∧ n ≤ 65535 → Travels (.binit ⟨b, a, off⟩) s s true k .remoteAccessArrival
      (x (.write (BitVec.ofNat 64 ((ea.getLsbD 63).toNat * 2 ^ 63 + n * 2 ^ 32))) .none (65536 + hop))) ∧
    (∀ (o : AmoOp) (i : Amo → Instr),
      (i, o) ∈ [(Instr.amoadd, AmoOp.add), (.amoxor, .xor), (.amomin, .min), (.amomax, .max), (.amoswp, .swp), (.amocas, .cas (s.rdS d))] →
      Travels (i ⟨d, b, h, a, off, false⟩) s s true k .remoteAccessArrival (x (.amo o (s.rdS b)) (.s d) (65536 + 2 * hop))) ∧
    Travels (.arrive ⟨a, off⟩) s (s.stalled .outcome) false k .barrierArrival (x (.arrive (ea.getLsbD 63) false 0) .none (2 * 65536)))

/-- R150, R182: an address that the checks of a scratchpad access refuse, and a binit with a count of 0 or above 65,535, raise T_DATA with the code of the
first condition that holds, and have no effect. R162: an access through a handle that does not allow it raises T_HANDLE with the first reason that
holds and the number of the handle, and has no effect. -/
def Obligations.AddressesAreChecked : Prop :=
  (∀ (s : State) (d a b : Reg) (p : Prd) (off : BitVec 16) (c : Nat),
    let ea := s.rdS a + off.signExtend 64
    let bad := 6291456 ≤ ea.toNat % 2 ^ 23 ∨ ea &&& 0x7C00007FFF800000 ≠ 0 ∨ (ea.getLsbD 39 = false ∧ ea &&& 0x03FFFF0000000000 ≠ 0)
    let outside := ea.getLsbD 39 = true ∧ s.inRect (ea.extractLsb' 48 10).toNat (ea.extractLsb' 40 8).toNat = false
    s.pfxSpace < 2 → s.a.st.rgn = none →
    ((bad ∧ c = 0x10) ∨ (¬bad ∧ outside ∧ c = 0x11) →
      Raises (.lds ⟨d, a, off⟩) (s.given .none) 15 c ∧ Raises (.sts ⟨b, a, off⟩) (s.given .none) 15 c ∧
      Raises (.binit ⟨b, a, off⟩) (s.given .none) 15 c ∧ Raises (.arrive ⟨a, off⟩) (s.given .none) 15 c) ∧
    ((bad ∧ c = 0x10) ∨ (¬bad ∧ outside ∧ c = 0x11) ∨ (¬bad ∧ ¬outside ∧ ea.getLsbD 39 = true ∧ c = 0x12) →
      Raises (.btest ⟨p, a, off⟩) (s.given .none) 15 c ∧ Raises (.bwait ⟨a, off⟩) (s.given .none) 15 c ∧
      Raises (.await ⟨d, b, a, off⟩) (s.given .none) 15 c) ∧
    (¬bad → ¬outside → ((s.rdS b).toNat = 0 ∨ 65535 < (s.rdS b).toNat) → Raises (.binit ⟨b, a, off⟩) (s.given .none) 15 0x20)) ∧
  (∀ (s : State) (d a b : Reg) (h : HReg) (off : BitVec 16),
    let v := s.rdH h
    let o := (s.rdS a + off.signExtend 64).toInt
    let out := o < 0 ∨ (if v.getLsbD 62 then 2 ^ 21 else 2 ^ 16) ≤ o
    let wrong := s.pfxSpace ≠ 0 ∧ s.pfxSpace ≠ (v.extractLsb' 60 2).toNat
    let load := Instr.gld ⟨d, h, a, off⟩
    let store := Instr.gst ⟨b, h, a, off⟩
    let amo := Instr.amoadd ⟨d, b, h, a, off, true⟩
    s.a.st.rgn = none →
    (v.getLsbD 63 = false → ∀ i ∈ [load, store, amo], Raises i (s.given .none) 5 (1 + h.toNat * 16)) ∧
    (v.getLsbD 63 = true → out → ∀ i ∈ [load, store, amo], Raises i (s.given .none) 5 (2 + h.toNat * 16)) ∧
    (v.getLsbD 63 = true → ¬out → v.getLsbD 59 = false → ∀ i ∈ [store, amo], Raises i (s.given .none) 5 (3 + h.toNat * 16)) ∧
    (v.getLsbD 63 = true → ¬out → wrong → Raises load (s.given .none) 5 (4 + h.toNat * 16) ∧
      (v.getLsbD 59 = true → ∀ i ∈ [store, amo], Raises i (s.given .none) 5 (4 + h.toNat * 16))) ∧
    (v.getLsbD 63 = true → ¬out → v.getLsbD 59 = true → ¬wrong → v.extractLsb' 60 2 = 3#2 →
      Raises amo (s.given .none) 5 (5 + h.toNat * 16)))

/-- R161, R162, R168, R169, R177: outside a region an access through a handle that allows it goes to physical address FRAME · 2^16 + o of device memory,
or of host memory when the handle names it, with its charge. R163 to R165, R174: xlat waits 23 core cycles for its walk, and the handle of its mapping
lands a core cycle after the 24th; without a mapping it raises T_XLAT with the address; hinv clears V; a fence with nothing before it in its mask
holds nothing, and any other holds until a step finds its accesses performed. -/
def Obligations.HandlesAndFences : Prop :=
  (∀ (s : State) (d a b : Reg) (h : HReg) (off : BitVec 16),
    let v := s.rdH h
    let o := (s.rdS a + off.signExtend 64).toInt
    let host := v.extractLsb' 60 2 == 3#2
    let byte := (v.extractLsb' 16 32).toNat * 2 ^ 16 + o.toNat
    let x := fun (op : AccOp) (dst : Dst) (chg : Nat) =>
      Arg.gacc ⟨host, byte, op, dst, chg, s.cls 0, s.a.n, (v.extractLsb' 16 32).toNat, s.scope⟩
    v.getLsbD 63 = true → 0 ≤ o → o < (if v.getLsbD 62 then 2 ^ 21 else 2 ^ 16) →
    (s.pfxSpace = 0 ∨ s.pfxSpace = (v.extractLsb' 60 2).toNat) → s.a.st.rgn = none →
    Travels (.gld ⟨d, h, a, off⟩) s s false s.a.n .gmAccess (x .read (.s d) (2359296 + 2 * 8192)) ∧
    (v.getLsbD 59 = true →
      Travels (.gst ⟨b, h, a, off⟩) s s true s.a.n .gmAccess (x (.write (s.rdS b)) .none (2359296 + 2 * 8192)) ∧
      (host = false → ∀ (k : AmoOp) (i : Amo → Instr),
        (i, k) ∈ [(Instr.amoadd, AmoOp.add), (.amoxor, .xor), (.amomin, .min), (.amomax, .max), (.amoswp, .swp),
          (.amocas, .cas (s.rdS d))] →
        Travels (i ⟨d, b, h, a, off, true⟩) s s true s.a.n .reefAtomic (x (.amo k (s.rdS b)) (.s d) (2 * 2359296 + 4 * 8192))))) ∧
  (∀ (s : State) (h : HReg) (a : Reg) (v : Word) (m : BitVec 16) (q : Nat), s.a.st.rgn = none →
    let here : Prop := ∀ x ∈ s.a.st.ext, m.getLsbD x.2.cls.toNat = false
    (s.a.st.walked = none → ∃ t, exec (.xlat ⟨h, a⟩) s = .next t ∧ NoFetch t s.a.n ∧ t.a = s.a ∧
      ∃ e ∈ t.agenda, e.i = .xlatWalkDone ∧ e.arg = .walk h (s.rdS a) ∧
        e.tick = s.a.edge 0 s.now + 23 * s.a.div.core) ∧
    (∃ t, exec .xlatWalkDone (s.given (.walk h v)) = .next t ∧ OnlyFetch t s.a.n s.now ∧
      t.a.st = { s.a.st with pc := s.a.st.bpc, walked := some (if v.extractLsb' 48 16 ≠ 0 then none else (s.walkVa v.toNat).map handleOf) }) ∧
    (s.a.st.walked = some (some v) → ∃ t u, exec (.xlat ⟨h, a⟩) s = .next t ∧
      u = { s with a := { s.a with st := { s.a.st with walked := none } } } ∧
      Due ⟨s.a.edge 0 s.now + s.a.div.core, 2, s.ev.seq, s.a.n, .core, .scalarResultLand, .land (.h h) v⟩ u t) ∧
    (s.a.st.walked = some none → Raises (.xlat ⟨h, a⟩) (s.given .none) 4
      ((s.rdS a).toNat % 2 ^ 48 + (if (s.rdS a).extractLsb' 48 16 ≠ 0 then 2 ^ 48 else 0))) ∧
    Gives (.hinv ⟨h⟩) s 1 (.h h) (s.rdH h &&& 0x7FFFFFFFFFFFFFFF) ∧
    (m = 0 ∨ (s.fenced m s.ev.seq = [] ∧ here) → exec (.fence ⟨m⟩) s = .next s) ∧
    (m ≠ 0 → s.fenced m s.ev.seq ≠ [] ∨ ¬here → Issues (.fence ⟨m⟩) s
      { s with a := { s.a with st := { s.a.st with fences := s.a.st.fences ++ [(m, s.ev.seq)] } } }
      ⟨max s.now (lastTick (s.fenced m s.ev.seq)), 3, s.ev.seq, s.a.n, .none, .fenceComplete, .fence m s.ev.seq⟩) ∧
    (s.fenced m q = [] → here →
      ∃ t, exec .fenceComplete (s.given (.fence m q)) = .next t ∧ (∀ f, f ∈ t.a.st.fences ↔ f ∈ s.a.st.fences ∧ f ≠ (m, q)) ∧
        t = { s.given (.fence m q) with a := { s.a with st := { s.a.st with fences := t.a.st.fences } } }))

/-- R151, R158, R177, R184, R185: what a local access does at its station, when no burst holds its ports and no access before it waits there: a read or a
test leaves every byte, a store or an atomic changes the bytes of its word and no other, and what is returned is the word as it was and reaches CC h
ring cycles later. R181: what an arrival makes of its barrier word, and nothing else of the scratchpad: nothing when ERROR is set or a strand
over-arrives; it counts, and completes the phase when COUNT reaches EXPECT; an engine's fault or over-arrival completes it in error. -/
def Obligations.StationsAndBarriers : Prop :=
  (∀ (s : State) (byte chg : Nat) (d : Dst) (c : BitVec 4) (lv : BitVec 3) (v : Word) (k : AmoOp) (ph : Bool),
    let w := Mem.word s.a.sp byte
    let back := s.now + hopsCC (byte / 128) * s.a.div.ring
    let u := fun (op : AccOp) => s.given (.acc ⟨op, byte, d, chg, c, s.a.n, lv⟩)
    let ends := fun (x : Word) (cost : Nat) (t : State) => ∃ e ∈ t.agenda, e.i = .scalarRowReturn ∧ e.tick = back ∧ e.atoll = s.a.n ∧
      e.arg = .reply d x none cost
    let holds := fun (x : Word) (t : State) => (∀ j, SMap.get t.a.sp j =
        if j / 8 = byte / 8 then BitVec.ofNat 8 (x.toNat / 256 ^ (j % 8)) else SMap.get s.a.sp j) ∧
      t.a.st.regs = s.a.st.regs ∧ t.a.st.preds = s.a.st.preds ∧ t.a.v = s.a.v ∧ t.others = s.others ∧ t.dev = s.dev ∧ t.host = s.host
    let done := barDone w ph
    let new := match k with
      | .add => w + v
      | .xor => w ^^^ v
      | .min => if w.slt v then w else v
      | .max => if w.slt v then v else w
      | .swp => v
      | .cas x => if w = x then v else w
    let erase := match k with
      | .add | .xor => 0
      | _ => 8192 * ((List.range 64).filter fun j => w.getLsbD j).length
    s.a.burst = [] → (∀ e ∈ s.agenda, e.i = .scalarStationAccess → e.atoll = s.a.n → s.ev.seq ≤ e.seq) →
    Issues .scalarStationAccess (u .read) (u .read) ⟨back, 0, s.ev.seq, s.a.n, .ring, .scalarRowReturn, .reply d w none chg⟩ ∧
    Issues .scalarStationAccess (u (.test ph)) (u (.test ph))
      ⟨back, 0, s.ev.seq, s.a.n, .ring, .scalarRowReturn, .reply d (if done then 1 else 0) none chg⟩ ∧
    (done = false → exec .scalarStationAccess (u (.wait ph)) = .next (u (.wait ph))) ∧
    (done = true → ∃ t, exec .scalarStationAccess (u (.wait ph)) = .next t ∧ t.a.sp = s.a.sp ∧
      ∃ e ∈ t.agenda, e.i = .scalarRowReturn ∧ e.tick = back ∧ e.arg = .reply .none 1 none 0) ∧
    (∃ t, exec .scalarStationAccess (u (.write v)) = .next t ∧ holds v t) ∧
    ((∀ x, k ≠ .cas x) → ∃ t, exec .scalarStationAccess (u (.amo k v)) = .next t ∧ holds new t ∧ ends w (chg + (65536 + erase)) t) ∧
    (∀ x, w = x → ∃ t, exec .scalarStationAccess (u (.amo (.cas x) v)) = .next t ∧ holds v t) ∧
    (∀ x, w ≠ x → Issues .scalarStationAccess (u (.amo (.cas x) v)) (u (.amo (.cas x) v))
      ⟨back, 0, s.ev.seq, s.a.n, .ring, .scalarRowReturn, .reply d w none chg⟩)) ∧
  (∀ (s : State) (byte chg : Nat) (c : BitVec 4) (lv : BitVec 3) (ph engine : Bool) (code : Nat),
    let x : Acc := ⟨.arrive ph engine code, byte, .none, chg, c, s.a.n, lv⟩
    let b := Mem.word s.a.sp byte
    let count := b.extractLsb' 16 16 + 1
    code < 256 → s.a.burst = [] → s.remoteWait x = none → s.releaseWait x = none →
    ∃ t, exec .barrierArrival (s.given (.acc x)) = .next t ∧ (∀ j, j / 8 ≠ byte / 8 → SMap.get t.a.sp j = SMap.get s.a.sp j) ∧
      t.a.st.regs = s.a.st.regs ∧ t.a.st.preds = s.a.st.preds ∧ t.a.v = s.a.v ∧ t.others = s.others ∧ t.dev = s.dev ∧
      let r := Mem.word t.a.sp byte
      let completes := r.getLsbD 63 = !b.getLsbD 63 ∧ r.extractLsb' 16 16 = 0 ∧ r.extractLsb' 0 16 = b.extractLsb' 0 16 + 1 ∧
        r.extractLsb' 32 16 = b.extractLsb' 32 16
      (b.getLsbD 62 = true → r = b) ∧
      (b.getLsbD 62 = false → engine = true → (code ≠ 0 ∨ ph ≠ b.getLsbD 63) →
        completes ∧ r.getLsbD 62 = true ∧ r.extractLsb' 54 8 = b.extractLsb' 54 8 ^^^ BitVec.ofNat 8 code) ∧
      (b.getLsbD 62 = false → engine = false → ph ≠ b.getLsbD 63 → r = b) ∧
      (b.getLsbD 62 = false → (engine = true → code = 0) → ph = b.getLsbD 63 → count = b.extractLsb' 32 16 →
        completes ∧ r.extractLsb' 54 9 = b.extractLsb' 54 9) ∧
      (b.getLsbD 62 = false → (engine = true → code = 0) → ph = b.getLsbD 63 → count ≠ b.extractLsb' 32 16 →
        r.extractLsb' 16 16 = count ∧ r.extractLsb' 0 16 = b.extractLsb' 0 16 ∧ r.extractLsb' 32 32 = b.extractLsb' 32 32))

/-- R36, R88, R153, R158, R167, R183, R184: a returned row, a reply, once its word has gone from XB to CC, and an outcome end at the first core edge after
them: a result lands, a waiting bwait or arrive goes on, once nothing else that its bundle waits for is left, and an over-arrival raises T_BARRIER. A
row's charge is applied at that edge, that of a reply when it comes. R152, R153, R167, R178: an access from another atoll of the package goes from XB
to its station, a read before what the strand writes in its ring cycle; it performs once its ring edge, its ports and the order of its strand allow,
and takes its ports there: a read or an atomic answers the word as it was, over the mesh, and a write or an atomic changes its word and no other byte. -/
def Obligations.AccessesEnd : Prop :=
  (∀ (s : State) (d : Dst) (v : Word) (chg info : Nat) (f : Option Nat) (b : Nat) (ph : Bool),
    let c := s.a.edge 0 (s.now + 1)
    let pay := fun (e : Nat) => { s.a.st with due := s.a.st.due ++ [(e, chg)] }
    let goesOn := fun (t : State) => t.a.st.regs = s.a.st.regs ∧
      (s.a.st.more = [] → t.a.st.wait = .none ∧ OnlyFetch t s.a.n (max c s.a.st.ready)) ∧
      ∀ x r, s.a.st.more = x :: r → t.a.st.wait = x ∧ t.a.st.more = r ∧ t.a.st.ready = max c s.a.st.ready ∧ t.agenda = s.agenda
    (chg ≠ 0 → d ≠ .none → Issues .scalarRowReturn (s.given (.reply d v f chg)) { s.given (.reply d v f chg) with a := { s.a with st := pay c } }
      ⟨c, 2, s.ev.seq, s.a.n, .ring, .scalarResultLand, .land d v⟩) ∧
    (s.a.st.wait = .bwait b ph → ∃ t, exec .scalarRowReturn (s.given (.reply .none v f 0)) = .next t ∧ goesOn t) ∧
    (chg ≠ 0 → s.ev.atoll = s.a.n → ∃ k z, s.a.edge 4 s.now + 2 * s.a.div.ring ≤ k ∧ Issues .remoteReply (s.given (.reply d v none chg))
      { s.given (.reply d v none chg) with a := { s.a with st := pay s.now, ures := s.a.ures ++ z } }
      ⟨s.a.edge 0 (k + 1), 2, s.ev.seq, s.a.n, .none, .scalarResultLand, .land d v⟩) ∧
    exec .arriveOutcome (s.given (.outcome true info)) =
      .next ((s.given (.outcome true info)).takeTrap 11 info s.a.st.pc s.a.st.rgn.isSome) ∧
    (s.a.st.wait = .outcome → ∃ t, exec .arriveOutcome (s.given (.outcome false info)) = .next t ∧ goesOn t)) ∧
  (∀ (s : State) (byte chg src : Nat) (d : Dst) (c : BitVec 4) (lv : BitVec 3) (v : Word) (k : AmoOp) (op : AccOp),
    let x : Acc := ⟨op, byte, d, chg, c, src, lv⟩
    let g := s.given (.acc x)
    let w := Mem.word s.a.sp byte
    let pop := ((List.range 64).filter fun j => w.getLsbD j).length
    let holds := fun (y : Word) (cost : Nat) (t : State) =>
      (∀ j, SMap.get t.a.sp j = if j / 8 = byte / 8 then BitVec.ofNat 8 (y.toNat / 256 ^ (j % 8)) else SMap.get s.a.sp j) ∧
      t.a.st.regs = s.a.st.regs ∧ t.a.v = s.a.v ∧ t.dev = s.dev ∧
      t.others = s.others.map fun b => if b.n = src then { b with st := { b.st with due := b.st.due ++ [(s.now, cost)] } } else b
    let replies := fun (t : State) => ∃ e ∈ t.agenda, e.i = .remoteReply ∧ e.atoll = src ∧ e.arg = .reply d w none 0
    (s.ev.phase = 6 → ∃ t n z, exec .remoteAccessArrival g = .next t ∧
      s.a.edge 4 s.now + hopsXB (byte / 128) * s.a.div.ring ≤ n ∧ (op = .read → z = []) ∧
      Due { g.ev with tick := n, phase := if op.writes then 1 else 0 }
        { g with a := { s.a with ures := s.a.ures ++ z } } t) ∧
    (s.ev.phase ≠ 6 → src < 1000 → src ≠ s.a.n → s.remoteWait x = none → 0 < chg →
      (op = .read → ∃ t, exec .remoteAccessArrival g = .next t ∧ t.a = { s.a with res := t.a.res, ures := t.a.ures } ∧
        t.a.res = s.a.res ++ [(s.now, 1000 + byte / 128 % 8)] ∧ replies t ∧ holds w chg t) ∧
      (op = .write v → ∃ t, exec .remoteAccessArrival g = .next t ∧ holds v (chg + 8192 * pop) t) ∧
      (op = .amo k v → (∀ x, k = .cas x → w = x) → ∃ t, exec .remoteAccessArrival g = .next t ∧ replies t ∧
        holds (match k with
          | .add => w + v
          | .xor => w ^^^ v
          | .min => if w.slt v then w else v
          | .max => if w.slt v then v else w
          | _ => v) (chg + (65536 + (if k = .add ∨ k = .xor then 0 else 8192 * pop))) t) ∧
      (∀ x, op = .amo (.cas x) v → w ≠ x → ∃ t, exec .remoteAccessArrival g = .next t ∧ replies t ∧ holds w chg t)))

/-! ## Vector engine (R213 to R245) -/

/-- R222 with the times of R215 and the bit-steps of R86: element by element, what the operations of class 0x5 put into their register; the R-class form
XORs, the E-class form writes over. R45: the element of b that the source modifier gives element j: its own, the one `dist` further round its segment,
the one whose number differs by XOR, or the one `dist` into its segment. -/
def Obligations.VectorIntegerElements : Prop :=
  (∀ (s : State) (d a b : VReg) (m : BitVec 12) (et : BitVec 4) (r : BitVec 2),
    let n := etWidth et
    let A := fun j => elem n (SMap.get s.a.v a.toNat) j
    let B := fun j => elem n (SMap.get s.a.v b.toNat) (smodIndex m j)
    let o : V3 := ⟨d, a, b, m, et, r⟩
    let p : V2 := ⟨d, a, et, r⟩
    let V := fun (x : Nat) => intOf et x
    Elementwise (.vadd o) (.evadd o) s d r 2 1 2048 n (fun j => A j + B j) ∧
    Elementwise (.vsub o) (.evsub o) s d r 2 1 2048 n (fun j => A j + (2 ^ n - B j)) ∧
    Elementwise (.vxor o) (.evxor o) s d r 2 1 1024 n (fun j => A j ^^^ B j) ∧
    Elementwise (.vand o) (.evand o) s d r 2 1 1024 n (fun j => A j &&& B j) ∧
    Elementwise (.vor o) (.evor o) s d r 2 1 1024 n (fun j => A j ||| B j) ∧
    Elementwise (.vxand o) (.evxand o) s d r 2 1 1024 n (fun j => A j &&& (2 ^ n - 1 - B j)) ∧
    Elementwise (.vshl o) (.evshl o) s d r 2 1 2048 n (fun j => A j * 2 ^ (B j % n)) ∧
    Elementwise (.vshr o) (.evshr o) s d r 2 1 2048 n (fun j => A j / 2 ^ (B j % n)) ∧
    Elementwise (.vsra o) (.evsra o) s d r 2 1 2048 n
      (fun j => (((if 2 ^ (n - 1) ≤ A j then (A j : Int) - (2 ^ n : Nat) else A j) / (2 ^ (B j % n) : Nat)) % (2 ^ n : Nat)).toNat) ∧
    Elementwise (.vrotl o) (.evrotl o) s d r 2 1 2048 n (fun j => A j * 2 ^ (B j % n) + A j / 2 ^ (n - B j % n)) ∧
    Elementwise (.vmin o) (.evmin o) s d r 2 1 2048 n (fun j => if V (A j) < V (B j) then A j else B j) ∧
    Elementwise (.vmax o) (.evmax o) s d r 2 1 2048 n (fun j => if V (A j) < V (B j) then B j else A j) ∧
    Elementwise (.vmul o) (.evmul o) s d r 4 1 3072 n (fun j => A j * B j) ∧
    Elementwise (.vneg p) (.evneg p) s d r 2 1 2048 n (fun j => 2 ^ n - A j) ∧
    Elementwise (.vnot p) (.evnot p) s d r 2 1 1024 n (fun j => 2 ^ n - 1 - A j) ∧
    Elementwise (.vabs p) (.evabs p) s d r 2 1 2048 n (fun j => (V (A j)).natAbs) ∧
    Elementwise (.vpopc p) (.evpopc p) s d r 2 1 2048 n (fun j => ((List.range 64).filter fun k => (A j).testBit k).length) ∧
    Elementwise (.vclz p) (.evclz p) s d r 2 1 2048 n (fun j => if A j = 0 then n else n - 1 - Nat.log2 (A j))) ∧
  (∀ (k : BitVec 2) (lg : BitVec 4) (dist : BitVec 6) (j : Nat),
    let m := k ++ lg ++ dist
    let seg := 2 ^ lg.toNat
    (k = 0 → smodIndex m j = j) ∧
    (k = 1 → smodIndex m j / seg = j / seg ∧ smodIndex m j % seg = (j + dist.toNat) % seg) ∧
    (k = 2 → smodIndex m j = j ^^^ dist.toNat) ∧
    (k = 3 → smodIndex m j = j / seg * seg + dist.toNat))

/-- R223 to R225, R227: the multiply-accumulates add into and subtract from their register or overwrite it, the compares, vzmask and vsel go by element,
and the swaps exchange whole registers or the elements that a mask names. R226: vassz has no effect beyond its bundle on a register that is zero at S,
and raises T_ASSERTZ with its number on any other; a write that lands up to S counts. R85, R88, R217, R218, R223, R225: what the writes of a vector
operation do when they land, to the register or mask named and to no other, and what they charge: the bit-steps, and 8,192 aJ for each old 1-bit that
an overwrite erases. -/
def Obligations.VectorAccumulatesAndWrites : Prop :=
  (∀ (s : State) (d a b : VReg) (k : MReg) (m : BitVec 12) (et : BitVec 4) (r : BitVec 2),
    let n := etWidth et
    let A := fun j => elem n (SMap.get s.a.v a.toNat) j
    let B := fun j => elem n (SMap.get s.a.v b.toNat) j
    let C := fun j => elem n (SMap.get s.a.v b.toNat) (smodIndex m j)
    let V := fun (x : Nat) => intOf et x
    let o : V3 := ⟨d, a, b, m, et, r⟩
    let c : V3M := ⟨k, a, b, m, et, r⟩
    let K := fun j => (s.rdM k).getLsbD j
    (∃ x y : Row, (∀ j < 1024 / n, elem n x j = A j * C j % 2 ^ n ∧ elem n y j = (2 ^ n - A j * C j % 2 ^ n) % 2 ^ n) ∧
      VxDoes (.vmac o) s r 4 1 3072 [.add d.toNat n x] none ∧ VxDoes (.vmas o) s r 4 1 3072 [.sub d.toNat n x] none ∧
      VxDoes (.evmac o) s r 4 1 3072 (wholeOver d x) none ∧ VxDoes (.evmas o) s r 4 1 3072 (wholeOver d y) none) ∧
    Maskwise (.vcmpeq c) (.evcmpeq c) s k r 2 2048 (1024 / n) (fun j => decide (V (A j) = V (C j))) ∧
    Maskwise (.vcmplt c) (.evcmplt c) s k r 2 2048 (1024 / n) (fun j => decide (V (A j) < V (C j))) ∧
    Maskwise (.vcmple c) (.evcmple c) s k r 2 2048 (1024 / n) (fun j => decide (V (A j) ≤ V (C j))) ∧
    Elementwise (.vsel ⟨d, a, b, k, et, r⟩) (.evsel ⟨d, a, b, k, et, r⟩) s d r 2 1 1024 n (fun j => if K j then A j else B j) ∧
    VxDoes (.vswap ⟨d, a, r⟩) s r 2 1 2048 [.swap d.toNat a.toNat (BitVec.allOnes 1024)] none ∧
    (∃ x : Row, (∀ j < 1024 / n, elem n x j = if K j then 2 ^ n - 1 else 0) ∧
      VxDoes (.vcswap ⟨d, a, k, et, r⟩) s r 2 1 2048 [.swap d.toNat a.toNat x] none) ∧
    Maskwise (.vzmask ⟨k, a, r⟩) (.evzmask ⟨k, a, r⟩) s k r 2 2048 128 (fun j => SMap.get s.a.v (a.toNat + j) == 0)) ∧
  (∀ (s : State) (a : VReg) (r : BitVec 2) (e : Ev) (x : Row) (c : Nat) (f : Option Nat),
    let due := s.agenda.filter fun e => e.atoll == s.a.n && e.dom == .vx && decide (e.tick ≤ s.a.edge 1 s.now)
    let does := fun (v : Row) => (v = 0 → exec (.vassz ⟨a, r⟩) s = .next s) ∧ (v ≠ 0 → Raises (.vassz ⟨a, r⟩) (s.given .none) 13 a.toNat)
    ((∀ e ∈ due, ∀ l c f, e.arg ≠ .puts l c f) → does (SMap.get s.a.v a.toNat)) ∧
    (due = [e] → e.arg = .puts [.xor a.toNat x] c f → does (SMap.get s.a.v a.toNat ^^^ x))) ∧
  (∀ (s : State) (d e q w j c : Nat) (m k : MReg) (x part : Row) (y : BitVec 128),
    let old := SMap.get s.a.v d
    let pay := fun (n : Nat) => if n = 0 then s.a.st.due else s.a.st.due ++ [(s.a.edge 0 s.now, n)]
    let lands := fun (p : VPut) (n : Nat) (t : State) => exec .vectorResultLand (s.given (.puts [p] c none)) = .next t ∧
      t = { s.given (.puts [p] c none) with a := { s.a with v := t.a.v, masks := t.a.masks, st := { s.a.st with due := pay (c + n) } } }
    let ones := fun {n : Nat} (z : BitVec n) => ((List.range n).filter fun j => z.getLsbD j).length
    (∃ t, lands (.xor d x) 0 t ∧ t.a.masks = s.a.masks ∧ SMap.get t.a.v q = if q = d then old ^^^ x else SMap.get s.a.v q) ∧
    (∃ t, lands (.ovr d part x) (8192 * ones (old &&& part)) t ∧ t.a.masks = s.a.masks ∧
      SMap.get t.a.v q = if q = d then (old &&& ~~~part) ||| (x &&& part) else SMap.get s.a.v q) ∧
    (∃ t, lands (.add d w x) 0 t ∧ t.a.masks = s.a.masks ∧ (q ≠ d → SMap.get t.a.v q = SMap.get s.a.v q) ∧
      (j < 1024 / w → elem w (SMap.get t.a.v d) j = (elem w old j + elem w x j) % 2 ^ w)) ∧
    (∃ t, lands (.sub d w x) 0 t ∧ t.a.masks = s.a.masks ∧ (q ≠ d → SMap.get t.a.v q = SMap.get s.a.v q) ∧
      (j < 1024 / w → (elem w (SMap.get t.a.v d) j + elem w x j) % 2 ^ w = elem w old j)) ∧
    (d ≠ e → ∃ t, lands (.swap d e part) 0 t ∧ t.a.masks = s.a.masks ∧ SMap.get t.a.v q =
      if q = d then (old &&& ~~~part) ||| (SMap.get s.a.v e &&& part)
      else if q = e then (SMap.get s.a.v e &&& ~~~part) ||| (old &&& part) else SMap.get s.a.v q) ∧
    (∃ t, lands (.mxor m y) 0 t ∧ t.a.v = s.a.v ∧ t.rdM k = if k = m then s.rdM m ^^^ y else s.rdM k) ∧
    ∃ t, lands (.movr m y) (8192 * ones (s.rdM m)) t ∧ t.a.v = s.a.v ∧ t.rdM k = if k = m then y else s.rdM k)

/-- R228 to R230, R204 with the times of R215 and the bit-steps of R86: each element is the exact result rounded once, and vfcmp gives the mask of the
elements for which its condition holds, all six conditions. R229: the special cases of the transcendental operations in FP16, BF16 and FP32. R236 to
R239: a reduction of integers is their sum modulo 2^wy, a maximum is one of the elements and none is above it, and an integer scan is the running sum
of its segment. -/
def Obligations.VectorFloatElements : Prop :=
  (∀ (s : State) (d a b c : VReg) (k : MReg) (m : BitVec 12) (x et : BitVec 4) (r : BitVec 2),
    let n := etWidth et
    let A := fun j => valOf et (elem n (SMap.get s.a.v a.toNat) j)
    let B := fun j => valOf et (elem n (SMap.get s.a.v b.toNat) (smodIndex m j))
    let E := fun j => valOf et (elem n (SMap.get s.a.v b.toNat) j)
    let C := fun j => valOf et (elem n (SMap.get s.a.v c.toNat) j)
    let o : V3 := ⟨d, a, b, m, et, r⟩
    let p : V2 := ⟨d, a, et, r⟩
    let f : VFc := ⟨k, a, b, x, et, r⟩
    let un := fun j => (A j).isNan || (E j).isNan
    Elementwise (.vfadd o) (.evfadd o) s d r 4 1 3072 n (fun j => conv ((A j).add (B j)) et) ∧
    Elementwise (.vfsub o) (.evfsub o) s d r 4 1 3072 n (fun j => conv ((A j).add (B j).neg) et) ∧
    Elementwise (.vfmul o) (.evfmul o) s d r 4 1 3072 n (fun j => conv ((A j).mul (B j)) et) ∧
    Elementwise (.vfmin o) (.evfmin o) s d r 4 1 3072 n (fun j => conv ((A j).min (B j)) et) ∧
    Elementwise (.vfmax o) (.evfmax o) s d r 4 1 3072 n (fun j => conv ((A j).max (B j)) et) ∧
    Elementwise (.vfma ⟨d, a, b, c, et, r⟩) (.evfma ⟨d, a, b, c, et, r⟩) s d r 5 1 4096 n
      (fun j => conv (((A j).mul (E j)).add (C j)) et) ∧
    Elementwise (.vfneg p) (.evfneg p) s d r 2 1 1024 n (fun j => conv (A j).neg et) ∧
    Elementwise (.vfabs p) (.evfabs p) s d r 2 1 1024 n (fun j => conv (A j).abs et) ∧
    Elementwise (.vfrcp p) (.evfrcp p) s d r 12 4 8192 n (fun j => conv (fRcp (A j)) et) ∧
    Elementwise (.vfrsq p) (.evfrsq p) s d r 12 4 8192 n (fun j => conv (fRsq (A j)) et) ∧
    Elementwise (.vfexp2 p) (.evfexp2 p) s d r 12 4 8192 n (fun j => conv (fExp2 (A j)) et) ∧
    Elementwise (.vflog2 p) (.evflog2 p) s d r 12 4 8192 n (fun j => conv (fLog2 (A j)) et) ∧
    Elementwise (.vftanh p) (.evftanh p) s d r 12 4 8192 n (fun j => conv (fTanh (A j)) et) ∧
    (x = 0 → Maskwise (.vfcmp f) (.evfcmp f) s k r 4 3072 (1024 / n) (fun j => (A j).eq (E j))) ∧
    (x = 1 → Maskwise (.vfcmp f) (.evfcmp f) s k r 4 3072 (1024 / n) (fun j => !(A j).eq (E j))) ∧
    (x = 2 → Maskwise (.vfcmp f) (.evfcmp f) s k r 4 3072 (1024 / n) (fun j => (A j).lt (E j))) ∧
    (x = 3 → Maskwise (.vfcmp f) (.evfcmp f) s k r 4 3072 (1024 / n) (fun j => !un j && !(E j).lt (A j))) ∧
    (x = 4 → Maskwise (.vfcmp f) (.evfcmp f) s k r 4 3072 (1024 / n) un) ∧
    (x = 5 → Maskwise (.vfcmp f) (.evfcmp f) s k r 4 3072 (1024 / n) (fun j => !un j))) ∧
  (∀ et ∈ [4#4, 5#4, 6#4],
    let neg := 2 ^ (etWidth et - 1)
    let inf := conv (.inf false) et
    let nan := conv .nan et
    let one := conv (.fin false 1 0) et
    let row := fun (f : Val → Val) (l : List Nat) =>
      [0, neg, inf, neg + inf, neg + one, nan].map (fun c => conv (f (valOf et c)) et) = l
    row fRcp [inf, neg + inf, 0, neg, neg + one, nan] ∧
    row fRsq [inf, neg + inf, 0, nan, nan, nan] ∧
    (row fExp2 [one, one, inf, 0, conv (.fin false 1 (-1)) et, nan]) ∧
    row fLog2 [neg + inf, neg + inf, inf, nan, nan, nan] ∧
    ([0, neg, inf, neg + inf, nan].map (fun c => conv (fTanh (valOf et c)) et) = [0, neg, one, neg + one, nan]) ∧
    conv (fLog2 (valOf et one)) et = 0) ∧
  (∀ (o : VC) (a : Row) (j : Nat),
    let w := etWidth o.x
    let V := fun j => intOf o.x (elem w a j)
    etInt o.x = true →
    (((reduceAdd o a : Int) - ∑ j ∈ Finset.range (1024 / w), V j) % (2 ^ etWidth o.y : Nat) = 0) ∧
    (∃ j < 1024 / w, reduceBy Val.max o a = elem w a j ∧ ∀ k < 1024 / w, V k ≤ V j) ∧
    (∃ j < 1024 / w, reduceBy Val.min o a = elem w a j ∧ ∀ k < 1024 / w, V j ≤ V k) ∧
    (let base := j - j % 2 ^ o.i.toNat
     scanTo o.x a base (j % 2 ^ o.i.toNat) = (∑ k ∈ Finset.range (j % 2 ^ o.i.toNat + 1), elem w a (base + k)) % 2 ^ w))

/-- R231 to R239 with the times of R215 and the bit-steps of R86: what the conversions, shoals, bit planes, reductions and scans put, part by part. The
R-class form XORs into the part, the E-class form writes over it; a reserved digit or a value that is no number is flagged. R190 to R195, R202, R203:
a code of any type that is neither a NaN nor the reserved digit stands for a value that converts back to that code, bit for bit. -/
def Obligations.VectorConversions : Prop :=
  (∀ (s : State) (o : VC),
    let wx := etWidth o.x
    let wy := etWidth o.y
    let wt := etWidth o.et
    let A := SMap.get s.a.v o.a.toNat
    let B := SMap.get s.a.v o.b.toNat
    let i := o.i.toNat
    let both := fun (p e : Instr) (lat occ steps : Nat) (f : Bool → List VPut) (flag : Option Nat) =>
      VxDoes p s o.ramp lat occ steps (f false) flag ∧ VxDoes e s o.ramp lat occ steps (f true) flag
    let m := 1024 / max wx wy
    let mr := 1024 / max wx (max wy wt)
    let sk := if wx < wy then i else 0
    let dk := if wy < wx then i else 0
    let nv := fun j => narrowCode (valOf o.x (elem wx A j)) o.y
    let ex := fun j => shoalExp (elem 8 B ((i * m + j) / 64))
    let src := fun g => valOf o.x (elem wx (SMap.get s.a.v (o.a.toNat + g / (1024 / wx))) (g % (1024 / wx)))
    let p := 16 * (o.x.toNat % 2) + i + 1
    let t := fun g => digitOf (elem 2 A g) * (2 ^ (24 - p) : Nat)
    both (.vcvt o) (.evcvt o) 4 1 3072 (fun w => [putPart w o.d o.y dk m fun j => conv (valOf o.x (elem wx A (sk * m + j))) o.y])
      (digitFlag o.x A (sk * m) m) ∧
    both (.vcvr o) (.evcvr o) 4 1 3072 (fun w => [putPart w o.d o.y i (1024 / wx) nv,
        putPart w o.b o.et (i % (wx / wt)) (1024 / wx) fun j => residueCode (valOf o.x (elem wx A j)) (nv j) o.y o.et])
      (digitFlag o.x A 0 (1024 / wx)) ∧
    both (.vmerge o) (.evmerge o) 2 1 1024 (fun w => [putPart w o.d o.y (i % (1024 / (mr * wy))) mr fun j =>
        let a := valOf o.x (elem wx A (i * mr + j))
        let b := valOf o.et (elem wt B (i % (1024 / (mr * wt)) * mr + j))
        conv (if b.isZero then a else a.add b) o.y])
      (digitFlag o.x A (i * mr) mr <|> digitFlag o.et B (i % (1024 / (mr * wt)) * mr) mr) ∧
    both (.vshoal o) (.evshoal o) 2 1 2048 (fun w => [putV w o.d allBits (rowFrom 8 i 1 fun _ => shoalByte o.x o.y A)]) none ∧
    (etFloat o.x = true → both (.vscale o) (.evscale o) 4 1 2048 (fun w => [putPart w o.d o.y i m fun j => match ex j with
        | some e => conv ((valOf o.x (elem wx A j)).scale (-e)) o.y
        | none => 0]) none) ∧
    (etFloat o.x = false → o.x ≠ 3 → both (.vscale o) (.evscale o) 4 1 2048 (fun w => [putV w o.d allBits (rowOf wy fun j => match ex j with
        | some e => conv ((valOf o.x (elem wx A (i * m + j))).scale e) o.y
        | none => 0)])
      (if (List.range m).any fun j => (ex j).isSome && digitBad o.x (elem wx A (i * m + j)) then some 0x30 else none)) ∧
    (o.x = 3 → both (.vscale o) (.evscale o) 4 1 2048 (fun w => [putV w o.d allBits (rowOf 32 fun j => match ex j with
        | some e => conv ((valOf 3 (elem 32 A j)).scale (e - 24)) 6
        | none => 0)]) none) ∧
    both (.vbpenc o) (.evbpenc o) (if o.x = 6 then 6 else 4) (if o.x = 6 then 4 else 2) 2048 (fun w => [putV w o.d allBits (rowOf 2 fun g =>
        match shoalExp (elem 8 B (g / 64)) with
        | some e => digitCode (planeDigit (src g) e (i + 1))
        | none => 0)])
      (if (List.range 512).any fun g => (shoalExp (elem 8 B (g / 64))).isSome && !(src g).isFinite then some 0x32 else none) ∧
    both (.vbpdec o) (.evbpdec o) 6 4 2048 (fun w => (List.range 16).map fun k =>
        if w then .ovr (o.d.toNat + k) allBits (rowOf 32 fun j => wrapTo 32 (if o.x.getLsbD 3 then -(t (32 * k + j)) else t (32 * k + j)))
        else if o.x.getLsbD 3 then .sub (o.d.toNat + k) 32 (rowOf 32 fun j => wrapTo 32 (t (32 * k + j)))
        else .add (o.d.toNat + k) 32 (rowOf 32 fun j => wrapTo 32 (t (32 * k + j)))) (digitFlag 11 A 0 512) ∧
    both (.vredadd o) (.evredadd o) 6 1 4096 (fun w => [putV w o.d allBits (rowFrom wy i 1 fun _ => reduceAdd o A)]) none ∧
    both (.vredmax o) (.evredmax o) 6 1 4096 (fun w => [putV w o.d allBits (rowFrom wy i 1 fun _ => reduceBy Val.max o A)]) none ∧
    both (.vredmin o) (.evredmin o) 6 1 4096 (fun w => [putV w o.d allBits (rowFrom wy i 1 fun _ => reduceBy Val.min o A)]) none ∧
    both (.vscan o) (.evscan o) 6 1 4096 (fun w => [putV w o.d allBits (rowOf wx fun j => scanTo o.x A (j - j % 2 ^ i) (j % 2 ^ i))]) none) ∧
  (∀ (et : BitVec 4) (c : Nat), et.toNat ≤ 13 → c < 2 ^ etWidth et → (valOf et c).isNan = false → digitBad et c = false →
    conv (valOf et c) et = c)

/-- R240, R241 with the times of R215 and the bit-steps of R86: what the moves, permutes, scalar forms and mask operations put; the scalar source is taken
at issue, and vext XORs its element into the scalar a core cycle after the first core edge from S + 2r on, where it is charged. -/
def Obligations.VectorMovesAndMasks : Prop :=
  ∀ (s : State) (d a b : VReg) (q : Reg) (k x y : MReg) (m : BitVec 12) (imm : BitVec 17) (et : BitVec 4) (r : BitVec 2),
    let n := etWidth et
    let A := SMap.get s.a.v a.toNat
    let B := SMap.get s.a.v b.toNat
    let both := fun (p e : Instr) (cap : Word) (f : Bool → Word → List VPut) =>
      VxTakes p s r 2 1 1024 cap (f false) none ∧ VxTakes e s r 2 1 1024 cap (f true) none
    let masks := fun (p e : Instr) (v : BitVec 128) =>
      VxDoes p s r 1 1 128 [.mxor k v] none ∧ VxDoes e s r 1 1 128 [.movr k v] none
    let cost := 1024 * (2048 / 2 ^ r.toNat)
    let t := s.a.edge 0 s.now + s.a.div.core
    let v := if etInt et && isSigned et then BitVec.ofInt 64 (intOf et (elem n A imm.toNat)) else BitVec.ofNat 64 (elem n A imm.toNat)
    Elementwise (.vperm ⟨d, a, b, m, et, r⟩) (.evperm ⟨d, a, b, m, et, r⟩) s d r 2 1 1024 n
      (fun j => elem n A (elem n B (smodIndex m j) % (1024 / n))) ∧
    both (.vrmg ⟨d, a, b, q, r⟩) (.evrmg ⟨d, a, b, q, r⟩) (s.rdS q) (fun w c =>
      [putV w d allBits (((B ++ A) >>> (8 * (c.toNat % 128))).setWidth 1024)]) ∧
    both (.vbcast ⟨d, q, et, r⟩) (.evbcast ⟨d, q, et, r⟩) (s.rdS q) (fun w c => [putV w d allBits (rowOf n fun _ => c.toNat)]) ∧
    both (.vins ⟨d, q, imm, et, r⟩) (.evins ⟨d, q, imm, et, r⟩) (s.rdS q) (fun w c =>
      [putV w d (partMask n imm.toNat 1) (rowFrom n imm.toNat 1 fun _ => c.toNat)]) ∧
    (∀ c t, Issues (.vext ⟨q, a, imm, et, r⟩) (s.given (.restart c t)) (s.given (.restart c t))
      ⟨s.now + 2 * 2 ^ r.toNat * s.a.div.vx, 2, s.ev.seq, s.a.n, .vx, .vectorResultLand, .reply (.sx q) v none cost⟩) ∧
    (s.a.edge 1 s.now = s.now → Issues (.vext ⟨q, a, imm, et, r⟩) (s.given .none) ((s.given .none).vxTaken r 1)
      ⟨s.now + 2 * 2 ^ r.toNat * s.a.div.vx, 2, s.ev.seq, s.a.n, .vx, .vectorResultLand, .reply (.sx q) v none cost⟩) ∧
    Issues .vectorResultLand (s.given (.reply (.sx q) v none cost))
      { s.given (.reply (.sx q) v none cost) with a := { s.a with st := { s.a.st with due := s.a.st.due ++ [(t, cost)] } } }
      ⟨t, 2, s.ev.seq, s.a.n, .vx, .scalarResultLand, .land (.sx q) v⟩ ∧
    (s.a.edge 1 s.now ≠ s.now → Issues (.vext ⟨q, a, imm, et, r⟩) (s.given .none) ((s.given .none).vxTaken r 1)
      ⟨s.a.edge 1 s.now, 4, s.ev.seq, s.a.n, .vx, .vext ⟨q, a, imm, et, r⟩, .restart 0 s.now⟩) ∧
    masks (.mand ⟨k, x, y, r⟩) (.emand ⟨k, x, y, r⟩) (s.rdM x &&& s.rdM y) ∧
    masks (.mor ⟨k, x, y, r⟩) (.emor ⟨k, x, y, r⟩) (s.rdM x ||| s.rdM y) ∧
    masks (.mnot ⟨k, x, r⟩) (.emnot ⟨k, x, r⟩) (~~~s.rdM x)

/-- R155, R242, R243: a load of a row is read at ring cycle T + h, and a store is written at W; both take the engine for one operation, their lanes and
their port, and carry their charges; a load that collisions put off is deposited as much later. R242, R243: a store that was put off to the next
vector edge takes its register then, and is written at the tick that its issue fixed. R244: vldx reads eight rows, one in each station, that its
register names at issue, and its gathered row is deposited at S + 15r; the deposit waits until all eight have been read, and its element j comes from
the row in the station that its selector names. R152, R217, R218, R242, R243: what the steps at the stations and at VX do for a load and a store, with
no copy burst on the port: the row is read and deposited at the first vector edge from the later of its times on, and a store changes its row and no
other byte. -/
def Obligations.VectorRowsMove : Prop :=
  (∀ (s : State) (d : VReg) (q : Reg) (imm : BitVec 17) (r : BitVec 2),
    let ea := s.rdS q + BitVec.ofNat 64 (128 * imm.toNat)
    let row := (ea.extractLsb' 7 16).toNat
    let h := hopsVX row
    let ring := s.a.div.ring
    let vx := s.a.div.vx
    let T := s.a.edge 4 s.now
    let S := s.a.edge 1 s.now
    let cost := 1024 * (2048 / 2 ^ r.toNat) + 65536 + 8192 * h
    let W := s.a.edge 4 (max (S + 2 ^ r.toNat * (h + 1) * vx) (T + (h + 1) * ring))
    let o : VSt := ⟨d, q, imm, r⟩
    LocalAddr ea → s.pfxSpace < 2 → (s.a.st.rgn = none ∨ s.a.res = []) →
    (∀ p ∈ [(Instr.vld ⟨d, q, imm, r⟩, VDest.xor), (.evld ⟨d, q, imm, r⟩, .ovr)],
      VxRow p.1 (s.given .none) r (s.loadReq row T) (T + h * ring) 0 .vldRowRead
        (fun k => .vread row d.toNat p.2 (S + 2 ^ r.toNat * (2 * h + 1) * vx + k * ring) cost 0)) ∧
    (∀ p ∈ [(Instr.vst o, false), (.evst o, true)],
      (S = s.now → VxRow p.1 (s.given .none) r (s.storeReq row W) W 1 .vstRowWrite
        (fun _ => .vwrite row (SMap.get s.a.v d.toNat) p.2 cost)) ∧
      (S ≠ s.now → ∃ k, (s.a.res = [] → k = 0) ∧ Issues p.1 (s.given .none) (((s.given .none).reserve (s.storeReq row W) k).vxTaken r 1)
        ⟨S, 4, s.ev.seq, s.a.n, .vx, p.1, .restart (BitVec.ofNat 64 row) (W + k * ring)⟩))) ∧
  (∀ (s : State) (d : VReg) (q : Reg) (imm : BitVec 17) (r : BitVec 2) (w : Bool) (row t : Nat), row < 2 ^ 16 →
    let o : VSt := ⟨d, q, imm, r⟩
    let u := s.given (.restart (BitVec.ofNat 64 row) t)
    Issues (if w then .evst o else .vst o) u u ⟨t, 1, s.ev.seq, s.a.n, .vx, .vstRowWrite,
      .vwrite row (SMap.get s.a.v d.toNat) w (1024 * (2048 / 2 ^ r.toNat) + 65536 + 8192 * hopsVX row)⟩) ∧
  (∀ (s : State) (d a : VReg) (et : BitVec 4) (r : BitVec 2) (id c j : Nat) (sel : Row) (rows : Nat → Row),
    let A := SMap.get s.a.v a.toNat
    let n := etWidth et
    let h := fun k => hopsVX k
    (s.pfxSpace < 2 → (s.a.st.rgn = none ∨ s.a.res = []) →
      ∀ i ∈ [Instr.vldx ⟨d, a, et, r⟩, .evldx ⟨d, a, et, r⟩], ∃ t, exec i (s.given .none) = .next t ∧
        t.a.vbusy = s.a.edge 1 s.now + 2 ^ r.toNat * s.a.div.vx ∧ t.a.v = s.a.v ∧ t.a.sp = s.a.sp ∧ t.a.st = s.a.st ∧
        (∀ k < 8, ∃ e ∈ t.agenda, e.i = .vldRowRead ∧ (s.a.res = [] → e.tick = s.a.edge 4 s.now + h k * s.a.div.ring) ∧
          e.arg = .vread (8 * (elem 16 A k / 8 % 6144) + k) d.toNat (.gather (s.ev.seq * 8 + k)) 0 0 0) ∧
        ∃ e ∈ t.agenda, e.i = .vldDeposit ∧ e.phase = 2 ∧
          e.arg = .vfill (s.ev.seq * 8) d.toNat n A (i == .evldx ⟨d, a, et, r⟩) (1024 * (2048 / 2 ^ r.toNat) + 8 * 65536 + 32 * 8192)) ∧
    (4 ≤ n → j < 1024 / n → (∀ k < 8, s.a.latch.find? (fun l => l.1 == id + k) = some (id + k, rows k)) →
      ∃ t, exec .vldDeposit (s.given (.vfill id d.toNat n sel false c)) = .next t ∧
        elem n (SMap.get t.a.v d.toNat) j =
          elem n (SMap.get s.a.v d.toNat) j ^^^ elem n (rows (sel.toNat / 2 ^ (128 + 3 * j) % 8)) j ∧
        (∀ q, q ≠ d.toNat → SMap.get t.a.v q = SMap.get s.a.v q) ∧ t.a.sp = s.a.sp)) ∧
  (∀ (s : State) (row d lim c j : Nat) (v : Row) (ovr : Bool),
    let back := s.a.edge 1 (max lim (s.now + (hopsVX row + 1) * s.a.div.ring))
    let old := Mem.row s.a.sp row
    let new := if ovr then v else old ^^^ v
    s.a.burst = [] →
    (∀ p ∈ [(VDest.xor, VPut.xor d old), (.ovr, .ovr d allBits old)],
      Issues .vldRowRead (s.given (.vread row d p.1 lim c 0)) (s.given (.vread row d p.1 lim c 0))
        ⟨back, 2, s.ev.seq, s.a.n, .vx, .vldDeposit, .puts [p.2] c none⟩) ∧
    (∀ k, ∃ t, exec .vldRowRead (s.given (.vread row d (.gather k) lim c 0)) = .next t ∧
      t = { s.given (.vread row d (.gather k) lim c 0) with agenda := t.agenda, a := { s.a with latch := s.a.latch ++ [(k, old)] } } ∧
      ∀ e, (∀ g q w f o n, e.arg = .vfill g q w f o n → e.atoll = s.a.n → g / 8 ≠ k / 8 ∨ back ≤ e.tick) → (e ∈ s.agenda → e ∈ t.agenda)) ∧
    (∃ t, exec .vstRowWrite (s.given (.vwrite row v ovr c)) = .next t ∧
      (∀ q, Mem.row t.a.sp q = if q = row then new else Mem.row s.a.sp q) ∧ t.a.v = s.a.v ∧ t.a.masks = s.a.masks ∧
      t.a.st.regs = s.a.st.regs ∧ t.others = s.others ∧ t.dev = s.dev) ∧
    ∀ p, exec .vldDeposit (s.given (.puts p c none)) = exec .vectorResultLand (s.given (.puts p c none)))

/-- R56, R92 to R95, R245: hpush and hpop move between a register and the row of the history stack at its top, DEPTH counts them at t+1, and the checks of
R94 raise their traps: a bad grotto, a full or an empty stack, a row or a register that is not zero, no HOVF; with the on-chip part full the strand
waits for a spill of the entry in the way, or for the refill of a popped row. R94, R95, R152, R352, R354: a spilled entry is read once nothing of VX
is due for its row and its read port is free, and leaves for its row of the overflow area, which changes and nothing else does, when its channel
serves it; a row that refills leaves for its on-chip row, as zero with the data flag set when it is poisoned, enters it by XOR when the write port is
free, and the wait of the strand ends. Nominal times are free values (log 1). -/
def Obligations.HistoryMoves : Prop :=
  (∀ (s : State) (a : VReg) (r : BitVec 2),
    let base := (s.a.st.grBase.extractLsb' 0 16).toNat
    let spill := (s.a.st.grBase.extractLsb' 32 16).toNat
    let rows := (s.a.st.grRows.extractLsb' 0 16).toNat
    let depth := (s.a.st.grRows.extractLsb' 32 32).toNat
    let H := rows - spill
    let row := fun (e : Nat) => base + spill + e % H
    let good := spill < rows ∧ base + rows ≤ 49152
    let hovf := s.a.st.hovf
    let frame := (hovf.extractLsb' 16 32).toNat
    let byte := fun (e : Nat) => frame * 2 ^ 16 + 128 * (e - H)
    let fits := fun (e : Nat) => hovf.getLsbD 63 = true ∧ 128 * (e - H) < (if hovf.getLsbD 62 then 2 ^ 21 else 2 ^ 16) ∧
      (s.pfxSpace = 0 ∨ s.pfxSpace = (hovf.extractLsb' 60 2).toNat)
    let waits := fun (t : State) => Wait.history ∈ t.a.st.waits ∧ NoFetch t s.a.n
    let o : VA := ⟨a, r⟩
    let deep := fun (up : Bool) => (⟨s.a.edge 0 s.now + s.a.div.core, 3, s.ev.seq, s.a.n, .core, .scalarResultLand,
      .land (.depth up) 0⟩ : Ev)
    s.pfxSpace < 2 → s.a.st.rgn = none →
    (¬good → Raises (.hpush o) (s.given .none) 15 1 ∧ Raises (.hpop o) (s.given .none) 15 1) ∧
    (good → depth = 2 ^ 32 - 1 → Raises (.hpush o) (s.given .none) 15 2) ∧
    (good → depth = 0 → Raises (.hpop o) (s.given .none) 15 3) ∧
    (good → 0 < depth → SMap.get s.a.v a.toNat ≠ 0 → Raises (.hpop o) (s.given .none) 13 a.toNat) ∧
    (good → depth < H → Mem.row s.a.sp (row depth) ≠ 0 →
      Raises (.hpush o) (s.given .none) 13 (a.toNat + 2 ^ 11 + row depth * 2 ^ 12)) ∧
    (good → depth < H → Mem.row s.a.sp (row depth) = 0 →
      ∃ t, exec (.hpush o) (s.given .none) = .next t ∧ deep true ∈ t.agenda ∧ t.a.sp = s.a.sp ∧ t.a.v = s.a.v ∧ t.a.st.regs = s.a.st.regs ∧
        t.a.vbusy = s.a.edge 1 s.now + 2 ^ r.toNat * s.a.div.vx) ∧
    (good → 0 < depth → depth ≤ H → SMap.get s.a.v a.toNat = 0 →
      ∃ t, exec (.hpop o) (s.given .none) = .next t ∧ deep false ∈ t.agenda ∧ t.a.sp = s.a.sp ∧ t.a.v = s.a.v ∧ t.a.st.regs = s.a.st.regs ∧
        ∃ e ∈ t.agenda, e.i = .vldRowRead ∧ ∃ lim c w, e.arg = .vread (row (depth - 1)) a.toNat .pop lim c w) ∧
    (good → H ≤ depth → depth < 2 ^ 32 - 1 → hovf.getLsbD 63 = false → Raises (.hpush o) (s.given .none) 5 513) ∧
    (good → H ≤ depth → depth < 2 ^ 32 - 1 → fits depth →
      ∃ t, exec (.hpush o) (s.given .none) = .next t ∧ deep true ∈ t.agenda ∧ t.a.sp = s.a.sp ∧ t.a.v = s.a.v ∧ waits t ∧
        ∃ e ∈ t.agenda, e.i = .historyTransferDone ∧ e.tick = s.a.edge 0 s.now + s.a.div.core ∧
          e.arg = .spill (row depth) (byte depth) frame) ∧
    (good → H < depth → SMap.get s.a.v a.toNat = 0 → fits (depth - 1) →
      ∃ t, exec (.hpop o) (s.given .none) = .next t ∧ deep false ∈ t.agenda ∧ t.a.sp = s.a.sp ∧ t.a.v = s.a.v ∧ waits t ∧
        (∃ e ∈ t.agenda, e.i = .vldRowRead ∧ ∃ lim c w, e.arg = .vread (row (depth - 1)) a.toNat .pop lim c w) ∧
        ∃ e ∈ t.agenda, e.i = .historyTransferDone ∧ s.a.edge 0 s.now + s.a.div.core ≤ e.tick ∧
          e.arg = .hist true (row (depth - 1)) (byte (depth - 1)) frame 0) ∧
    (∀ w t spills, w < 2 ^ 16 → ∃ u, exec (.hpush o) (s.given (.restart (BitVec.ofNat 64 (w + if spills then 2 ^ 16 else 0)) t)) = .next u ∧ u.a = s.a ∧
      (∃ e ∈ u.agenda, e.i = .vectorResultLand ∧ e.tick = s.now + 2 * 2 ^ r.toNat * s.a.div.vx ∧
        e.arg = .puts [.xor a.toNat (SMap.get s.a.v a.toNat)] 0 none) ∧
      ∃ e ∈ u.agenda, e.i = .vstRowWrite ∧ e.tick = t ∧ e.arg = .vwrite w (SMap.get s.a.v a.toNat) spills
        (1024 * (2048 / 2 ^ r.toNat) + 65536 + 8192 * hopsVX w + if spills then 65536 else 0))) ∧
  (∀ (s : State) (row byte frame q : Nat) (v : Row),
    let src := byte / 128
    let done := fun (t : State) => (s.a.st.wait = .history → s.a.st.more = [] → t.a.st.wait = .none ∧
      OnlyFetch t s.a.n (max (s.a.edge 0 s.now + s.a.div.core) s.a.st.ready))
    let refills := fun (x : Row) (t : State) => t.a.sp = s.a.sp ∧ t.a.v = s.a.v ∧
      ∃ e ∈ t.agenda, e.i = .vstRowWrite ∧ e.atoll = s.a.n ∧ e.arg = .refill row x ∧ (0 < s.a.div.ring → s.now ≤ e.tick)
    (s.a.edge 4 s.now = s.now → s.a.burst = [] → (s.now, 1000 + row % 8) ∉ s.a.res → (∀ e ∈ s.agenda, e.ofRow s.a.n row = false) →
      ∃ t, exec .historyTransferDone (s.given (.spill row byte frame)) = .next t ∧
        t.a = { s.a with res := s.a.res ++ [(s.now, 1000 + row % 8)] } ∧
        ∃ e ∈ t.agenda, e.i = .historyTransferDone ∧ e.tick = s.now + Config.nominal s.free ∧
          e.arg = .hist false row byte frame (Mem.row s.a.sp row)) ∧
    (s.dev.dead src = false → s.served src s.a.slot true = true →
      ∃ t, exec .historyTransferDone (s.given (.hist false row byte frame v)) = .next t ∧
        Mem.row t.dev.mem q = (if q = src then v else Mem.row s.dev.mem q) ∧ t.dev.poison = s.dev.poison.filter (fun p => p != src) ∧
        t.a.sp = s.a.sp ∧ t.a.v = s.a.v ∧ done t) ∧
    (s.served src s.a.slot false = true → (src, true) ∉ s.dev.errs →
      (s.dev.bad src = false → ∃ t, exec .historyTransferDone (s.given (.hist true row byte frame 0)) = .next t ∧
        refills (Mem.row s.dev.mem src) t) ∧
      (s.dev.bad src = true → s.a.st.dflag = none → ∃ t, exec .historyTransferDone (s.given (.hist true row byte frame 0)) = .next t ∧
        refills 0 t ∧ t.a.st.dflag = some 0x73)) ∧
    (s.a.edge 4 s.now = s.now → s.a.burst = [] → (s.now, 1000 + row % 8 + 8) ∉ s.a.res →
      ∃ t, exec .vstRowWrite (s.given (.refill row v)) = .next t ∧
        Mem.row t.a.sp q = (if q = row then Mem.row s.a.sp row ^^^ v else Mem.row s.a.sp q) ∧ t.a.v = s.a.v ∧ done t))

/-! ## Matrix and rotator arrays (R249 to R292) -/

/-- R254 to R256: mring sets a ring register to its base row, its size and nothing published, or reads it at t+2, or loads it in privileged code; mtail
publishes rows; fmtq appends a word. What each raises when its operands are outside the limits. R94, R254 to R256, R286: what lands in a ring
register, in the count of one, in FQ, in RTM and in the history's depth, and nothing else. -/
def Obligations.RingsAndEngineRegisters : Prop :=
  (∀ (s : State) (x : Ring) (a b : Reg), s.ev.arg = .none →
    let A := s.rdS a
    let B := (s.rdS b).toNat
    let row := (A.extractLsb' 7 16).toNat
    let V := s.rdS a
    let base := (V.extractLsb' 48 16).toNat
    let size := (V.extractLsb' 32 16).toNat
    let head := (V.extractLsb' 16 16).toNat
    let cnt := (V.extractLsb' 0 16).toNat
    let within := size % 8 = 0 ∧ base + size ≤ 49152 ∧ (size = 0 → head = 0 ∧ cnt = 0) ∧ (size ≠ 0 → head < size ∧ cnt ≤ size)
    let room := A.toNat < 2 ^ 16 ∧
      ((s.ring x).extractLsb' 0 16).toNat + A.toNat + s.a.writeClaimed x ≤ ((s.ring x).extractLsb' 32 16).toNat
    Gives (.mringRead ⟨x, a⟩) s 2 (.s a) (s.ring x) ∧
    (room → Gives (.mtail ⟨x, a⟩) s 1 (.tail x) A) ∧
    (¬room → Raises (.mtail ⟨x, a⟩) s 15 0x40) ∧
    (s.a.st.rgn = none ∨ s.a.fq.length < 16 → Gives (.fmtq ⟨a⟩) s 1 .fq A) ∧
    (s.a.st.rgn.isSome ∧ 16 ≤ s.a.fq.length → Raises (.fmtq ⟨a⟩) s 9 (5 + s.regionCycle * 2 ^ 16)) ∧
    (s.a.st.rgn.isSome → Raises (.mringSet ⟨x, a, b⟩) s 7 s.a.st.pos) ∧
    (s.a.st.rgn = none →
      (A.getLsbD 39 = true → Raises (.mringSet ⟨x, a, b⟩) s 15 0x12) ∧
      (A.getLsbD 39 = false → ¬(B ≠ 0 ∧ B % 8 = 0 ∧ row + B ≤ 49152) → Raises (.mringSet ⟨x, a, b⟩) s 15 0x42) ∧
      (A.getLsbD 39 = false → B ≠ 0 ∧ B % 8 = 0 ∧ row + B ≤ 49152 →
        Gives (.mringSet ⟨x, a, b⟩) s 1 (.ring x) (A.extractLsb' 7 16 ++ (s.rdS b).extractLsb' 0 16 ++ 0#32))) ∧
    (s.privileged = false → Raises (.mringLoad ⟨x, a⟩) s 14 (7 + s.a.st.pos * 256)) ∧
    (s.privileged = true → s.a.st.rgn.isSome → Raises (.mringLoad ⟨x, a⟩) s 7 s.a.st.pos) ∧
    (s.privileged = true → s.a.st.rgn = none →
      (within → Gives (.mringLoad ⟨x, a⟩) s 1 (.ring x) V) ∧ (¬within → Raises (.mringLoad ⟨x, a⟩) s 15 0x42))) ∧
  (∀ (s : State) (x y : Ring) (v : Word),
    (∃ t, exec .scalarResultLand (s.given (.land (.ring x) v)) = .next t ∧ t.ring y = (if y = x then v else s.ring y) ∧
      t = { s.given (.land (.ring x) v) with a := { s.a with rings := t.a.rings } }) ∧
    (((s.ring x).extractLsb' 0 16).toNat + v.toNat < 2 ^ 16 →
      ∃ t, exec .scalarResultLand (s.given (.land (.tail x) v)) = .next t ∧
      t.ring y = (if y = x then s.ring x + v else s.ring y) ∧
      t = { s.given (.land (.tail x) v) with a := { s.a with rings := t.a.rings } }) ∧
    exec .scalarResultLand (s.given (.land .fq v)) =
      .next { s.given (.land .fq v) with a := { s.a with fq := s.a.fq ++ [(none, v)] } } ∧
    exec .scalarResultLand (s.given (.land .rtm v)) = .next { s.given (.land .rtm v) with a := { s.a with rtm := v } } ∧
    ∀ up : Bool, up = true ∨ s.a.st.grRows.extractLsb' 32 32 ≠ 0 →
      ∃ t, exec .scalarResultLand (s.given (.land (.depth up) v)) = .next t ∧
      t.a.st.grRows.extractLsb' 32 32 = (if up then s.a.st.grRows.extractLsb' 32 32 + 1 else s.a.st.grRows.extractLsb' 32 32 - 1) ∧
      t.a.st.grRows.extractLsb' 0 32 = s.a.st.grRows.extractLsb' 0 32 ∧
      t = { s.given (.land (.depth up) v) with a := { s.a with st := { s.a.st with grRows := t.a.st.grRows } } })

/-- R252, R260 to R267: a product makes the checks of R260 in their order; when they pass it takes the oldest free word, claims its rows, occupies the
array for r·V·Ml matrix cycles from S and retires at W of its last vector. R252, R258, R259, R260, R265: mwld takes the oldest free word, claims its
rows, sets the weight shape and occupies the array for r·Nl cycles; emclr sets the shape to none and occupies it for one. What mwld raises instead, in
order. R50, R155, R262, R263, R288: a stamped command of either array raises T_ILL outside a region; in one it raises T_MISS with reason 0x1 after its
cycle, and with reason 0x2 when its array is not free at its start. -/
def Obligations.MatrixCommandsStart : Prop :=
  (∀ (s : State) (x : Ring) (a : Reg) (st : Option (BitVec 10)) (ramp : BitVec 2) (k : MKind) (S : Nat), s.ev.arg = .none →
    k = .macr ∨ k = .masr ∨ k = .mul ∨ k = .fma →
    let o : ProdOp := ⟨x, a, st, ramp⟩
    Punctual s 2 s.a.mbusy st S → s.jobLane (productJob k o s) st = none →
    let i : Instr := match k with
      | .macr => .mmacr o | .masr => .mmasr o | .mul => .emmul o | _ => .emfma o
    let acc := if k = .mul then 0 else 1
    let row := ((s.rdS a).extractLsb' 7 16).toNat
    if s.a.div.mx ≠ s.a.div.ring then Raises i s 15 0x41
    else match s.a.fqNext with
      | none => ∃ info, Raises i s 3 info
      | some w =>
        let V := (actRows w + 7) / 8 + acc
        let r := 2 ^ ramp.toNat
        if fLegal w = false then Raises i s 1 (s.a.st.pos + 256)
        else if s.a.shape.map shapeOf ≠ some (shapeOf w) then Raises i s 1 (s.a.st.pos + 512)
        else if (k = .macr ∨ k = .masr) ∧ fFloating w = true ∨ k = .fma ∧ fFloating w = false then Raises i s 1 (s.a.st.pos + 512)
        else if (s.rdS a).getLsbD 39 = true then Raises i s 15 0x12
        else if 49152 < row + accRows w * fMl w then Raises i s 15 0x10
        else if s.unclaimed x < actRows w * fMl w then Raises i s 9 (3 + s.regionCycle * 2 ^ 16)
        else MxStarts i s S (r * V * fMl w)
          ([(1, 0, .matrixActivationRead, 0), (1 + V + 7, 0, .matrixWeightCapture, 0), (r * (V + 31), 1, .matrixWriteback, 0),
            (r * (V * (fMl w - 1) + V + 31), 3, .matrixRetire, 0)] ++ if acc = 1 then [(V, 0, .matrixAccumulatorRead, 0)] else [])
          (takeFq s.ev.seq s.a.fq) s.a.shape fun j =>
          j.kind = k ∧ j.word = w ∧ j.base = row ∧ j.ring = x ∧ j.first = s.claimFirst x ∧
            j.rows = actRows w * fMl w ∧ j.ramp = r ∧ j.chg = macSteps w * fKl w * fNl w * fMl w * (2048 / r)) ∧
  (∀ (s : State) (y : Ring) (st : Option (BitVec 10)) (ramp : BitVec 2) (S : Nat), s.ev.arg = .none →
    Punctual s 2 s.a.mbusy st S → s.jobLane (mwldJob ⟨y, st, ramp⟩ s) st = none →
    let i : Instr := .mwld ⟨y, st, ramp⟩
    let r := 2 ^ ramp.toNat
    (if s.a.div.mx ≠ s.a.div.ring then Raises i s 15 0x41
    else match s.a.fqNext with
      | none => ∃ info, Raises i s 3 info
      | some w =>
        if fLegal w = false then Raises i s 1 (s.a.st.pos + 256)
        else if s.unclaimed y < colRows w * fNl w then Raises i s 9 (4 + s.regionCycle * 2 ^ 16)
        else MxStarts i s S (r * fNl w)
          [(1, 0, .matrixActivationRead, 0), (9, 1, .weightLoadChange, 0), (r * (fNl w - 1) + 9, 3, .matrixRetire, 0)] (takeFq s.ev.seq s.a.fq) (some w) fun j =>
          j.kind = .wld ∧ j.word = w ∧ j.ring = y ∧ j.first = s.claimFirst y ∧ j.rows = colRows w * fNl w ∧ j.ramp = r) ∧
    MxStarts (.emclr ⟨st⟩) s S 1 [(9, 1, .weightLoadChange, 0), (9, 3, .matrixRetire, 0)] s.a.fq none fun j => j.kind = .clr ∧ j.rows = 0 ∧ j.chg = 0) ∧
  (∀ (s : State) (c : BitVec 10) (o : ProdOp) (w : MwldOp) (q : RtqrOp) (a : RtaplOp) (v : RtinvQOp) (z : RtsolveOp) (g : RtrwOp),
    s.ev.arg = .none → o.stamp = some c → w.stamp = some c → q.stamp = some c → a.stamp = some c → v.stamp = some c → z.stamp = some c →
    g.stamp = some c →
    (s.a.st.rgn = none → ∀ i ∈ [Instr.mmacr o, .mmasr o, .emmul o, .emfma o, .mwld w, .emclr ⟨some c⟩, .rtqr q, .rtapl a, .rtinvApl a, .rtinvQr v,
      .rtsolve z, .rtrd g, .rtwr g, .ertclr ⟨some c⟩], Raises i s 1 s.a.st.pos) ∧
    (s.a.st.rgn.isSome → c.toNat < s.regionCycle → Raises (.emclr ⟨some c⟩) s 9 (1 + s.regionCycle * 2 ^ 16) ∧
      (s.a.div.rt = s.a.div.ring → Raises (.ertclr ⟨some c⟩) s 9 (1 + s.regionCycle * 2 ^ 16))) ∧
    (s.a.st.rgn.isSome → s.regionCycle ≤ c.toNat →
      let at' := fun k => s.a.edge k (s.a.edge 0 s.now + (c.toNat - s.regionCycle) * s.a.div.core)
      (at' 2 < s.a.mbusy → Raises (.emclr ⟨some c⟩) s 9 (2 + s.regionCycle * 2 ^ 16)) ∧
      (s.a.div.rt = s.a.div.ring → at' 3 < s.rtFree .clr → Raises (.ertclr ⟨some c⟩) s 9 (2 + s.regionCycle * 2 ^ 16))))

/-- R257 to R259, R264, R265, R267: what the steps of a command j of the array do when no copy burst holds a port they need. Rows of vector m or column m
are read from their ring positions, accumulator rows from the accumulator area; a column's cells change by XOR, or every cell becomes 0; a vector's
rows are written; at retirement claim, word and charge are given up, and the first data flag in time stands, of one core cycle the lowest (R196).
Nothing else changes but the agenda. R206 to R208, R257, R261: a column's new accumulator elements. With INT8 operands and no shoals the column takes
the wrapped sum, over the reduction, of the products of its operands times 2^FB, added to the old elements, subtracted from them, or alone; beyond the
last column the old values stand, or 0; nothing is flagged and no bit destroyed. -/
def Obligations.MatrixStepsRun : Prop :=
  (∀ (s : State) (id m h c : Nat) (j : MJob), s.a.mjob id = some j →
    let g := s.given (.n3 id m h)
    let at' := fun (p : Nat) => rBase (s.ring j.ring) + p % rSize (s.ring j.ring)
    let α := actRows j.word
    let β := colRows j.word
    let read := if j.kind = .wld then (List.range β).map fun i => at' (j.first + β * m + i)
      else (List.range (min 8 (α - 8 * h))).map fun i => at' (j.first + α * m + 8 * h + i)
    let accs := (List.range (accRows j.word)).map fun i => j.base + accRows j.word * m + i
    let out := vectorOut s.a j m
    let first := fun (x y : Option (Nat × Nat)) => match x, y with
      | none, y => y
      | x, none => x
      | some x, some y => if x.1 / s.a.div.core = y.1 / s.a.div.core then some (min x.1 y.1, min x.2 y.2) else if x.1 < y.1 then some x else some y
    let now := fun (f : Option Nat) => f.map fun c => (s.now, c)
    let jobs := fun (t : State) (k : MJob) => t.a.mjob id = some k ∧ (∀ n ≠ id, t.a.mjob n = s.a.mjob n) ∧
      t = { g with agenda := t.agenda, a := { s.a with mjobs := t.a.mjobs } }
    (s.rowsHeld read false = false → ∃ t, exec .matrixActivationRead g = .next t ∧
      jobs t { j with acts := j.acts ++ read.map fun r => (m, Mem.row s.a.sp r), chg := j.chg + mxRowCharge read }) ∧
    (s.rowsHeld accs false = false → ∃ t, exec .matrixAccumulatorRead g = .next t ∧
      jobs t { j with accs := j.accs ++ accs.map fun r => (m, Mem.row s.a.sp r), chg := j.chg + mxRowCharge accs }) ∧
    (∃ t, exec .matrixWeightCapture g = .next t ∧
      jobs t { j with outs := j.outs ++ [(m, out.1)], chg := j.chg + 8192 * out.2.1
                      flag := first j.flag (now out.2.2)
                      acts := j.acts.filter fun x => x.1 != m, accs := j.accs.filter fun x => x.1 != m }) ∧
    (j.kind = .clr → ∃ t n, exec .weightLoadChange g = .next t ∧ SMap.get t.a.weights c = 0 ∧ SMap.get t.a.exps c = 0 ∧
      t.a.mjob id = some { j with chg := j.chg + 8192 * n } ∧
      t = { g with a := { s.a with weights := t.a.weights, exps := t.a.exps, mjobs := t.a.mjobs } }) ∧
    (j.kind = .wld → ∃ t, exec .weightLoadChange g = .next t ∧
      let rows := (j.acts.filter fun x => x.1 == m).map fun x => x.2
      (rows.length = β → fSW j.word ≤ 1 → SMap.get t.a.weights c = SMap.get s.a.weights c ^^^
          (if c = m then (rows.getD 1 0 ++ rows.getD 0 0 : BitVec 2048) else 0) ∧
        SMap.get t.a.exps c = SMap.get s.a.exps c ^^^ (if c = m ∧ fSW j.word = 1 then (rows.getD 2 0).setWidth 128 else 0)) ∧
      t = { g with agenda := t.agenda, a := { s.a with weights := t.a.weights, exps := t.a.exps, mjobs := t.a.mjobs } }) ∧
    (s.rowsHeld accs true = false → ∀ rows : List Row, (j.outs.find? fun x => x.1 == m) = some (m, rows) → rows.length = accRows j.word →
      ∃ t, exec .matrixWriteback g = .next t ∧
      (∀ i < accRows j.word, Mem.row t.a.sp (j.base + accRows j.word * m + i) = rows.getD i 0) ∧
      (∀ q, q ∉ accs → Mem.row t.a.sp q = Mem.row s.a.sp q) ∧ t.a.weights = s.a.weights ∧ t.a.exps = s.a.exps ∧
      t.a.v = s.a.v ∧ t.a.cells = s.a.cells ∧ t.a.rings = s.a.rings ∧ t.a.fq = s.a.fq ∧ t.others = s.others ∧ t.dev = s.dev ∧
      t.host = s.host ∧ t.out = s.out ∧ t.fe = s.fe) ∧
    ∃ t, exec .matrixRetire g = .next t ∧ t.a.mjob id = none ∧ t.a.mjobs = (s.a.mjobs.filter fun k => k.id != id) ∧
      t.a.fq = (s.a.fq.filter fun e => e.1 != some id) ∧
      (∀ x, t.ring x = if x = j.ring ∧ j.rows ≠ 0 then
          ringWord (rBase (s.ring x)) (rSize (s.ring x)) ((rHead (s.ring x) + j.rows) % max 1 (rSize (s.ring x))) (rCnt (s.ring x) - j.rows)
        else s.ring x) ∧
      t.a.st.due = s.a.st.due ++ (if j.chg = 0 then [] else [(s.a.edge 0 s.now, j.chg)]) ∧
      t.a.st.dflag = (first (s.a.st.dflag.map fun k => (s.a.st.dflagAt, k)) j.flag).map (fun f => f.2) ∧
      t.a.freed = s.a.freed ++ (if j.rows = 0 then [] else [(j.ring, s.now)]) ∧
      t = { g with a := { s.a with mjobs := t.a.mjobs, fq := t.a.fq, rings := t.a.rings, freed := t.a.freed
                                   st := { s.a.st with due := t.a.st.due, dflag := t.a.st.dflag, dflagAt := t.a.st.dflagAt } } }) ∧
  (∀ (a : Atoll) (j : MJob) (m c : Nat), j.kind = .macr ∨ j.kind = .masr ∨ j.kind = .mul →
    fAT j.word = 0#4 → fWT j.word = 0#4 → fCT j.word = 13#4 → fSA j.word = 0 → fSW j.word = 0 → c < 16 * accRows j.word →
    let n := fKl j.word
    let byte := fun (x : Nat) (i : Nat) => (BitVec.ofNat 8 (x / 2 ^ (8 * i))).toInt
    let x := joinRows (((j.acts.filter fun r => r.1 == m).map fun r => r.2).take 2)
    let sum := (List.range n).foldl (fun (z : Int) i => z + byte x i * byte (SMap.get a.weights c).toNat i * 2 ^ fFB j.word) 0
    let old := elem 64 (((j.accs.filter fun r => r.1 == m).map fun r => r.2).getD (c / 16) 0) (c % 16)
    let out := vectorOut a j m
    (elem 64 (out.1.getD (c / 16) 0) (c % 16) : Int) =
      (if c < fNl j.word then
        (match j.kind with
          | .macr => (old : Int) + sum
          | .masr => (old : Int) - sum
          | _ => sum) % 2 ^ 64
      else if j.kind = .mul then 0 else (old : Int)) ∧
    out.2.1 = 0 ∧ out.2.2 = none)

/-- R279, R280, R288, R289, R292: a streaming command makes its checks in their order; when they pass it claims its rows, occupies the array for r·L·m
rotator cycles from S and retires at its last write, with its bit-steps to be charged; it takes the N of the last rtgain before it. R274, R279, R286,
R288, R290, R292: a quiet command makes its checks in their order; when they pass it starts, and retires as R290 says. rtgain has no check; its read
form gives sd the value of RTM at t+2. R50, R280, R288, R289, R290: what a rotator command that finds its lanes free starts inside an open region,
with a stamp or without: the same as outside, and without delay. -/
def Obligations.RotatorCommandsStart : Prop :=
  (∀ (s : State) (x y : Ring) (a b : Reg) (P C : BitVec 5) (st : Option (BitVec 10)) (ramp : BitVec 2) (S : Nat) (k : RKind),
    s.ev.arg = .none → k = .qr ∨ k = .apl ∨ k = .invQr ∨ k = .invApl →
    Punctual s 3 (s.rtFree k) st S →
    let i : Instr := match k with
      | .qr => .rtqr ⟨x, y, b, P, st, ramp⟩
      | .apl => .rtapl ⟨x, y, a, b, P, C, st, ramp⟩
      | .invQr => .rtinvQr ⟨y, a, b, P, st, ramp⟩
      | _ => .rtinvApl ⟨x, y, a, b, P, C, st, ramp⟩
    let p := P.toNat + 1
    let c := if k = .apl ∨ k = .invApl then C.toNat + 1 else 0
    let m := (s.rdS b).toNat
    let R := match (s.a.rjobs.filter fun j => j.kind == .gainSet).getLast? with
      | some j => j.rtm
      | none => s.a.rtm
    let n := (R.extractLsb' 0 5).toNat
    let r := 2 ^ ramp.toNat
    let A := (p + 15) / 16
    let row := ((s.rdS a).extractLsb' 7 16).toNat
    let rows := if k = .apl then 2 * m else m
    let nx := if k = .invApl then 2 * m else if k = .invQr then 0 else m
    let also := if x = y ∧ c ≠ 0 then nx else 0
    let used := rCnt (s.ring y) + s.a.writeClaimed y
    let ret := 1 + r * (n + 1) * (m - 1) + 9 + r * ((n + 2) * p + c) + 8 + (if k = .invQr ∨ k = .invApl then 1 else 0)
    let w0 := 1 + 9 + r * ((n + 2) * p + c) + 8
    let steps := [if k = .invQr then (2, 0, .rotatorRowRead, 1) else (1, 0, .rotatorRowRead, 0), (w0, 1, .rotatorRowWrite, 0), (ret, 3, .rotatorRetire, 0)]
    let miss := fun (z : Nat) => Raises i s 9 (z + s.regionCycle * 2 ^ 16)
    if s.a.div.rt ≠ s.a.div.ring then Raises i s 15 0x41
    else if m = 0 ∨ 4096 < m then Raises i s 15 0x44
    else if k ≠ .qr ∧ (s.rdS a).getLsbD 39 = true then Raises i s 15 0x12
    else if k ≠ .qr ∧ 49152 < row + rows then Raises i s 15 0x10
    else if s.unclaimed x < nx then miss 3
    else if k ≠ .qr ∧ s.unclaimed y < A * m + also then miss 4
    else if k = .qr ∧ rSize (s.ring y) < used + A * m then miss 6
    else s.a.st.rgn = none → RtStarts i s S (some (r * (n + 1) * m)) steps fun j =>
      j.kind = k ∧ j.p = p ∧ (c ≠ 0 → j.c = c) ∧ j.m = m ∧ (k ≠ .qr → j.base = row) ∧ j.rtm = R ∧ j.ramp = r ∧
        (nx ≠ 0 → j.xring = x ∧ j.xfirst = s.claimFirst x) ∧ j.xrows = nx ∧ j.yring = y ∧ j.yrows = A * m ∧
        j.yfirst = (if k = .qr then rHead (s.ring y) + used else s.claimFirst y + also) ∧
        j.chg = (if c = 0 then m * n * (96 * p + 64 * (p * (p - 1) / 2)) else m * n * 64 * p * c) * (2048 / r)) ∧
  (∀ (s : State) (a b : Reg) (N C : BitVec 5) (i0 c : BitVec 5) (g : RtgainOp) (st : Option (BitVec 10)) (ramp : BitVec 2) (S : Nat),
    s.ev.arg = .none → Punctual s 3 (s.rtFree .solve) st S →
    let n := N.toNat + 1
    let r := 2 ^ ramp.toNat
    let row := ((s.rdS a).extractLsb' 7 16).toNat
    let base := fun (i : Instr) (k : Nat) (z : Prop) =>
      ((s.rdS a).getLsbD 39 = true → Raises i s 15 0x12) ∧
      ((s.rdS a).getLsbD 39 = false → (49152 < row + k → Raises i s 15 0x10) ∧ (row + k ≤ 49152 → s.a.st.rgn = none → z))
    let solve : Instr := .rtsolve ⟨a, b, N, C, st, ramp⟩
    let all := [solve, .rtrd ⟨a, i0, c, st⟩, .rtwr ⟨a, i0, c, st⟩, .ertclr ⟨st⟩]
    (s.a.div.rt ≠ s.a.div.ring → ∀ i ∈ all, Raises i s 15 0x41) ∧
    (s.a.div.rt = s.a.div.ring →
      (47 < (s.rdS b).toNat → Raises solve s 15 0x43) ∧
      ((s.rdS b).toNat ≤ 47 → base solve 2 (RtStarts solve s S none
        [(0, 0, .rotatorQuietEvent, 0), (r * 50 * n + 8, 1, .rotatorQuietEvent, 1), (r * 50 * n + 8, 3, .rotatorRetire, 0)] fun j =>
        j.kind = .solve ∧ j.p = n ∧ j.c = C.toNat ∧ j.m = (s.rdS b).toNat ∧ j.base = row ∧ j.xrows = 0 ∧ j.yrows = 0 ∧
          j.chg = 48 * (96 * n + 64 * (n * (n - 1) / 2)) * (2048 / r))) ∧
      (∀ p ∈ [(RKind.rd, Instr.rtrd ⟨a, i0, c, st⟩, []), (.wr, .rtwr ⟨a, i0, c, st⟩, [(1, 0, Instr.rotatorQuietEvent, 0)])],
        base p.2.1 (2 * (c.toNat + 1)) (RtStarts p.2.1 s S none
          (p.2.2 ++ [(9, 1, .rotatorQuietEvent, 1), (8 + (c.toNat + 1), 3, .rotatorRetire, 0)]) fun j =>
          j.kind = p.1 ∧ j.i0 = i0.toNat ∧ j.c = c.toNat + 1 ∧ j.base = row ∧ j.xrows = 0 ∧ j.yrows = 0 ∧ j.chg = 0)) ∧
      (s.a.st.rgn = none → RtStarts (.ertclr ⟨st⟩) s S none [(1, 1, .rotatorQuietEvent, 1), (1, 3, .rotatorRetire, 0)] fun j => j.kind = .clr ∧ j.xrows = 0 ∧ j.yrows = 0)) ∧
    RtStarts (.rtgainSet g) s (s.a.edge 3 s.now) none [(1, 1, .rotatorQuietEvent, 1), (1, 3, .rotatorRetire, 0)] (fun j =>
      j.kind = .gainSet ∧ j.rtm = (g.cm ++ g.gs ++ g.n : BitVec 11).setWidth 64 ∧ j.xrows = 0 ∧ j.yrows = 0) ∧
    ∃ u, Due ⟨s.a.edge 0 s.now + 2 * s.a.div.core, 2, s.ev.seq, s.a.n, .core, .scalarResultLand, .land (.s a) s.a.rtm⟩ s u ∧
      ∃ t j, exec (.rtgainRead ⟨a⟩) s = .next t ∧ j.id = s.ev.seq ∧ j.kind = .gainRead ∧ j.xrows = 0 ∧ j.yrows = 0 ∧
        Due ⟨s.a.edge 3 s.now + s.a.div.rt, 3, s.ev.seq, s.a.n, .rt, .rotatorRetire, .n3 j.id 0 0⟩
          { u with a := { s.a with rjobs := s.a.rjobs ++ [j] } } t) ∧
  (∀ (s : State) (q : RtqrOp) (p : RtaplOp) (v : RtinvQOp) (z : RtsolveOp) (g : RtrwOp) (e : StOp), s.a.st.rgn.isSome →
    ∀ x ∈ [(Instr.rtqr q, trapsRtqr q s, q.stamp, rtqrJob q s), (.rtapl p, trapsRtapl p s, p.stamp, rtaplJob .apl p s),
      (.rtinvApl p, trapsRtinvApl p s, p.stamp, rtaplJob .invApl p s), (.rtinvQr v, trapsRtinvQr v s, v.stamp, rtinvQrJob v s),
      (.rtsolve z, trapsRtsolve z s, z.stamp, rtsolveJob z s), (.rtrd g, trapsRtrd g s, g.stamp, rtrwJob .rd g s),
      (.rtwr g, trapsRtwr g s, g.stamp, rtrwJob .wr g s), (.ertclr e, trapsErtclr e s, e.stamp, rtJob .clr s)],
      x.2.1 = none → ∃ t S, exec x.1 s = .next t ∧
        S = s.a.edge 3 (match x.2.2.1 with
          | some c => s.a.edge 0 s.now + (c.toNat - s.regionCycle) * s.a.div.core
          | none => s.now) ∧
        t.a.rjobs = s.a.rjobs ++ [{ x.2.2.2 with start := S }] ∧
        (⟨S + x.2.2.2.kRetire * s.a.div.rt, 3, s.ev.seq, s.a.n, .rt, .rotatorRetire, .n3 x.2.2.2.id 0 0⟩ : Ev) ∈ t.agenda ∧
        t = { s with agenda := t.agenda, a := { s.a with rjobs := t.a.rjobs, res := t.a.res, rbusy := t.a.rbusy } })

/-- R278, R281 to R287, R289, R290, R292: what the steps of a command j of the array do when no copy burst holds a port they need. Rows of block k are
read from their ring positions, and once all are there the block enters level 0; it visits cell T(i, c) at the offset of R289, where cell and row are
turned, or turned back, and a boundary cell of rtqr makes the angle word; its rows are deposited by XOR. At retirement claims and charge are given up,
and the first data flag in time stands (R196). R275, R276, R278, R284: a rotation of a pair of 48-bit values undoes itself: unrot after rot with the
same prerotation, directions, N and CM gives the pair back. -/
def Obligations.RotatorStepsRun : Prop :=
  (∀ (s : State) (id k part : Nat) (j : RJob), s.a.rjob id = some j →
    let g := s.given (.n3 id k part)
    let block := if j.kind = .qr ∨ j.kind = .apl then k else j.m - 1 - k
    let A := (j.p + 15) / 16
    let nx := match j.kind with
      | .qr | .apl => 1 | .invApl => 2 | _ => 0
    let pos := fun (x : Ring) (first n : Nat) => (List.range n).map fun i => rBase (s.ring x) + (first + n * block + i) % rSize (s.ring x)
    let xs := pos j.xring j.xfirst nx
    let ys := pos j.yring j.yfirst A
    let read := if part = 0 then xs else ys
    let got := j.got ++ read.map fun r => (2 * k + part, Mem.row s.a.sp r)
    let X := (got.filter fun r => r.1 == 2 * k).map fun r => r.2
    let Y := (got.filter fun r => r.1 == 2 * k + 1).map fun r => r.2
    let n := (j.rtm.extractLsb' 0 5).toNat
    let cm := (j.rtm.extractLsb' 9 2).toNat
    let signed := fun (w x : Nat) => (BitVec.ofNat w x).toInt
    let word := fun (l : List Row) (i : Nat) => elem 64 (l.getD (i / 16) 0) (i % 16)
    let enters := fun (b : RBlk) => b.k = k ∧ b.seen = [] ∧ b.z.length = 32 ∧ b.ang.length = 32 ∧ ∀ i < 32,
      b.ang.getD i 0 = (if j.kind = .qr then 0 else word Y i) ∧
      b.z.getD i 0 = (match j.kind with
        | .qr => if i < j.p then signed 32 (elem 32 (X.getD 0 0) i) * (2 ^ (j.rtm.extractLsb' 5 4).toNat : Nat) else 0
        | .apl => if j.p ≤ i ∧ i < j.p + j.c then signed 32 (elem 32 (X.getD 0 0) i) * (2 ^ (j.rtm.extractLsb' 5 4).toNat : Nat) else 0
        | .invQr => 0
        | _ => if j.p ≤ i ∧ i < j.p + j.c then signed 48 (word X i) else 0)
    let first := fun (x y : Option (Nat × Nat)) => match x, y with
      | none, y => y
      | x, none => x
      | some x, some y => if x.1 / s.a.div.core = y.1 / s.a.div.core then some (min x.1 y.1, min x.2 y.2) else if x.1 < y.1 then some x else some y
    let now := fun (f : Option Nat) => f.map fun c => (s.now, c)
    let dest := match j.kind with
      | .qr => ys | .apl => [j.base + 2 * k, j.base + 2 * k + 1] | _ => [j.base + block]
    let clear := match j.kind with
      | .invQr => ys | .invApl => xs | _ => []
    let deposits := fun (i : Instr) (rows : List Nat) (vals : List Row) => s.rowsHeld rows true = false → vals.length = rows.length → rows.Nodup →
      ∃ t, exec i g = .next t ∧
        (∀ n < rows.length, Mem.row t.a.sp (rows.getD n 0) = Mem.row s.a.sp (rows.getD n 0) ^^^ vals.getD n 0) ∧
        (∀ q, q ∉ rows → Mem.row t.a.sp q = Mem.row s.a.sp q) ∧ t.a.cells = s.a.cells ∧ t.a.v = s.a.v ∧ t.a.rings = s.a.rings ∧
        t.a.rtm = s.a.rtm ∧ t.others = s.others ∧ t.dev = s.dev ∧ t.host = s.host ∧ t.out = s.out ∧ t.fe = s.fe
    (j.kind.streams → s.rowsHeld read false = false → ∃ t, exec .rotatorRowRead g = .next t ∧
      (part = 0 ∧ j.kind ≠ .qr → t.a.rjob id = some { j with got := got, chg := j.chg + rtRowCharge read }) ∧
      (¬(part = 0 ∧ j.kind ≠ .qr) → ∃ b, enters b ∧
        t.a.rjob id = some { j with got := got, chg := j.chg + rtRowCharge read, blks := j.blks ++ [b] }) ∧
      t = { g with agenda := t.agenda, a := { s.a with rjobs := t.a.rjobs } }) ∧
    (j.kind.streams → ∀ (v : Visit) (b : RBlk), v.i < b.ang.length →
      let r := j.visit v s.a.cells b
      let x := (SMap.get s.a.cells (32 * v.i + v.col)).toInt
      let w : Word := BitVec.ofNat 64 (b.ang.getD v.i 0)
      let Q := (w.extractLsb' 24 2).toNat
      let D := (w.extractLsb' 0 24).toNat
      let made := j.kind = .qr ∧ v.col = v.i
      let new := Pair.vec n cm ⟨x, b.z.getD v.col 0, false⟩
      let q := if made then new.2.2
        else if j.kind = .qr ∨ j.kind = .apl then Pair.rot n cm Q D ⟨x, b.z.getD v.col 0, false⟩
        else Pair.unrot n cm Q D ⟨x, if j.kind = .invQr ∧ v.col = v.i then (w.extractLsb' 26 38).toInt else b.z.getD v.col 0, false⟩
      (∀ c, SMap.get r.1 c = if c = 32 * v.i + v.col then BitVec.ofInt 48 q.a else SMap.get s.a.cells c) ∧
      r.2.1.z = b.z.set v.col q.b ∧ r.2.1.seen = b.seen ++ [(v.i, v.col)] ∧
      (¬made → r.2.1.ang = b.ang) ∧
      (made → ∃ y, r.2.1.ang = b.ang.set v.i y ∧ y = (wrapTo 38 new.2.2.b * 2 ^ 2 + new.1) * 2 ^ 24 + new.2.1) ∧
      r.2.2 = (if q.ov then some 0x34 else if made ∧ (new.2.2.b < -2 ^ 37 ∨ 2 ^ 37 ≤ new.2.2.b) then some 0x35 else none)) ∧
    (j.kind.streams → j.delays = [] → 0 ≤ j.start → ∀ rt t, ∀ v ∈ j.due rt t, v.id = j.id ∧ v.tick ≤ t ∧ v.i < j.p ∧
      (if j.kind = .qr ∨ j.kind = .invQr then v.i ≤ v.col ∧ v.col < j.p else j.p ≤ v.col ∧ v.col < j.p + j.c) ∧
      (v.tick : Int) = j.start + ((1 + j.ramp * (n + 1) * v.k + 9 + j.ramp * ((n + 2) * (if j.kind.forward then v.i else j.p - 1 - v.i) +
        (v.col - v.i))) * rt : Nat)) ∧
    (j.kind.streams → part = 0 → ∀ b, (j.blks.find? fun x => x.k == k) = some b → deposits .rotatorRowWrite dest (blockRows j b)) ∧
    (j.kind = .invQr ∨ j.kind = .invApl → part ≠ 0 →
      deposits .rotatorRowWrite clear ((j.got.filter fun r => r.1 == if j.kind = .invQr then 2 * k + 1 else 2 * k).map fun r => r.2)) ∧
    (j.kind = .gainSet → exec .rotatorQuietEvent g = .next { g with a := { s.a with rtm := j.rtm } }) ∧
    (j.kind = .clr → ∃ t, exec .rotatorQuietEvent g = .next t ∧ (∀ c, SMap.get t.a.cells c = 0) ∧
      t = { g with a := { s.a with cells := t.a.cells, rjobs := t.a.rjobs } }) ∧
    (j.kind = .solve → part = 0 → ∃ t, exec .rotatorQuietEvent g = .next t ∧
      let z := backSolve s.a.cells j.p j.c j.m
      t.a.rjob id = some { j with outs := [(0, wordRows 2 fun i => wrapTo 64 (z.1.getD i 0))]
                                  flag := first j.flag (now z.2) } ∧
      t = { g with a := { s.a with rjobs := t.a.rjobs } }) ∧
    (j.kind = .solve → part ≠ 0 → ∀ vals r, j.outs = (0, vals) :: r → deposits .rotatorQuietEvent [j.base, j.base + 1] vals) ∧
    (j.kind = .rd → deposits .rotatorQuietEvent [j.base + 2 * k, j.base + 2 * k + 1]
      ((List.range 2).map fun h => rowOf 64 fun e => if 16 * h + e < j.i0 + k then 0
        else wrapTo 64 (SMap.get s.a.cells (32 * (j.i0 + k) + (16 * h + e))).toInt)) ∧
    (j.kind = .wr → part = 0 → s.rowsHeld [j.base + 2 * k, j.base + 2 * k + 1] false = false → ∃ t, exec .rotatorQuietEvent g = .next t ∧
      (∃ c, t.a.rjob id = some { j with got := j.got ++ [(k, Mem.row s.a.sp (j.base + 2 * k)), (k, Mem.row s.a.sp (j.base + 2 * k + 1))]
                                        chg := c }) ∧
      t = { g with agenda := t.agenda, a := { s.a with rjobs := t.a.rjobs } }) ∧
    (j.kind = .wr → part ≠ 0 → ∀ lo hi, (j.got.filter fun r => r.1 == k).map (fun r => r.2) = [lo, hi] → ∃ t, exec .rotatorQuietEvent g = .next t ∧
      (∀ e < 32, SMap.get t.a.cells (32 * (j.i0 + k) + e) = SMap.get s.a.cells (32 * (j.i0 + k) + e) ^^^
        (if j.i0 + k ≤ e then BitVec.ofNat 48 (elem 64 (if e < 16 then lo else hi) (e % 16)) else 0)) ∧
      (∀ n, n < 32 * (j.i0 + k) ∨ 32 * (j.i0 + k) + 32 ≤ n → SMap.get t.a.cells n = SMap.get s.a.cells n) ∧
      t = { g with agenda := t.agenda, a := { s.a with cells := t.a.cells } }) ∧
    ∃ t, exec .rotatorRetire g = .next t ∧ t.a.rjobs = (s.a.rjobs.filter fun r => r.id != id) ∧
      (∀ x, t.ring x =
        let up := fun r n => ringWord (rBase r) (rSize r) ((rHead r + n) % max 1 (rSize r)) (rCnt r - n)
        let r := if x = j.xring ∧ j.xrows ≠ 0 then up (s.ring x) j.xrows else s.ring x
        if x = j.yring ∧ j.yrows ≠ 0 then (if j.kind = .qr then ringWord (rBase r) (rSize r) (rHead r) (rCnt r + j.yrows) else up r j.yrows)
        else r) ∧
      t.a.st.due = s.a.st.due ++ (if j.chg = 0 then [] else [(s.a.edge 0 s.now, j.chg)]) ∧
      t.a.st.dflag = (first (s.a.st.dflag.map fun k => (s.a.st.dflagAt, k)) j.flag).map (fun f => f.2) ∧
      t = { g with a := { s.a with rjobs := t.a.rjobs, rings := t.a.rings, freed := t.a.freed
                                   st := { s.a.st with due := t.a.st.due, dflag := t.a.st.dflag, dflagAt := t.a.st.dflagAt } } }) ∧
  (∀ (n cm q dw : Nat) (a b : Int), -2 ^ 47 ≤ a → a < 2 ^ 47 → -2 ^ 47 ≤ b → b < 2 ^ 47 → q < 4 →
    ((Pair.unrot n cm q dw (Pair.rot n cm q dw ⟨a, b, false⟩)).a = a ∧
      (Pair.unrot n cm q dw (Pair.rot n cm q dw ⟨a, b, false⟩)).b = b) ∧
    let v := Pair.vec n cm ⟨a, b, false⟩
    v.1 < 4 ∧ v.2.1 < 2 ^ n ∧ Pair.rot n cm v.1 v.2.1 ⟨a, b, false⟩ = v.2.2)

/-! ## Copies, links and reefs (R296 to R365) -/

/-- R296, R298, R307: a command of class 0xA that passes its checks at issue joins the end of the queue with its operands, and every queued command that
has not started looks at once whether it can; a bad count raises T_DATA 0x50. Nothing else changes. R298: the rows of two scratchpad operands of this
atoll that lie within it and do not meet, with the word of a barrier there, pass the checks of cpy and cpyx; a range that ends behind row 49,151
raises T_DATA 0x10, and two ranges that share a row raise 0x51. -/
def Obligations.CopyCommandsAreQueued : Prop :=
  (∀ (s : State) (o : COp) (c : CcOp) (g : CgOp) (q : CsOp) (z : CzOp) (v : CvOp) (p : PpOp), s.ev.arg = .none →
    ∀ x ∈ [(Instr.cpy o, insCpy o s, trapsCpy o s), (.cpyx o, insCpyx o s, trapsCpyx o s), (.cpycPack c, insPack c s, trapsCpycPack c s),
        (.cpycUnpack c, insUnpack c s, trapsCpycUnpack c s), (.cpyg g, insCpyg g s, trapsCpyg g s), (.cpys q, insCpys q s, trapsCpys q s),
        (.cpyz z, insCpyz z s, trapsCpyz z s), (.cpyv v, insCpyv v s, trapsCpyv v s), (.ppcmp p, insPpcmp p s, trapsPpcmp p s)],
      let n := x.2.1.n.toNat
      let wx := etWidth x.2.1.x
      let bad := 65535 < n ∨ (x.2.1.kind ∈ [CKind.pack, .unpack, .ppcmp] ∧ n % 8 ≠ 0) ∨
        (x.2.1.kind ∈ [CKind.cpyv, .cpys] ∧ n * etWidth x.2.1.y % wx ≠ 0) ∨ (x.2.1.kind = .cpys ∧ n * etWidth x.2.1.z % wx ≠ 0)
      (bad → Raises x.1 s 15 0x50) ∧
      (∀ w, x.2.2 = some w → Raises x.1 s w.cause w.info) ∧
      (x.2.2 = none → ∃ t, exec x.1 s = .next t ∧ t.a.cq = s.a.cq ++ [s.cmdOf x.2.1] ∧
        (∀ k ∈ t.a.cq, k.started = false →
          (⟨s.now, 6, s.ev.seq, s.a.n, .none, .copyStart, .n k.id⟩ : Ev) ∈ t.agenda) ∧
        (∀ e, e.i ≠ .copyStart → (e ∈ t.agenda ↔ e ∈ s.agenda)) ∧
        t = { s with agenda := t.agenda, a := { s.a with cq := t.a.cq } })) ∧
  (∀ (s : State) (da sa n bar : Reg) (dh sh : HReg) (k : Bool), s.ev.arg = .none →
    let o : COp := ⟨0, dh, da, 0, sh, sa, n, bar⟩
    let i := if k then Instr.cpyx o else .cpy o
    let N := (s.rdS n).toNat
    let D := ((s.rdS da).extractLsb' 7 16).toNat
    let R := ((s.rdS sa).extractLsb' 7 16).toNat
    N < 65536 → LocalAddr (s.rdS da) → LocalAddr (s.rdS sa) → LocalAddr (s.rdS bar) →
      (49152 < D + N → Raises i s 15 0x10) ∧
      (D + N ≤ 49152 → 49152 < R + N → Raises i s 15 0x10) ∧
      (D + N ≤ 49152 → R + N ≤ 49152 → D < R + N → R < D + N → Raises i s 15 0x51) ∧
      (D + N ≤ 49152 → R + N ≤ 49152 → N = 0 ∨ D + N ≤ R ∨ R + N ≤ D → ∃ t c, exec i s = .next t ∧ t.a.cq = s.a.cq ++ [c] ∧
        c.id = s.ev.seq ∧ c.kind = (if k then .cpyx else .cpy) ∧ c.dst = ⟨0, s.a.n, 128 * D, 0, 0⟩ ∧ c.src = ⟨0, s.a.n, 128 * R, 0, 0⟩ ∧
        c.n = N ∧ c.bar = (s.rdS bar).toNat % 2 ^ 23 ∧ c.barAt = s.a.n ∧ c.ph = (s.rdS bar).getLsbD 63 ∧ c.started = false ∧ c.done = 0 ∧
        c.code = 0))

/-- R307 to R311: a queued command that nothing holds back starts, and goes on after a nominal time; one with no rows arrives at once. A command in hand
takes a port of its own atoll for its next reads, for as many of up to eight ring cycles as neither a scheduled access nor a burst has it, and reads a
row in each; a refused translation stops its command with code 1. Nothing else changes. R299, R302, R308, R311, R313, R359: a command of one row at a
time. Its source row is read, in the scratchpad at its port or, for cpyg, in device memory at the reef of its channel; with it the engine makes the
row to write, which cpy takes as it is, cpyx XORs in, cpyz makes zero and cpyg's graph makes of it; and the write changes that row of the scratchpad
and no other. Each access pays its charge at once, and once it is made the engine goes on. R303, R304: packing loses nothing. A zero block packs to no
row and a zero descriptor; one that would fill eight rows or more stays as it is, with bit 63 of its descriptor; any other packs to fewer than eight
rows, whose number its descriptor holds and from which unpacking gives the block. Nominal times are free values (log 1). -/
def Obligations.CopyCommandsRun : Prop :=
  (∀ (s : State) (id : Nat) (c : CCmd), s.a.copy id = some c → c.stop = false →
    let g := s.given (.n id)
    (c.started = false → c.lost s = false → s.startHold id c.cls c.lv = none → s.a.copyFree c = true → c.done ≠ c.total →
      (c.kind = .cpyg → (s.graph c.f 8).isSome) →
      ∃ t, exec .copyStart g = .next t ∧ t.a.copy id = some { c with started := true } ∧
        (⟨s.now + Config.nominal s.free, 6, s.ev.seq, s.a.n, .none, .copyBurst, .n id⟩ : Ev) ∈ t.agenda ∧
        (∀ e, e.i ≠ .copyStart → e.i ≠ .copyBurst → (e ∈ t.agenda ↔ e ∈ s.agenda)) ∧
        t = { g with agenda := t.agenda, free := s.free + 1, a := { s.a with cq := t.a.cq } }) ∧
    (∀ (f : CDo) (l : List CDo), c.done ≠ c.total → s.saving = false → edgeAt s.a.div.ring s.now = s.now → c.todo = [] →
      (c.got = [] → s.a.copyOrder c = false) → c.grouped = false → c.ahead = f :: l → (∀ x ∈ f :: l, s.ownArea x.a = true) →
      s.portIced (portCode (station f.row) false) = false →
      let rows := ((f :: l).filter fun x => station x.row == station f.row).take 8
      let n := s.portRun (portCode (station f.row) false) s.now rows.length
      0 < n →
      ∃ t, exec .copyBurst g = .next t ∧ t.a.burst = s.a.burst ++ [(station f.row, 0, s.now, s.now + n * s.a.div.ring)] ∧
        (∀ k x, k < n → rows[k]? = some x →
          (⟨s.now + k * s.a.div.ring, 0, s.ev.seq, s.a.n, .none, .copyRow, .n3 id 0 x.key⟩ : Ev) ∈ t.agenda) ∧
        (∀ e ∈ s.agenda, e ∈ t.agenda) ∧
        t = { g with agenda := t.agenda, a := { s.a with burst := t.a.burst } }) ∧
    exec .atsTranslationResponse (s.given (.nb id true)) = .next (s.given (.nb id true)) ∧
    ∃ t, exec .atsTranslationResponse (s.given (.nb id false)) = .next t ∧
      t.a.copy id = some { c with stop := true, code := if c.code = 0 then 1 else c.code } ∧
      Due ⟨s.now, 6, s.ev.seq, s.a.n, .none, if c.started then .copyBurst else .copyStart, .n id⟩
        { s.given (.nb id false) with a := { s.a with cq := t.a.cq } } t) ∧
  (∀ (s : State) (id : Nat) (c : CCmd), s.a.copy id = some c → c.stop = false → s.a.n < 160 → s.copyBusy id = false →
    c.kind ∈ [CKind.cpy, .cpyx, .cpyz, .cpyg] →
    let d := c.dst.byte / 128 + c.done
    let r := c.src.byte / 128 + c.done
    let v := Mem.row s.a.sp r
    let hops := fun row => [7, 7, 5, 3, 1, 1, 3, 5].getD (row % 8) 0
    let apart := fun t : State => t.a.v = s.a.v ∧ t.a.cells = s.a.cells ∧ t.a.weights = s.a.weights ∧ t.others = s.others ∧ t.host = s.host ∧
      t.fe = s.fe ∧ t.out = s.out
    let goesOn := fun t : State => ∃ e ∈ t.agenda, e.i = .copyBurst ∧ e.arg = .n id ∧ e.atoll = s.a.n
    let old := Mem.row s.a.sp d
    (c.kind ≠ .cpyz → c.got = [] → c.todo = [] → c.src.sp = 0 → c.src.atoll = s.a.n →
      ∃ t, exec .copyRow (s.given (.n3 id 0 0)) = .next t ∧ t.a.copy id = some { c with got := [(0, v, false)] } ∧
        t.a.st.due = s.a.st.due ++ [(s.now, 131072 + 65536 + 8192 * hops r)] ∧ goesOn t ∧ apart t ∧ t.a.sp = s.a.sp ∧ t.dev = s.dev) ∧
    (c.kind = .cpyg → c.got = [] → c.todo = [] → c.src.sp = 2 → s.served r s.a.slot false = true → (∀ e ∈ s.dev.errs, e.1 ≠ r) →
      let bad := s.dev.bad r
      ∃ t, exec .reefStreamRow (s.given (.n3 id 0 0)) = .next t ∧
        t.a.copy id = some { c with got := [(0, if bad then 0 else Mem.row s.dev.mem r, bad)]
                                    code := if bad ∧ c.code = 0 then 5 else c.code } ∧
        t.a.st.due = s.a.st.due ++ [(s.now, 131072 + 2359296 + 49152)] ∧ goesOn t ∧ apart t ∧ t.a.sp = s.a.sp ∧ t.dev.mem = s.dev.mem) ∧
    (c.got = (if c.kind = .cpyz then [] else [(0, v, false)]) → c.todo = [] → c.dst.sp = 0 → c.done ≠ c.total → s.saving = false →
      edgeAt s.a.div.ring s.now = s.now → (c.kind = .cpyz → s.a.copyOrder c = false) →
      let new := match c.kind with
        | .cpyz => 0
        | .cpyg => reefOut ((s.graph c.f 8).getD []) 0 v 0
        | _ => v
      ∃ t, exec .copyBurst (s.given (.n id)) = .next t ∧
        t.a.copy id = some { c with todo := [⟨false, d, new, BitVec.allOnes 1024, c.kind == .cpyx, false, .whole⟩] } ∧
        Due { s.ev with tick := s.now, arg := .n id } { s.given (.n id) with a := { s.a with cq := t.a.cq } } t) ∧
    ∀ (w : Row) (x : Bool), c.todo = [⟨false, d, w, BitVec.allOnes 1024, x, false, .whole⟩] → c.dst.sp = 0 → c.dst.atoll = s.a.n →
      let lost := if x then 0 else ((List.range 1024).filter fun j => old.getLsbD j).length
      ∃ t, exec .copyRow (s.given (.n3 id 1 d)) = .next t ∧
        (∀ q, Mem.row t.a.sp q = if q = d then (if x then old ^^^ w else w) else Mem.row s.a.sp q) ∧
        t.a.copy id = some { c with todo := [], got := [], done := c.done + 1 } ∧
        (s.now, 65536 + 8192 * hops d + (if c.kind = .cpyz then 131072 else 0) + 8192 * lost) ∈ t.a.st.due ∧
        goesOn t ∧ apart t ∧ t.dev = s.dev) ∧
  (∀ (e : Fin 4) (b : Nat), b < 2 ^ 8192 →
    let g := 2 ^ e.val
    let p := packBlock g b
    let x := stringOf (p.2.map fun r => (r, false))
    (b = 0 → p = (0, [])) ∧
    (p.1.getLsbD 63 = true → p.1 = 0x8000000000000008 ∧ p.2.length = 8 ∧ x = b) ∧
    (b ≠ 0 → p.1.getLsbD 63 = false → p.1.toNat = p.2.length ∧ 0 < p.2.length ∧ p.2.length < 8 ∧ unpackString g x = b ∧
      popNat (1024 / g) (x % 2 ^ (1024 / g)) = (nonzero g b).length))

/-- R331 to R334, R338, R360: a link or near-memory command that passes its checks at issue joins the end of the queue, and the engine looks at it after a
nominal time; one that does not raises the trap that its checks find first. Nothing else changes. R328, R335 to R337: lprec gives the counter of its
tile at t+3; lwprec gives it at t+1 once LANDED has reached n or the tile has ended, else waits with its bundle issued; lcancel without a command that
has started on its tile refuses the header held there, and does nothing without one. Nominal times are free values (log 1). -/
def Obligations.LinkCommandsAreQueued : Prop :=
  (∀ (s : State) (o : LsendOp) (r : LrecvOp) (a : LraddOp) (n : NmcOp), s.ev.arg = .none →
    (∀ x ∈ [(Instr.lsend o, lsendCmd o s, trapsLsend o s), (.lrecv r, lrecvCmd r s, trapsLrecv r s),
        (.lradd a, lraddCmd a s, trapsLradd a s), (.nmc n, nmcCmd n s, trapsNmc n s)],
      (∀ w, x.2.2 = some w → Raises x.1 s w.cause w.info) ∧
      (x.2.2 = none →
        Sends x.1 s { s with a := { s.a with lq := s.a.lq ++ [x.2.1] } } s.a.n .linkCommandArrive (.n s.ev.seq) ∧
        x.2.1.id = s.ev.seq ∧ x.2.1.cls = s.cls 12 ∧ x.2.1.lv = s.scope ∧ x.2.1.started = false ∧ x.2.1.stop = false ∧ x.2.1.sent = 0 ∧ x.2.1.hdr = false)) ∧
    (LocalAddr (s.rdS r.a) → LocalAddr (s.rdS r.c) →
      let row := ((s.rdS r.a).extractLsb' 7 16).toNat
      let N := r.n.toNat + 1
      let tile := r.tile.toNat
      let state := (SMap.get s.a.ctr tile).extractLsb' 60 4
      (49151 < row + 4 * N → Raises (.lrecv r) s 15 0x10) ∧
      (row + 4 * N ≤ 49151 → state ∈ [1#4, 2#4, 3#4] → Raises (.lrecv r) s 15 (0x60 + tile * 256)) ∧
      (row + 4 * N ≤ 49151 → state ∉ [1#4, 2#4, 3#4] → ∃ t c, exec (.lrecv r) s = .next t ∧ t.a.lq = s.a.lq ++ [c] ∧ c.kind = .recv ∧
        c.tile = tile ∧ c.buf = row ∧ c.p = N ∧ c.fill = r.f ∧ c.barAt = s.a.n ∧ c.bar = (s.rdS r.c).toNat % 2 ^ 23)) ∧
    (let h := s.rdH n.h
     let A := (s.rdS n.a).toInt
     let page : Int := if h.getLsbD 62 then 2 ^ 21 else 2 ^ 16
     let handle := fun k => Raises (.nmc n) s 5 (k + n.h.toNat * 16)
     if h.getLsbD 63 = false then handle 1
     else if A < 0 ∨ page ≤ A then handle 2
     else if h.getLsbD 59 = false then handle 3
     else if h.extractLsb' 60 2 = 3#2 ∨ h.getLsbD 58 = false ∨ h.getLsbD 62 = false then handle 6
     else if 16384 < (s.rdS n.b).toNat then Raises (.nmc n) s 15 0x50
     else LocalAddr (s.rdS n.c) → ∃ t c, exec (.nmc n) s = .next t ∧ t.a.lq = s.a.lq ++ [c] ∧ c.kind = .nmc ∧
       c.row = ((h.extractLsb' 16 32).toNat * 2 ^ 16 + A.toNat) / 128 ∧ c.p = (s.rdS n.b).toNat ∧ c.pw = s.rdS n.d ∧ c.slot = n.slot.toNat)) ∧
  (∀ (s : State) (d : Reg) (tile : BitVec 8) (n : BitVec 5), s.ev.arg = .none →
    let w := SMap.get s.a.ctr tile.toNat
    let reached := n.toNat ≤ (w.extractLsb' 46 5).toNat ∨ 4 ≤ (w.extractLsb' 60 4).toNat
    let idle := ∀ c ∈ s.a.lq, c.started = true → c.kind ≠ .nmc → tile.toNat ∉ c.tiles
    Gives (.lprec ⟨d, tile⟩) s 3 (.s d) w ∧
    (s.a.st.rgn.isSome → Raises (.lwprec ⟨d, tile, n⟩) s 7 s.a.st.pos) ∧
    (s.a.st.rgn = none → reached → Gives (.lwprec ⟨d, tile, n⟩) s 1 (.s d) w) ∧
    (s.a.st.rgn = none → ¬reached → exec (.lwprec ⟨d, tile, n⟩) s = .next (s.stalled (.lwprec d tile.toNat n.toNat))) ∧
    (idle → (∀ x ∈ s.a.held, x.tile ≠ tile.toNat) → exec (.lcancel ⟨tile⟩) s = .next s) ∧
    (idle → ∀ x, (s.a.held.find? fun y => y.tile == tile.toNat) = some x → x.src < 1000 → x.planes = [] → ∃ t, exec (.lcancel ⟨tile⟩) s = .next t ∧
      t.a.held = (s.a.held.filter fun y => y.tile != tile.toNat) ∧
      t.a.ins = s.a.ins ++ (if x.ended then [] else [{ x with planes := [], ended := true, refused := true }]) ∧
      (∃ e ∈ t.agenda, e.i = .cancelMessage ∧ e.atoll = x.src ∧ e.arg = .n x.stile) ∧ t.a.ctr = s.a.ctr ∧ t.a.lq = s.a.lq ∧ t.a.sp = s.a.sp ∧
      t.dev = s.dev ∧ t.host = s.host))

/-- R324, R332, R333, R339: a receive that nothing holds back posts its tile; a sender sends its planes in order, each read from its buffer and landed in
its counter; the acknowledgement of its last plane, or a cancel, ends it: its counter, its barrier and its place in the queue. R322, R324, R327, R328,
R333: a header that finds its tile posted is taken: its row is written and the counter opens with its MONO and P; any other is held, or refused with a
cancel when one is held already or a refusal is armed. A plane within the receive's limit is written and landed; an end leaves a stream that nobody
receives. -/
def Obligations.TileStreamsRun : Prop :=
  (∀ (s : State) (id p : Nat) (c : LCmd), s.a.link id = some c → s.a.st.wait = .none →
    let free := c.started = false ∧ c.stop = false ∧ c.lost s = false ∧ s.startHold id c.cls c.lv = none ∧
      (∀ x ∈ s.a.lq, x.id < c.id → x.cls = c.cls → x.started = true) ∧ s.tileBusy c.tile = false
    let arrives := fun (t : State) code =>
      c.barAt < 1000 → ∃ k, (⟨s.now + k, 6, s.ev.seq, c.barAt, .none, .barrierArrival, .acc ⟨.arrive c.ph true code, c.bar, .none, 0, 0, s.a.n, 0⟩⟩ : Ev) ∈ t.agenda
    let ended := fun (t : State) (st : BitVec 4) (code : Nat) => (SMap.get t.a.ctr c.tile).extractLsb' 60 4 = st ∧
      ((SMap.get t.a.ctr c.tile).extractLsb' 38 8).toNat = code ∧ (∀ q ≠ c.tile, SMap.get t.a.ctr q = SMap.get s.a.ctr q) ∧
      t.a.lq = (s.a.lq.filter fun x => x.id != id) ∧ arrives t code ∧ t.a.sp = s.a.sp ∧ t.others = s.others ∧ t.dev = s.dev
    (c.kind = .recv → free → (∀ x ∈ s.a.held, x.tile ≠ c.tile) → ∃ t, exec .linkCommandArrive (s.given (.n id)) = .next t ∧
      t.a.link id = some { c with started := true } ∧ (∀ q, SMap.get t.a.ctr q = if q = c.tile then 0x1400000000000000 else SMap.get s.a.ctr q) ∧
      (∀ q, q ∈ t.a.refuse ↔ q ∈ s.a.refuse ∧ q ≠ c.tile) ∧
      t = { s.given (.n id) with agenda := t.agenda, a := { s.a with lq := t.a.lq, ctr := t.a.ctr, refuse := t.a.refuse } }) ∧
    (c.kind = .send → p ≠ 0 → s.lkHold posLK ((List.range 4).map fun i => c.buf + 4 * p - 3 + i) false = none → c.peer < 1000 →
      ∃ t k, exec .planeSent (s.given (.n2 id p)) = .next t ∧ t.a.link id = some { c with sent := p } ∧
        SMap.get t.a.ctr c.tile = setBits (SMap.get s.a.ctr c.tile) 46 5 p ∧ (∀ q ≠ c.tile, SMap.get t.a.ctr q = SMap.get s.a.ctr q) ∧
        (⟨k, 6, s.ev.seq, c.peer, .none, .planeLanded,
          .rows ((List.range 4).map fun i => Mem.row s.a.sp (c.buf + 4 * p - 3 + i)) c.u p s.a.n (c.id * 256 + c.tile)⟩ : Ev) ∈ t.agenda ∧
        (p < c.p → ∃ e ∈ t.agenda, e.i = .planeSent ∧ e.arg = .n2 id (p + 1) ∧ e.atoll = s.a.n) ∧
        t.a.sp = s.a.sp ∧ t.others = s.others ∧ t.dev = s.dev ∧ t.host = s.host) ∧
    (c.kind = .send → id = p / 256 → c.id = id → ∃ t, exec .linkCommandArrive (s.given (.nb p true)) = .next t ∧ ended t 4 0) ∧
    (c.kind = .send → id = p / 256 → c.id = id → c.peer < 1000 → ∃ t, exec .cancelMessage (s.given (.n p)) = .next t ∧ ended t 5 6 ∧
      ∃ e ∈ t.agenda, e.i = .endMessage ∧ e.atoll = c.peer ∧ e.arg = .n3 c.u s.a.n (c.id * 256 + c.tile))) ∧
  (∀ (s : State) (tile src stile p : Nat) (h : Row) (l : List Row), s.a.st.wait = .none → src < 1000 →
    let g := s.given (.hdr tile src stile h)
    let posted := (SMap.get s.a.ctr tile).extractLsb' 60 4 = 1#4 ∧ s.a.stream tile = none ∧ (s.a.receiver tile).isSome
    let P := min 24 (h.extractLsb' 264 8).toNat
    let x : Stream := { tile := tile, src := src, stile := stile, hdr := h, p := 0, planes := [], ended := false, refused := false }
    let quiet := fun (t : State) => t.a.sp = s.a.sp ∧ t.a.ctr = s.a.ctr ∧ t.a.lq = s.a.lq ∧ t.dev = s.dev ∧ t.host = s.host
    (∀ c, s.a.receiver tile = some c → posted → c.kind = .recv → c.tile = tile → P ≠ 0 → s.lkHold posXB [c.buf] true = none →
      ∃ t, exec .tileHeaderArrival g = .next t ∧ Mem.row t.a.sp c.buf = h ∧ (∀ q ≠ c.buf, Mem.row t.a.sp q = Mem.row s.a.sp q) ∧
        SMap.get t.a.ctr tile = BitVec.ofNat 64 (2 * 2 ^ 60 + 2 ^ 58 + (if h.getLsbD 256 then 2 ^ 56 else 0) + P * 2 ^ 51) ∧
        (∀ q ≠ tile, SMap.get t.a.ctr q = SMap.get s.a.ctr q) ∧
        t.a.ins = s.a.ins ++ [x]) ∧
    (¬posted → tile ∉ s.a.refuse → (∀ x ∈ s.a.held, x.tile ≠ tile) → 
      exec .tileHeaderArrival g = .next { g with a := { s.a with held := s.a.held ++ [x] } }) ∧
    (¬posted → tile ∈ s.a.refuse ∨ (∃ x ∈ s.a.held, x.tile = tile) → ∃ t, exec .tileHeaderArrival g = .next t ∧ quiet t ∧ t.a.held = s.a.held ∧
      (∀ q, q ∈ t.a.refuse ↔ q ∈ s.a.refuse ∧ q ≠ tile) ∧ t.a.ins = s.a.ins ++ [{ x with ended := true, refused := true }] ∧
      ∃ e ∈ t.agenda, e.i = .cancelMessage ∧ e.atoll = src ∧ e.arg = .n stile) ∧
    (∀ c x, s.a.receiver tile = some c → c.kind = .recv → c.tile = tile → (s.a.ins.find? fun y => y.is tile src stile) = some x → x.ended = false →
      s.behind tile src stile p = false → 0 < p → p ≤ c.p → x.p + 1 < min 24 (x.hdr.extractLsb' 264 8).toNat → l.length = 4 →
      s.lkHold posXB ((List.range 4).map fun i => c.buf + 4 * p - 3 + i) true = none →
      ∃ t, exec .planeLanded (s.given (.rows l tile p src stile)) = .next t ∧
        (∀ i < 4, Mem.row t.a.sp (c.buf + 4 * p - 3 + i) = l.getD i 0) ∧
        (∀ q, q < c.buf + 4 * p - 3 ∨ c.buf + 4 * p + 1 ≤ q → Mem.row t.a.sp q = Mem.row s.a.sp q) ∧
        SMap.get t.a.ctr tile = setBits (SMap.get s.a.ctr tile) 46 5 p ∧ (∀ q ≠ tile, SMap.get t.a.ctr q = SMap.get s.a.ctr q) ∧
        (t.a.ins.find? fun y => y.is tile src stile) = some { x with p := x.p + 1, planes := if c.fill then x.planes ++ [l] else x.planes }) ∧
    (s.behind tile src stile 100 = false → s.a.receiver tile = none → ∃ t, exec .endMessage (s.given (.n3 tile src stile)) = .next t ∧
      ((∃ x ∈ s.a.ins, x.is tile src stile = true) → t.a.ins = (s.a.ins.filter fun y => !y.is tile src stile) ∧ t.a.held = s.a.held) ∧
      ((∀ x ∈ s.a.ins, x.is tile src stile = false) → t.a.ins = s.a.ins ∧
        t.a.held = s.a.held.map fun y => if y.is tile src stile then { y with ended := true } else y) ∧
      t = { s.given (.n3 tile src stile) with a := { s.a with ins := t.a.ins, held := t.a.held } }))

/-- R320, R325, R326, R334: once both headers are there a relay sends the header of the sum and opens its counter with the sum's P; then plane j, once
each streamed input has landed min(j + 1, its P) planes, to the receiver or into its buffer, and its counter lands it. R325: the digits of a sum are
digits, and their value is that of the aligned digits of both streams: with weights 2^(P−j) for output digit j, and the weight of digit i + 1 for
aligned index i, nothing is lost or added. -/
def Obligations.RelaysAddStreams : Prop :=
  (∀ (s : State) (id : Nat) (c : LCmd) (x y : Stream), s.a.link id = some c → c.id = id → s.a.st.wait = .none → s.a.inputs c = some (x, y) →
    c.peer < 1000 →
    let g := s.given (.n id)
    let P := min 24 (max (min 24 (x.hdr.extractLsb' 264 8).toNat) (min 24 (y.hdr.extractLsb' 264 8).toNat) + 1)
    let j := c.sent + 1
    let rows := (List.range 4).map fun i => c.buf + 4 * j - 3 + i
    let plane := (List.range 4).map fun r => rowOf 2 fun e => digitCode (sumDigit x y j (512 * r + e))
    let next := fun (t : State) => ∃ e ∈ t.agenda, e.i = .relayPlaneSend ∧ e.arg = .n id ∧ e.atoll = s.a.n
    (c.hdr = false → s.lkHold posLK (if c.loc then [c.buf] else []) true = none → ∃ t, exec .relayPlaneSend g = .next t ∧
      (∀ q, Mem.row t.a.sp q = if c.loc = true ∧ q = c.buf then sumHeader x y else Mem.row s.a.sp q) ∧
      (c.fwd = true → ∃ e ∈ t.agenda, e.i = .tileHeaderArrival ∧ e.atoll = c.peer ∧ e.arg = .hdr c.u s.a.n (c.id * 256 + c.tile) (sumHeader x y)) ∧
      SMap.get t.a.ctr c.tile = BitVec.ofNat 64 (2 * 2 ^ 60 + 2 * 2 ^ 58 + P * 2 ^ 51) ∧ t.a.link id = some { c with hdr := true } ∧ next t) ∧
    (c.hdr = true → j ≤ P → min (j + 1) (min 24 (x.hdr.extractLsb' 264 8).toNat) ≤ x.p →
      (c.s2 = true → min (j + 1) (min 24 (y.hdr.extractLsb' 264 8).toNat) ≤ y.p) →
      (c.s2 = false → min (j + 1) (min 24 (y.hdr.extractLsb' 264 8).toNat) ≤ y.planes.length) →
      s.lkHold posLK (if c.loc then rows else []) true = none → ∃ t, exec .relayPlaneSend g = .next t ∧
      (c.loc = true → ∀ i < 4, Mem.row t.a.sp (c.buf + 4 * j - 3 + i) = plane.getD i 0) ∧
      (∀ q, c.loc = false ∨ q ∉ rows → Mem.row t.a.sp q = Mem.row s.a.sp q) ∧
      (c.fwd = true → ∃ e ∈ t.agenda, e.i = .planeLanded ∧ e.atoll = c.peer ∧ e.arg = .rows plane c.u j s.a.n (c.id * 256 + c.tile)) ∧
      SMap.get t.a.ctr c.tile = setBits (SMap.get s.a.ctr c.tile) 46 5 j ∧ t.a.link id = some { c with sent := j } ∧ next t)) ∧
  (∀ (x y : Stream) (g : Nat) (e : Int), sumLive x.hdr y.hdr (g / 64) = some e →
    let P := sumP x y
    let digit := fun j => sumDigit x y (j + 1) g
    let t := fun i => aligned x P g e (i + 1) + aligned y P g e (i + 1)
    (∀ j < P, digit j = -1 ∨ digit j = 0 ∨ digit j = 1) ∧
    (List.range P).foldl (fun (n : Int) j => 2 * n + digit j) 0 = (List.range (P - 1)).foldl (fun (n : Int) i => 2 * n + t i) 0)

/-- R168, R169, R177, R353, R354, R363: a word access that its strand's order and its channel let through is served at once: a read and an atomic answer
the word, a write and an atomic change that word and nothing else of device memory; on a poisoned row, or one in which a read or an atomic finds an
error that cannot be corrected, a read answers zero with flag 0x70, an atomic with 0x71, and a write into a poisoned row is discarded with 0x72. R361,
R362, R365, R435: the reef of its first row checks an nmc; a page that is not in the table, or a range that leaves its page, ends it with a code; each
row is then updated in place by the graph, but a poisoned one stays. A notice of an access counter is queued for the host, or counted lost. R24, R358:
an image for a slot index of a launch is loaded when it is legal, the index is below 8 and one of the eight slots of the package is free; it takes the
place of the launch's image there, and the host is told. Any other changes nothing and the host is told so. Nominal times are free values (log 1). -/
def Obligations.ReefsServe : Prop :=
  (∀ (s : State) (x : GAcc) (v c : Word), x.host = false →
    let bad := s.dev.bad (x.byte / 128)
    let found := (s.dev.errs.find? fun e => e.1 == x.byte / 128) = some (x.byte / 128, true)
    let w := Mem.word s.dev.mem x.byte
    let reply := fun (t : State) (d : Dst) (v : Word) (f : Option Nat) =>
      ∃ e ∈ t.agenda, e.i = .remoteReply ∧ e.atoll = x.src ∧ e.arg = .reply d v f x.chg
    let same := fun (t : State) => t.dev.mem = s.dev.mem ∧ t.a.st.regs = s.a.st.regs ∧ t.a.sp = s.a.sp ∧ t.others = s.others ∧ t.host = s.host
    let puts := fun (t : State) (n : Word) => (∀ b, Mem.word t.dev.mem b = if b / 8 = x.byte / 8 then n else Mem.word s.dev.mem b) ∧
      t.a.sp = s.a.sp ∧ t.a.st.regs = s.a.st.regs ∧ t.others = s.others ∧ t.host = s.host
    let g := fun (op : AccOp) => s.given (.gacc { x with op := op })
    (s.gmWait { x with op := .read } false = none → ∃ t, exec .gmAccess (g .read) = .next t ∧
      (¬found → same t ∧ reply t x.dst (if bad then 0 else w) (if bad then some 0x70 else none)) ∧
      (found → reply t x.dst 0 (some 0x70) ∧ t.dev.bad (x.byte / 128) = true)) ∧
    (s.gmWait { x with op := .write v } true = none →
      (bad = false → ∃ t, exec .gmAccess (g (.write v)) = .next t ∧ puts t v ∧
        t.a.st.due = s.a.st.due ++ (if x.chg = 0 then [] else [(s.now, x.chg)])) ∧
      (bad = true → ∃ t, exec .gmAccess (g (.write v)) = .next t ∧ same t ∧ reply t .none 0 (some 0x72))) ∧
    ∀ k : AmoOp, s.gmWait { x with op := .amo k v } true = none →
      (bad = true ∨ found → ∃ t, exec .reefAtomic (g (.amo k v)) = .next t ∧ (¬found → same t) ∧ reply t x.dst 0 (some 0x71)) ∧
      (bad = false → ¬found → ∃ t, exec .reefAtomic (g (.amo k v)) = .next t ∧ reply t x.dst w none ∧
        match k with
        | .add => puts t (w + v)
        | .xor => puts t (w ^^^ v)
        | .min => puts t (if w.sle v then w else v)
        | .max => puts t (if w.sle v then v else w)
        | .swp => puts t v
        | .cas c => if w = c then puts t v else same t)) ∧
  (∀ (s : State) (id : Nat) (c : LCmd) (img : List Word), s.a.link id = some c → c.stop = false →
    let g := s.given (.n id)
    let row := c.row + c.sent
    let ok := s.graph c.slot 9 = some img ∧ s.dev.cctab.contains (c.frame / 32) = true
    let done := fun (t : State) code => t.a.lq = (s.a.lq.filter fun x => x.id != c.id) ∧ t.dev = s.dev ∧ t.a.sp = s.a.sp ∧
      (c.barAt < 1000 → ∃ e ∈ t.agenda, e.i = .barrierArrival ∧ e.atoll = c.barAt ∧ e.arg = .acc ⟨.arrive c.ph true code, c.bar, .none, 0, 0, s.a.n, 0⟩)
    ((s.graph c.slot 9 = none ∨ s.dev.cctab.contains (c.frame / 32) = false) → ∃ t, exec .nmcReefCheck g = .next t ∧ done t 4) ∧
    (ok → c.lim < c.row + c.p → ∃ t, exec .nmcReefCheck g = .next t ∧ done t 3) ∧
    (ok → c.row + c.p ≤ c.lim → c.p = 0 → ∃ t, exec .nmcReefCheck g = .next t ∧ done t 0) ∧
    (ok → c.row + c.p ≤ c.lim → c.p ≠ 0 →
      ∃ u, u.a.link id = some { c with hdr := true } ∧ u = { g with a := { s.a with lq := u.a.lq } } ∧
        Sends .nmcReefCheck g u s.a.n .nmcRowUpdate (.n id)) ∧
    (s.graph c.slot 9 = some img → s.a.nmcBefore c row = false → s.served row s.a.slot true = true → s.dev.bad row = false → (∀ e ∈ s.dev.errs, e.1 ≠ row) → c.sent + 1 < c.p →
      ∃ t, exec .nmcRowUpdate g = .next t ∧ (∀ q, Mem.row t.dev.mem q = if q = row then reefOut img c.pw (Mem.row s.dev.mem row) 0
          else Mem.row s.dev.mem q) ∧
        t.a.link id = some { c with sent := c.sent + 1 } ∧ (s.now, 131072 + 2 * 2359296) ∈ t.a.st.due ∧
        (∃ e ∈ t.agenda, e.i = .nmcRowUpdate ∧ e.arg = .n id) ∧ t.a.sp = s.a.sp ∧ t.others = s.others ∧ t.host = s.host) ∧
    ∀ page ch wr, wr < 256 → ch < 256 →
      let f := s.fe
      let k := s.given (.n3 page ch wr)
      (f.nqbase = 0 ∨ page ∈ f.queued → exec .accessCounterNotify k = .next k) ∧
      (f.nqbase ≠ 0 → page ∉ f.queued → (f.nqtail + 1) % 4096 = f.nqhead →
        exec .accessCounterNotify k = .next { k with fe := { f with nqlost := min (2 ^ 32 - 1) (f.nqlost + 1), nqovf := true } }) ∧
      (f.nqbase ≠ 0 → page ∉ f.queued → (f.nqtail + 1) % 4096 ≠ f.nqhead → ∃ t, exec .accessCounterNotify k = .next t ∧
        t.fe = { f with nqtail := (f.nqtail + 1) % 4096, queued := page :: f.queued } ∧ t.out = s.out ++ [⟨6, [f.nqvec], none⟩] ∧
        (8 ∣ f.nqbase → Mem.word t.host (f.nqbase + 8 * f.nqtail) = BitVec.ofNat 64 (page * 2 ^ 16 + ch * 2 ^ 8 + wr)) ∧
        t = { k with fe := t.fe, host := t.host, out := t.out })) ∧
  (∀ (s : State) (slot idx : Nat) (l : List Word) (x : Launch), s.launchOf slot = some x →
    let g := s.given (.words slot idx l)
    let others := x.graphs.filter fun k => k.1 != idx
    let ok := slot ≠ 0 ∧ idx < 8 ∧ imageOk l = true ∧ s.fe.graphsHeld - (x.graphs.length - others.length) < 8
    (¬ok → exec .graphImageLoad g = .next { g with out := s.out ++ [⟨7, [slot, idx, 1], none⟩] }) ∧
    (ok → ∃ t, exec .graphImageLoad g = .next t ∧ t.launchOf slot = some { x with graphs := others ++ [(idx, l)] } ∧
      (∀ n ≠ slot, t.launchOf n = s.launchOf n) ∧
      t = { g with out := s.out ++ [⟨7, [slot, idx, 0], none⟩], fe := { s.fe with launches := t.fe.launches } }))

/-! ## Power, clocks and the team (R86 to R103, R376 to R383) -/

/-- R98 to R100: wake starts the wake of each gated engine that its mask names, which is done 1,600 ticks later for MX and 800 for the others, and starts
the idle count of an awake one again; gate marks each that is not gated, and it looks at once whether it can gate. A wake that is done leaves its
engine awake; an engine that has no operation in progress outside a region gates when it is marked or its idle count, in core cycles of whatever
divisor, has run out. R20, R101 to R103: clkdiv takes the divisor it asks for, or the smallest that the rail of its die allows; the current one is
answered at t+1, a new one in the alternate mode after 512 ticks, in the handshake mode with the strand waiting. The hand-over sets the divisor of
that domain alone. -/
def Obligations.EnginesAndClocks : Prop :=
  (∀ (s : State) (m : BitVec 4) (k : Nat), k < 4 →
    let c := s.a.edge 0 s.now
    let g := s.a.gateSt k
    let T := c + (if k = 1 then 1600 else 800)
    let looks := fun (t : State) tick => (⟨tick, 6, s.ev.seq, s.a.n, .none, .engineGate, .n k⟩ : Ev) ∈ t.agenda
    let only := fun (u t : State) =>
      t = { u with agenda := t.agenda, a := { s.a with gvx := t.a.gvx, gmx := t.a.gmx, grt := t.a.grt, gcp := t.a.gcp } }
    let lim := 16 * (s.a.st.idlemx.toNat / 2 ^ (8 * k) % 256)
    let idle := g.cnt + (s.now - g.since) / s.a.div.core
    let u := s.given (.n k)
    (∃ t, exec (.wake ⟨m⟩) s = .next t ∧ only s t ∧ (m.getLsbD k = false → t.a.gateSt k = g) ∧
      (m.getLsbD k = true → g.g = .gated → t.a.gateSt k = { g with g := .waking T, cnt := 0 } ∧
        (⟨T, 3, s.ev.seq, s.a.n, .none, .engineWakeDone, .n k⟩ : Ev) ∈ t.agenda) ∧
      (m.getLsbD k = true → ∀ x, g.g = .waking x → t.a.gateSt k = g) ∧
      (m.getLsbD k = true → g.g = .awake → t.a.gateSt k = { g with since := c, cnt := 0 } ∧ looks t c)) ∧
    (∃ t, exec (.gate ⟨m⟩) s = .next t ∧ only s t ∧ (m.getLsbD k = false → t.a.gateSt k = g) ∧
      (m.getLsbD k = true → looks t c ∧ t.a.gateSt k = if g.g = .gated then g else { g with mark := some s.a.st.rgn.isSome })) ∧
    (∃ t, exec .engineWakeDone u = .next t ∧ only u t ∧ t.a.gateSt k = { g with g := .awake, since := s.now, cnt := 0 } ∧ looks t s.now ∧
      ∀ j < 4, j ≠ k → t.a.gateSt j = s.a.gateSt j) ∧
    (s.a.st.rgn.isSome ∨ g.g ≠ .awake → exec .engineGate u = .next u) ∧
    (s.a.st.rgn = none → g.g = .awake → s.engineBusy k = none →
      (g.mark.isSome ∨ (lim ≠ 0 ∧ lim ≤ idle) → ∃ t, exec .engineGate u = .next t ∧ only u t ∧
        t.a.gateSt k = { g with g := .gated, cnt := 0, mark := none } ∧ ∀ j < 4, j ≠ k → t.a.gateSt j = s.a.gateSt j) ∧
      (g.mark = none → lim = 0 → exec .engineGate u = .next u) ∧
      (g.mark = none → idle < lim → ∃ t, exec .engineGate u = .next t ∧
        looks t (max (s.now + 1) (g.since + (lim - g.cnt) * s.a.div.core)) ∧
        t = { u with agenda := t.agenda }))) ∧
  (∀ (s : State) (o : ClkOp), s.ev.arg = .none → o.dom.toNat < 6 →
    let mv := s.railOf s.a.n
    let n := max (o.n.toNat + 1) (if 580 ≤ mv then 2 else if 540 ≤ mv then 3 else if 500 ≤ mv then 4 else 6)
    let k := o.dom.toNat
    let changing := s.a.st.rgn = none ∧ n ≠ s.a.div.get k
    (s.a.st.rgn.isSome → Raises (.clkdiv o) s 7 s.a.st.pos) ∧
    (s.a.st.rgn = none → n = s.a.div.get k → Gives (.clkdiv o) s 1 (.s o.a) (BitVec.ofNat 64 n)) ∧
    (changing → s.a.st.idlemx.getLsbD 63 = false → Issues (.clkdiv o) s { s with a := { s.a with hand := s.a.hand ++ [k] } }
      ⟨edgeAt n (s.now + 512) - 1, 6, s.ev.seq, s.a.n, .none, .clockHandover, .clock k n o.a⟩) ∧
    (changing → s.a.st.idlemx.getLsbD 63 = true →
      Issues (.clkdiv o) s (State.stalled { s with a := { s.a with hand := s.a.hand ++ [k] } } (.clock s.now))
        ⟨s.now + 1, 6, s.ev.seq, s.a.n, .none, .clockHandover, .clock (8 + k) n o.a⟩) ∧
    (∃ t, exec .clockHandover (s.given (.clock k n o.a)) = .next t ∧
      (∀ j < 6, t.a.div.get j = if j = k then n else s.a.div.get j) ∧ (∀ j, j ∈ t.a.hand ↔ j ∈ s.a.hand ∧ j ≠ k) ∧
      (⟨s.now + 1 + n, 2, s.ev.seq, s.a.n, .core, .scalarResultLand, .land (.s o.a) (BitVec.ofNat 64 n)⟩ : Ev) ∈ t.agenda ∧
      t.a.st.regs = s.a.st.regs ∧ t.a.sp = s.a.sp ∧ t.a.v = s.a.v ∧ t.others = s.others ∧ t.dev = s.dev ∧ t.host = s.host ∧ t.fe = s.fe))

/-- R91: rdmeter gives at t+2 what the strand has used of its quota, or its balance, within 64 bits; with drain the strand waits until the charges of
earlier work are applied, and the value then counts them, but not the bundle's own. R27, R96, R97: a sample of the lagoon's voltage is its LEVEL; a
hold begins below THRESH and ends at THRESH + 10. A rail between 420 and 600 mV changes once no strand runs on its die: LEVEL of every lagoon there
follows, THRESH stands 40 mV below, and the other die's rail is then set to the same value; another is not taken. -/
def Obligations.MeterAndRails : Prop :=
  (∀ (s : State) (d : Reg), s.ev.arg = .none →
    let used := fun (x : Int) => BitVec.ofInt 64 (min (s.a.st.quota - x) (2 ^ 64 - 1))
    let bal := fun (x : Int) => BitVec.ofInt 64 (min (max x (-2 ^ 63)) (2 ^ 63 - 1))
    let c := s.a.edge 0 s.now
    Gives (.rdmeterUsed ⟨d, false⟩) s 2 (.s d) (used s.a.st.bal) ∧
    Gives (.rdmeterBal ⟨d, false⟩) s 2 (.s d) (bal s.a.st.bal) ∧
    (∀ p ∈ [(Instr.rdmeterUsed ⟨d, true⟩, false), (.rdmeterBal ⟨d, true⟩, true)],
      (s.a.st.rgn.isSome → Raises p.1 s 7 s.a.st.pos) ∧
      (s.a.st.rgn = none → Issues p.1 s (s.stalled .drain) ⟨c, 6, s.ev.seq, s.a.n, .core, .rdmeterDrainDone, .drain d p.2⟩)) ∧
    ∀ b : Bool, s.a.st.wait = .drain → s.a.st.more = [] → s.drainSteps = [] → c = s.now → (∀ x ∈ s.a.st.due, x.1 ≤ s.now) →
      let x := max (-2 ^ 95) (s.a.st.bal - (s.a.st.due.map fun p => p.2).sum) + 16384
      ∃ t, exec .rdmeterDrainDone (s.given (.drain d b)) = .next t ∧ t.a.st.wait = .none ∧
        OnlyFetch t s.a.n (max (c + s.a.div.core) s.a.st.ready) ∧
        (⟨c + 2 * s.a.div.core, 2, s.ev.seq, s.a.n, .core, .scalarResultLand, .land (.s d) (if b then bal x else used x)⟩ : Ev) ∈ t.agenda ∧
        t = { s.given (.drain d b) with agenda := t.agenda, a := { s.a with st := { s.a.st with wait := .none } } }) ∧
  (∀ (s : State) (mv die : Nat), mv < 4096 →
    let th := (s.a.st.laglvl.extractLsb' 16 12).toNat
    let u := s.given (.n2 die mv)
    (∀ i ∈ [Instr.lagoonHoldBegin, .lagoonHoldEnd], ∃ t, exec i (s.given (.n mv)) = .next t ∧
      (t.a.st.laglvl.extractLsb' 0 12).toNat = mv ∧ t.a.st.laglvl.extractLsb' 12 52 = s.a.st.laglvl.extractLsb' 12 52 ∧
      t.a.st.lagHold = (decide (mv < th) || (s.a.st.lagHold && decide (mv < th + 10))) ∧
      t = { s.given (.n mv) with a := { s.a with st := { s.a.st with laglvl := t.a.st.laglvl, lagHold := t.a.st.lagHold } } }) ∧
    (mv < 420 ∨ 600 < mv → exec .railChange u = .next u) ∧
    (420 ≤ mv → mv ≤ 600 → s.dieBusy die = true → ∃ t, exec .railChange u = .next t ∧ t = { u with agenda := t.agenda } ∧
      { u.ev with tick := s.now + 4 } ∈ t.agenda) ∧
    (420 ≤ mv → mv ≤ 600 → s.dieBusy die = false → die < 2 → ∃ t, exec .railChange u = .next t ∧
      (∀ b, (t.a = b ∨ b ∈ t.others) → b.n / 80 = die →
        (b.st.laglvl.extractLsb' 0 12).toNat = mv ∧ (b.st.laglvl.extractLsb' 16 12).toNat = mv - 40) ∧
      (s.a.n / 80 ≠ die → t.a = s.a) ∧
      (t.fe.rail.1 = t.fe.rail.2 ∨ (⟨s.now, 6, s.ev.seq, s.a.n, .none, .railChange, .n2 (1 - die) mv⟩ : Ev) ∈ t.agenda) ∧ t.fe.rail = (if die = 0 then (mv, s.fe.rail.2) else (s.fe.rail.1, mv)) ∧
      t = { u with fe := { s.fe with rail := t.fe.rail }, a := t.a, others := t.others, agenda := t.agenda }))

/-- R129, R145: realign waits with its bundle issued until every strand of its launch has issued it; after another has stopped, here or in another
package, it raises T_XTIME 0x80. At the release tick every counter of the launch's atolls takes one value: the least multiple of 16 that is no smaller
than any counter of the launch. R378: dsync waits for its domain; without a realign before it raises T_XTIME 0x88, and after a member of its domain
has stopped 0x85. At the release tick each member of a domain that is ready takes the tick as the phase tick of the level, and its sd the GTC of that
tick. -/
def Obligations.RealignAndDsync : Prop :=
  (∀ (s : State) (x : Launch), s.ev.arg = .none → s.launch = some x →
    let lost := (∃ m ∈ x.atolls, s.coords m ≠ s.coords s.a.n ∧ ∃ b, s.atoll m = some b ∧ b.st.run ≠ .run ∧ b.st.run ≠ .halting) ∨
      ∃ h ∈ x.gone, h ≠ s.coords s.a.n
    (s.a.st.rgn.isSome → Raises .realign s 7 s.a.st.pos) ∧
    (s.a.st.rgn = none → lost → Raises .realign s 16 0x80) ∧
    (s.a.st.rgn = none → ¬lost → Issues .realign s (s.stalled .realign) ⟨s.now, 6, s.ev.seq, s.a.n, .none, .realignRelease, .n s.a.slot⟩) ∧
    (Numbered s.a.n (s.others.map Atoll.n) → s.launchOf x.slot = some x → x.atolls.Nodup →
      (∀ m ∈ x.atolls, ∃ b, s.atoll m = some b ∧ b.st.wait = .realign ∧ b.st.more = []) → ∃ t, exec .realignRelease (s.given (.n2 x.slot 0)) = .next t ∧
      let V := ((s.counters x).foldl (fun n c => max n c.toNat) 0 + 15) / 16 * 16
      (∀ m ∈ x.atolls, ∃ b, t.atoll m = some b ∧ BitVec.ofNat 64 s.now + b.st.gtcOff = BitVec.ofNat 64 V ∧ b.st.wait = .none ∧ b.st.realigned = true) ∧
      (∀ m, m ∉ x.atolls → t.atoll m = s.atoll m) ∧ t.now = s.now ∧ t.host = s.host)) ∧
  (∀ (s : State) (x : Launch) (d : Reg) (lvl : BitVec 3), s.ev.arg = .none → s.launch = some x →
    let l := lvl.toNat
    let i := Instr.dsync ⟨d, lvl⟩
    let mate := fun (g : Nat × Nat) => g ≠ s.coords s.a.n ∧ inDomain s.a.st.domain l (g.1 - x.gx) (g.2 - x.gy) = true
    let lost := (∃ m ∈ x.atolls, mate (s.coords m) ∧ ∃ b, s.atoll m = some b ∧ b.st.run ≠ .run ∧ b.st.run ≠ .halting) ∨ ∃ h ∈ x.gone, mate h
    (s.a.st.rgn.isSome → Raises i s 7 s.a.st.pos) ∧
    (s.a.st.rgn = none → s.a.st.realigned = false → Raises i s 16 (0x88 + l * 256)) ∧
    (s.a.st.rgn = none → s.a.st.realigned = true → lost → Raises i s 16 (0x85 + l * 256)) ∧
    (s.a.st.rgn = none → s.a.st.realigned = true → ¬lost →
      Issues i s (s.stalled (.dsync l d)) ⟨s.now, 6, s.ev.seq, s.a.n, .none, .dsyncRelease, .n s.a.slot⟩) ∧
    (Numbered s.a.n (s.others.map Atoll.n) → s.launchOf x.slot = some x → x.atolls.Nodup → s.a.n ∈ s.domainOf x s.a.n l →
      (∀ m ∈ s.domainOf x s.a.n l, s.dsyncReady m l = true ∧ ∃ b, s.atoll m = some b ∧ b.st.more = []) → s.a.st.wait = .dsync l d →
      ∃ t, exec .dsyncRelease (s.given (.n3 x.slot l s.a.n)) = .next t ∧
        (∀ m ∈ s.domainOf x s.a.n l, ∃ b, t.atoll m = some b ∧ b.st.wait = .none ∧ b.st.phaseTick[l]? = some (some s.now)) ∧
        (∀ m, m ∉ s.domainOf x s.a.n l → t.atoll m = s.atoll m) ∧
        ∃ e ∈ t.agenda, e.i = .scalarResultLand ∧ e.atoll = s.a.n ∧ e.tick = s.a.edge 0 s.now ∧
          e.arg = .land (.s d) (BitVec.ofNat 64 s.now + s.a.st.gtcOff)))

/-- R380, R381: the checks of xsend and xrecv in their order, for an address and a partner that are good: no dsync of the level, an entry with the same
key, a tick that has passed. When they pass the entry is made, and nothing else: the source row of a send is due at its station, the deadline of a
receive at R + t + D_path + 256. R373, R381, R382: the row of a send, read at its station, leaves XB at tick R + t and arrives D_path later; for its
posted key it is written and the receive arrives on its barrier, without one it is discarded and a fault is recorded; so it is at the deadline of a
receive that is still empty. -/
def Obligations.ExchangesMoveRows : Prop :=
  (∀ (s : State) (a b c : Reg) (lvl : BitVec 3) (t : BitVec 20), s.ev.arg = .none → LocalAddr (s.rdS a) → LocalAddr (s.rdS c) →
    s.peerTrap (s.rdS b) = none → s.partner lvl.toNat (s.owner (s.rdS b)) = true →
    let l := lvl.toNat
    let snd := Instr.xsend ⟨a, b, lvl, t⟩
    let rcv := Instr.xrecv ⟨a, b, lvl, c, t⟩
    let info := fun code => code + l * 2 ^ 8 + t.toNat * 2 ^ 12
    let peer := s.owner (s.rdS b)
    let ks : XKey := ⟨s.a.n, peer, l, t.toNat⟩
    let kr : XKey := ⟨peer, s.a.n, l, t.toNat⟩
    let row := ((s.rdS a).extractLsb' 7 16).toNat
    match s.a.st.phaseTick[l]? with
    | some (some R) =>
      let due := R + t.toNat + s.pathTo peer + 256
      ((∃ e ∈ s.a.xs, e.key = ks ∧ e.phase = R) → Raises snd s 16 (info 0x86)) ∧
      ((∀ e ∈ s.a.xs, e.key = ks → e.phase ≠ R) → R + t.toNat < s.xbTick row → Raises snd s 16 (info 0x81)) ∧
      ((∀ e ∈ s.a.xs, e.key = ks → e.phase ≠ R) → s.xbTick row ≤ R + t.toNat → s.laneTrap (s.xbReq row) = none →
        ∃ k e, (s.a.res = [] → k = 0) ∧ e.id = s.ev.seq ∧ e.key = ks ∧ e.phase = R ∧ e.dst = row ∧
          Issues snd s { s.reserve (s.xbReq row) k with a := { (s.reserve (s.xbReq row) k).a with xs := s.a.xs ++ [e] } }
            ⟨s.a.edge 4 s.now + (hopsCC row + k) * s.a.div.ring, 0, s.ev.seq, s.a.n, .ring, .scalarStationAccess, .key ks⟩) ∧
      ((∃ e ∈ s.a.xr, e.key = kr ∧ e.phase = R) → Raises rcv s 16 (info 0x86)) ∧
      ((∀ e ∈ s.a.xr, e.key = kr → e.phase ≠ R) → due < s.now → Raises rcv s 16 (info 0x84)) ∧
      ((∀ e ∈ s.a.xr, e.key = kr → e.phase ≠ R) → s.now ≤ due →
        ∃ e, e.id = s.ev.seq ∧ e.key = kr ∧ e.phase = R ∧ e.dst = row ∧ e.bar = (s.rdS c).toNat % 2 ^ 23 ∧ e.barAt = s.a.n ∧
          Issues rcv s { s with a := { s.a with xr := s.a.xr ++ [e] } }
            ⟨due, 6, s.ev.seq, s.a.n, .none, .exchangeReceiveTimeout, .key kr⟩)
    | _ => Raises snd s 16 (info 0x82) ∧ Raises rcv s 16 (info 0x82)) ∧
  (∀ (s : State) (k : XKey) (v : Row),
    let u := s.given (.key k)
    let w := s.given (.keyRow k v)
    let fault := fun (code : Nat) (t : State) => t.a.st.xfault = some (s.a.st.xfault.getD (code + k.lvl * 2 ^ 8 + k.t * 2 ^ 12)) ∧
      t.a.sp = s.a.sp ∧ t.a.st.regs = s.a.st.regs ∧ t.others = s.others ∧ t.dev = s.dev ∧ t.host = s.host
    (∀ e, (s.a.xs.find? fun x => x.key == k) = some e → s.portHeld e.dst true false = false → ∃ t, exec .scalarStationAccess u = .next t ∧
      (t.a.xs.find? fun x => x.key == k) = some { e with row := Mem.row s.a.sp e.dst } ∧
      (⟨edgeAt 4 (max (e.phase + k.t) (s.now + hopsXB e.dst * s.a.div.ring)), 6, s.ev.seq, s.a.n, .none, .xsendDepart, .key k⟩ : Ev) ∈ t.agenda ∧
      t.a.sp = s.a.sp ∧ t.others = s.others) ∧
    (∀ e, (s.a.xs.find? fun x => x.key == k) = some e → k.rcv < 1000 → s.sendsFrom ≤ s.now → ∃ t n, exec .xsendDepart u = .next t ∧
      t.a.xs = (s.a.xs.filter fun x => x.key != k) ∧
      (⟨n, 6, s.ev.seq, k.rcv, .none, .xrecvArrival, .keyRow k e.row⟩ : Ev) ∈ t.agenda ∧ s.now + meshTicks k.snd k.rcv ≤ n ∧
      (s.links = [] → 4 ∣ s.now → k.snd = s.a.n → s.a.n < 160 → k.rcv < 160 → n = s.now + s.pathTo k.rcv) ∧
      t = { u with agenda := t.agenda, links := t.links, a := { s.a with xs := t.a.xs } }) ∧
    (∀ e, (s.a.xr.find? fun x => x.key == k) = some e → s.lkHold posXB [e.dst] true = none → ∃ t, exec .xrecvArrival w = .next t ∧
      (∀ q, Mem.row t.a.sp q = if q = e.dst then v else Mem.row s.a.sp q) ∧ t.a.xr = (s.a.xr.filter fun x => x.key != k) ∧
      (e.barAt < 1000 → ∃ x ∈ t.agenda, x.i = .barrierArrival ∧ x.atoll = e.barAt ∧ x.arg = .acc ⟨.arrive e.ph true 0, e.bar, .none, 0, 0, s.a.n, 0⟩) ∧
      t.others = s.others ∧ t.dev = s.dev ∧ t.host = s.host) ∧
    ((∀ e ∈ s.a.xr, e.key ≠ k) → ∃ t, exec .xrecvArrival w = .next t ∧ fault 0x83 t ∧ t.a.xr = s.a.xr) ∧
    ((∃ e ∈ s.a.xr, e.key = k ∧ s.now = e.phase + k.t + s.pathTo k.snd + 256) → (∀ e ∈ s.agenda, e.i ≠ .xrecvArrival) →
      ∃ t, exec .exchangeReceiveTimeout u = .next t ∧ fault 0x84 t ∧ t.a.xr = (s.a.xr.filter fun x => x.key != k)) ∧
    ((∀ e ∈ s.a.xr, e.key ≠ k) → exec .exchangeReceiveTimeout u = .next u))

/-! ## Device memory (R344 to R354) -/

/-- R347, R348, R353, R354: the patrol scrubber counts what it finds, be it an error of this read or one that stands in the row, and poisons a row it
cannot correct; a layer's temperature sets its refresh interval, and from 105 °C on is recorded; a channel that fails is fenced; the host's retirement
record is kept for the next start. R348 to R352: a timeline word that passes its checks takes effect on its bank and the next is due DT channel clocks
on; one that fails ends the script: dynamic mode, an entry of the event log, and rung 3 for the owner. A refresh interval raises the debt of its
layer, to 1 in a dynamic controller; a DYN window ends with every bank closed. -/
def Obligations.ControllersAndScripts : Prop :=
  (∀ (s : State) (row c stack layer temp : Nat) (l : List Nat) (ch : Chan),
    let at' := s.dev.chanOf row
    let find := fun (t : State) (c : Nat) => t.dev.chans.find? fun x => x.c == c
    let g := fun n => s.given (.n2 row n)
    let k := s.given (.n3 stack layer temp)
    let ck := if temp < 85 then 4880 else if temp < 95 then 2440 else if temp < 105 then 1220 else 610
    let rest := s.dev.errs.filter fun e => e.1 != row
    (∀ n, s.dev.dead row = true → exec .patrolScrub (g n) = .next (g n)) ∧
    ((∀ e ∈ s.dev.errs, e.1 ≠ row) → exec .patrolScrub (g 0) = .next (g 0)) ∧
    (s.dev.dead row = false → ∀ n ∈ [3, 4],
      exec .patrolScrub (g n) = .next { g n with dev := { s.dev with errs := (row, decide (n = 4)) :: rest } }) ∧
    (s.dev.dead row = false → find s at' = some ch →
      (∀ n, n = 1 ∨ n = 0 ∧ (s.dev.errs.find? fun e => e.1 == row) = some (row, false) → ∃ t, exec .patrolScrub (g n) = .next t ∧ find t at' = some { ch with ce := min 65535 (ch.ce + 1) } ∧
        (∀ c ≠ at', find t c = find s c) ∧ t = { g n with dev := { s.dev with chans := t.dev.chans, errs := rest } }) ∧
      ∀ n, n = 2 ∨ n = 0 ∧ (s.dev.errs.find? fun e => e.1 == row) = some (row, true) → ∃ t, exec .patrolScrub (g n) = .next t ∧ find t at' = some { ch with ue := min 65535 (ch.ue + 1) } ∧
        (∀ c ≠ at', find t c = find s c) ∧ (∀ q, Mem.row t.dev.mem q = if q = row then 0 else Mem.row s.dev.mem q) ∧
        (∀ q, q ∈ t.dev.poison ↔ q = row ∨ q ∈ s.dev.poison) ∧
        t = { g n with dev := { s.dev with chans := t.dev.chans, mem := t.dev.mem, poison := t.dev.poison, errs := rest } }) ∧
    (∃ t, exec .layerTempSample k = .next t ∧ (SMap.get t.dev.temps (16 * stack + layer)).toNat = ck ∧
      (∀ n ≠ 16 * stack + layer, SMap.get t.dev.temps n = SMap.get s.dev.temps n) ∧
      (temp < 105 → t = { k with dev := { s.dev with temps := t.dev.temps } }) ∧
      (105 ≤ temp → t = ({ k with dev := { s.dev with temps := t.dev.temps } } : State).record 2 (stack * 2 ^ 8 + layer * 2 ^ 16 + temp * 2 ^ 24))) ∧
    (find s c = some ch → ∃ t, exec .channelFail (s.given (.n c)) = .next t ∧
      find t c = some { ch with state := if ch.state = 0 then 1 else ch.state, running := false, script := [] } ∧ (∀ n ≠ c, find t n = find s n) ∧
      t = { s.given (.n c) with dev := { s.dev with chans := t.dev.chans } }) ∧
    exec .retirementRecordWrite (s.given (.list c l)) = .next { s.given (.list c l) with dev := { s.dev with retire := l } }) ∧
  (∀ (s : State) (c layer : Nat) (ch : Chan) (w : Word), (s.dev.chans.find? fun x => x.c == c) = some ch →
    let g := s.given (.n c)
    let r := s.given (.n2 c layer)
    let t0 := (25 * s.now + 63) / 88
    let find := fun (t : State) (n : Nat) => t.dev.chans.find? fun x => x.c == n
    let only := fun (u t : State) => (∀ n ≠ c, find t n = find s n) ∧ t.a = s.a ∧ t.others = s.others ∧ t.host = s.host ∧ t.dev.mem = s.dev.mem ∧
      t.dev.poison = s.dev.poison ∧ t.now = s.now
    (ch.script[ch.wi]? = none → exec .scriptWord g = .next g) ∧
    (ch.script[ch.wi]? = some w → ch.failed t0 w = none → ∃ t, exec .scriptWord g = .next t ∧ only g t ∧
      find t c = some ({ ch with running := true }.apply t0 s.now w) ∧ t.fe = s.fe ∧
      (let dt := if ch.script.all (fun w => swDt w == 0) then 1 else swDt (ch.script.getD (if swCmd w = 6 then 0 else ch.wi + 1) 0)
       (⟨(88 * (t0 + dt) + 24) / 25, 4, s.ev.seq, s.a.n, .none, .scriptWord, .n c⟩ : Ev) ∈ t.agenda) ∧
      (swCmd w = 7 → (⟨(88 * (t0 + swLen w) + 24) / 25, 4, s.ev.seq, s.a.n, .none, .dynWindowEnd, .n c⟩ : Ev) ∈ t.agenda)) ∧
    (∀ k, ch.script[ch.wi]? = some w → ch.failed t0 w = some k → ∃ t, exec .scriptWord g = .next t ∧ only g t ∧
      find t c = some { ch with running := false, script := [], dyn := false, slot := none, debts := ch.debts.map (min 1) } ∧
      (SMap.get t.fe.evlog (2 * s.fe.evtail + 1)).toNat = (3 + (c * 2 ^ 8 + ch.wi * 2 ^ 16 + k * 2 ^ 32 + ch.owner * 2 ^ 40)) % 2 ^ 64 ∧
      (∀ e ∈ t.agenda, ¬(e.i = .scriptWord ∧ e.arg = .n c)) ∧
      (⟨s.now, 6, s.ev.seq, s.a.n, .none, .ladderT2Expiry, .n2 ch.owner 6⟩ : Ev) ∈ t.agenda) ∧
    (ch.running = false → ∃ t, exec .refreshInterval r = .next t ∧ only r t ∧ t.fe = s.fe ∧
      find t c = some { ch with debts := ch.debts.set layer (min 1 (ch.debts.getD layer 0 + 1)) } ∧
      (ch.script = [] → t.agenda = s.agenda) ∧ (ch.script ≠ [] → ∃ e ∈ t.agenda, e.i = .refreshInterval ∧ e.arg = .n2 c layer)) ∧
    ∃ t, exec .dynWindowEnd g = .next t ∧ only g t ∧ t.agenda = s.agenda ∧ t.fe = s.fe ∧
      find t c = some { ch with dyn := false, banks := ch.banks.map fun b => { b with row := none } })

/-! ## The host side and launches (R368 to R424) -/

/-- R364, R365, R406 to R408, R411: what each packet of a host queue does, and the completion entry that it ends with: NOP and a packet of no defined
form, a harvest of dirty bits, the end of a migration, and the table of compute-capable frames. -/
def Obligations.PacketsEnd : Prop :=
  ∀ (s : State) (q tag : Nat) (w : List Word), w.length = 8 →
    let g := s.given (.packet q tag w)
    let p := fld (w.getD 1 0) 16 32
    let f := fld (w.getD 1 0) 21 27
    let n := (w.getD 3 0).toNat
    let to' := (s.fe.queue q).hostBase + (w.getD 2 0).toNat
    Ends .nop g g q tag (if (w.getD 0 0).toNat % 2 ^ 32 = 0 ∧ ∀ y ∈ w.drop 1, y = 0 then 0 else 7) ∧
    (∃ u, Ends .harvest g u q tag 0 ∧
      (∀ k < n, ∀ j < 64, (Mem.word u.host (to' + 8 * k)).getLsbD j = s.dev.dirty.contains (p + 64 * k + j)) ∧
      (∀ b, (b / 8 < to' / 8 ∨ to' / 8 + n ≤ b / 8) → Mem.word u.host b = Mem.word s.host b) ∧
      (∀ x, x ∈ u.dev.dirty ↔ x ∈ s.dev.dirty ∧ ¬(p ≤ x ∧ x < p + 64 * n)) ∧
      u = { g with host := u.host, dev := { s.dev with dirty := u.dev.dirty } }) ∧
    (∃ u, Ends .migdone g u q tag 0 ∧ (∀ x, x ∈ u.fe.queued ↔ x ∈ s.fe.queued ∧ x ≠ p) ∧
      (∀ x, x ∈ u.dev.acc ↔ x ∈ s.dev.acc ∧ x.1 / 256 ≠ p) ∧
      u = { g with fe := { s.fe with queued := u.fe.queued }, dev := { s.dev with acc := u.dev.acc } }) ∧
    (s.frameOf (fld (w.getD 2 0) 0 6) f = true → ∃ u, Ends .ccadd g u q tag 0 ∧ (∀ x, x ∈ u.dev.cctab ↔ x = f ∨ x ∈ s.dev.cctab) ∧
      u = { g with dev := { s.dev with cctab := u.dev.cctab } }) ∧
    (s.frameOf (fld (w.getD 2 0) 0 6) f = false → Ends .ccadd g g q tag 7) ∧
    let gone := fun (u : State) => ∀ x, x ∈ u.dev.cctab ↔ x ∈ s.dev.cctab ∧ x ≠ f
    (s.nmcOn f = true → ∃ u, exec .ccdel g = .next u ∧ gone u ∧ ({ g.ev with tick := s.now + 4 } : Ev) ∈ u.agenda ∧
      u = { g with agenda := u.agenda, dev := { s.dev with cctab := u.dev.cctab } }) ∧
    (s.nmcOn f = false → ∃ u, Ends .ccdel g u q tag 0 ∧ gone u ∧ u = { g with dev := { s.dev with cctab := u.dev.cctab } })

/-- R401, R404, R405, R410, R411: the doorbell, CHEAD, QCFG, QCTL and QMAP of a queue: what each write leaves in its registers, that no other queue
changes, and that a queue which may go on takes the slot at its head. Before READY a write has no effect. -/
def Obligations.QueueRegistersWrite : Prop :=
  ∀ (s : State) (q n : Nat) (v : Word),
    let x := s.fe.queue q
    let g := s.given (.n2 q n)
    let c := s.given (.nw q v)
    let k := s.given (.n q)
    let only := fun (u t : State) => FrontOnly u t ∧ ∀ p, p ≠ q → t.fe.queue p = s.fe.queue p
    (s.fe.firm.ready = false → exec .qtailDoorbell g = .next g ∧ exec .cheadWrite g = .next g ∧ exec .qcfgWrite c = .next c ∧
      exec .qmapWrite g = .next g) ∧
    (s.fe.firm.ready = true →
      (let err := x.err || decide (2 ^ x.qlog ≤ n % 2 ^ 16)
       ∃ t, exec .qtailDoorbell g = .next t ∧ only g t ∧ (t.fe.queue q).tail = n % 2 ^ 16 ∧ (t.fe.queue q).err = err ∧
        (t.fe.queue q).state = x.state ∧
        (Idle s.fe { x with err := err } → x.head ≠ n % 2 ^ 16 → Takes g t q) ∧
        (x.head = n % 2 ^ 16 → t.agenda = s.agenda)) ∧
      (x.heldc = none → ∃ t, exec .cheadWrite g = .next t ∧ t.fe.queue q = { x with chead := n % 2 ^ 16 } ∧ only g t ∧ t.agenda = s.agenda) ∧
      (∀ w, x.heldc = some w → w.length = 8 → ∃ t, exec .cheadWrite g = .next t ∧
        (let y := { x with chead := n % 2 ^ 16 }
         (y.full = true → t.fe.queue q = y ∧ only g t ∧ t.agenda = s.agenda) ∧
         (y.full = false → (t.fe.queue q).heldc = none ∧ (t.fe.queue q).ctail = (x.ctail + 1) % 2 ^ x.clog ∧
           Mem.word t.host (x.hostBase + x.cbase.toNat + 64 * x.ctail) = w.getD 0 0 ||| (if x.lap then 0x100 else 0)))) ∧
      (x.en = true → v.getLsbD 63 = true → ∃ t, exec .qcfgWrite c = .next t ∧ t.fe.queue q = x ∧ only c t ∧ t.agenda = s.agenda) ∧
      (let ok := fun (m : Nat) => 4 ≤ m ∧ m ≤ 12
       let takes := fun (r : Word) =>
        fld r 0 4 = (if ok (fld v 0 4) then fld v 0 4 else fld x.qcfg 0 4) ∧ fld r 8 4 = (if ok (fld v 8 4) then fld v 8 4 else fld x.qcfg 8 4) ∧
        fld r 16 11 = fld v 16 11 ∧ fld r 32 20 = fld v 32 20 ∧ fld r 61 3 = fld v 61 3 ∧ r &&& 0x1FF00000F800F0F0 = 0
       x.en = false →
        (v.getLsbD 63 = false → ∃ t, exec .qcfgWrite c = .next t ∧ only c t ∧ takes (t.fe.queue q).qcfg ∧
          t.fe.queue q = { x with qcfg := (t.fe.queue q).qcfg }) ∧
        (v.getLsbD 63 = true → s.headOf q = none → ∃ t, exec .qcfgWrite c = .next t ∧ only c t ∧ takes (t.fe.queue q).qcfg ∧
          (t.fe.queue q).err = false ∧ (t.fe.queue q).state = 0 ∧
          (t.fe.queue q).func = (if x.busy = false ∧ (x.err = true ∨ x.head = x.tail) then x.pend.getD x.func else x.func)) ∧
        ∀ l, v.getLsbD 63 = true → s.headOf q = some l → ∃ u, exec .qcfgWrite c = .next ((u.lookDeps l).lookAll) ∧ only c u ∧ takes (u.fe.queue q).qcfg ∧
          (u.fe.queue q).err = false ∧ (u.fe.queue q).state = x.state) ∧
      (x.en = true → v.getLsbD 63 = false → ∃ t, exec .qcfgWrite c = .next t ∧ (t.fe.queue q).state = 9 ∧ (t.fe.queue q).en = false ∧
        (s.headOf q = none → only c t ∧ (t.fe.queue q).func = x.pend.getD x.func)) ∧
      ∃ t, exec .qmapWrite g = .next t ∧ only g t ∧
        t.fe.queue q = (if x.state = 9 ∨ (x.state = 0 ∧ x.head = x.tail ∧ x.busy = false) then { x with func := n % 64, pend := none }
          else { x with pend := some (n % 64) })) ∧
    (s.headOf q = none → exec .qctlPreempt k = .next k ∧ exec .qctlGrant k = .next k) ∧
    (∀ y, s.headOf q = some y → exec .qctlPreempt k = .next (if y.slot = 0 then k else k.preempt y 0)) ∧
    (∀ y, s.headOf q = some y → y.saved = false → y.slot ≠ 0 → x.state ≠ 2 → x.state ≠ 3 → y.members = [] → y.atolls.Nodup →
      Numbered s.a.n (s.others.map Atoll.n) → ∃ t, exec .qctlGrant k = .next t ∧
        (∀ m a, s.atoll m = some a → m ∈ y.atolls → ∃ b, t.atoll m = some b ∧ b.st.quota = (a.st.quota + x.grant) % 2 ^ 96 ∧
          meterBits b.st.bal = meterBits a.st.bal + BitVec.ofNat 96 x.grant ∧ b.st.regs = a.st.regs) ∧
        (∀ m, m ∉ y.atolls → t.atoll m = s.atoll m) ∧ t.fe = s.fe ∧ t.dev = s.dev ∧ t.host = s.host) ∧
    (∀ y, s.headOf q = some y → y.saved = false → x.state = 2 ∨ x.state = 3 → y.desc.length = 32 → ∃ t, exec .qctlGrant k = .next t ∧
      FrontOnly k t ∧ ∃ z ∈ t.fe.launches, z.id = y.id ∧
        z.da 8 + 2 ^ 64 * z.df 9 0 32 = (y.da 8 + 2 ^ 64 * y.df 9 0 32 + x.grant) % 2 ^ 96) ∧
    (x.state ≠ 7 → exec .qctlRelease k = .next k) ∧
    (∀ y, x.state = 7 → s.headOf q = some y → ∃ t, exec .qctlRelease k = .next t ∧ only k t ∧ t.fe.queue q = { x with state := 6 } ∧
      (∃ z ∈ t.fe.launches, z.id = y.id ∧ z.since = s.now) ∧ ∃ e ∈ t.agenda, e.i = .schedulerPlace ∧ e.arg = .none) ∧
    (x.state ≠ 8 → exec .qctlReenable k = .next k) ∧
    (x.state = 8 → ∃ t, exec .qctlReenable k = .next t ∧ only k t ∧ (t.fe.queue q).state = 0 ∧
      (s.fe.blocker ≠ some q → x.pend = none → Idle s.fe { x with state := 0 } → x.head ≠ x.tail → Takes k t q))

/-- R370, R371, R406, R409, R411: LAUNCH takes the queue's next sequence number, and is checked: a bad descriptor ends the launch with status 1, a good
one looks at its dependences: it becomes READY, goes on waiting, or ends with DEPFAIL. A launch that ends leaves its entry and its status behind. An
imported launch whose save area is bad ends as a packet does; else its queue is SAVED, with QSW.PCOUNT from the header and every other bit of QSW
zero. -/
def Obligations.LaunchPacketsEnter : Prop :=
  ∀ (s : State) (q tag : Nat) (w : List Word),
    let g := s.given (.packet q tag w)
    let x := s.fe.queue q
    let y := g.launchOfPacket q tag w
    (y.q = q ∧ y.seqn = x.seqn ∧ y.tag = tag ∧ y.meter = (w.getD 2 0).toNat ∧ y.slot = 0 ∧
      (∀ k < 32, y.dw k = Mem.word s.dev.mem ((w.getD 1 0).toNat + 8 * k))) ∧
    (∃ u, exec .launch g = .next (if g.descBad y (w.getD 1 0).toNat then u.endLaunch y 1 0 else (u.lookDeps y).lookAll) ∧ FrontOnly g u ∧
      u.agenda = s.agenda ∧ u.fe.queue q = { x with seqn := (x.seqn + 1) % 2 ^ 19, qsw := 0, preempt := none } ∧ y ∈ u.fe.launches ∧
      u.fe.endOf (q, x.seqn) = none) ∧
    (g.descBad y (w.getD 1 0).toNat = true ∨ (y.dw 0).getLsbD 11 = true ∨ g.headerBad y = true → Ends .launchResume g g q tag 1) ∧
    (g.descBad y (w.getD 1 0).toNat = false → (y.dw 0).getLsbD 11 = false → g.headerBad y = false →
      ∃ t, exec .launchResume g = .next t ∧ FrontOnly g t ∧ (t.fe.queue q).state = 6 ∧ (t.fe.queue q).seqn = (x.seqn + 1) % 2 ^ 19 ∧
        (t.fe.queue q).qsw = Mem.word s.dev.mem (y.savePa + 24) <<< 32 ∧
        ∃ z ∈ t.fe.launches, z.id = y.id ∧ z.saved = true ∧ z.imported = true) ∧
    (∀ (u : State) (z : Launch), z.home = none →
      let ends := z.deps.map fun d => u.fe.endOf d
      let ign := (z.dw 0).getLsbD 12
      (ign = false → (∃ e ∈ ends, ∃ n, e = some n ∧ n ≠ 0) → u.lookDeps z = u.leave z 2 0) ∧
      ((ign = true ∨ ∀ e ∈ ends, e = none ∨ e = some 0) → (∀ e ∈ ends, e ≠ none) → FrontOnly u (u.lookDeps z) ∧
        ((u.lookDeps z).fe.queue z.q).state = 2 ∧ ∃ e ∈ (u.lookDeps z).agenda, e.i = .schedulerPlace ∧ e.arg = .none) ∧
      ((ign = true ∨ ∀ e ∈ ends, e = none ∨ e = some 0) → (∃ e ∈ ends, e = none) → FrontOnly u (u.lookDeps z) ∧
        ((u.lookDeps z).fe.queue z.q).state = 1)) ∧
    ∀ (u : State) (z : Launch) (status st : Nat), z.meter = 0 → ∃ v, FrontOnly u v ∧ (v.fe.queue z.q).state = st ∧
      v.fe.endOf (z.q, z.seqn) = some status ∧ (∀ l ∈ v.fe.launches, l.id ≠ z.id) ∧ (v.fe.queue z.q).qsw = (u.fe.queue z.q).qsw ∧
      Entry v (u.leave z status st) z.q ([nat64 (status + z.seqn * 2 ^ 16 + z.q * 2 ^ 35), nat64 (z.tag * 2 ^ 32), (u.fe.queue z.q).qsw] ++
        (List.range 5).map fun k => if status = 5 then z.fault.2.getD k 0 else 0)

/-- R8, R19, R347, R373, R403, R416, R417: cold and warm starts, their end with the crossing bounds measured anew (free values, log 1), loss of power, and
firmware updates: what stays, what is lost, and what DEVSTAT then says. -/
def Obligations.StartsAndFirmware : Prop :=
  ∀ (s : State) (k : Nat) (v : Word),
    let f := s.fe.firm
    let r := State.reset
    let dark := fun (t : State) => t = { r with dev := { r.dev with retire := s.dev.retire }, host := s.host, out := s.out
                                                fe := { r.fe with px := s.fe.px, py := s.fe.py, mesh := s.fe.mesh, firm := t.fe.firm }
                                                free := s.free + 1, seq := s.seq, agenda := t.agenda }
    let cold := fun (t : State) => dark t ∧ t.fe.firm = { Firm.init with image := f.image, staged := f.staged, roll := f.roll, links := [0, 0, 0, 0] } ∧
      (⟨Config.nominal s.free, 6, r.ev.seq, 0, .none, .startDone, .none⟩ : Ev) ∈ t.agenda ∧
      ∀ e ∈ t.agenda, e.i = .startDone ∨ ∃ d ∈ s.agenda, e = { d with tick := d.tick - s.now }
    let g := s.given (.nw k v)
    (f.recov = true → exec .devctlCold s = .next s ∧ exec .devctlWarm s = .next s) ∧
    (f.recov = false → ∃ t, exec .devctlCold s = .next t ∧ cold t) ∧ (∃ t, exec .powerOn s = .next t ∧ cold t) ∧
    (∃ t, exec .powerLoss s = .next t ∧ dark t ∧ t.fe.firm.ready = false ∧ t.fe.firm.roll = f.roll ∧
      (f.busy = false → t.fe.firm.image = f.image ∧ t.fe.firm.staged = f.staged) ∧ ∀ e ∈ t.agenda, ∃ d ∈ s.agenda, e = { d with tick := d.tick - s.now }) ∧
    ((∃ e ∈ s.agenda, e.i = .devctlCold ∧ e.tick = s.now) → exec .devctlWarm s = .next s) ∧
    (f.recov = false → (∀ e ∈ s.agenda, e.i = .devctlCold → e.tick ≠ s.now) → ∃ t, exec .devctlWarm s = .next t ∧ t.now = s.now ∧ t.fe.launches = [] ∧ (∀ q, t.fe.queue q = Queue.init q) ∧ t.fe.firm.ready = false ∧
      t.fe.firm.warm = true ∧ t.fe.firm.links = f.links ∧ t.fe.firm.image = f.image ∧ t.fe.rail = s.fe.rail ∧ t.fe.temp = s.fe.temp ∧
      (∀ m, (t.atoll m).map (fun b => b.st.gtcOff) = (s.atoll m).map fun b => b.st.gtcOff) ∧
      (∀ m b, t.atoll m = some b → b.slot = 0 ∧ b.st.run = .off ∧ b.sp = []) ∧
      ∃ e ∈ t.agenda, e.i = .startDone ∧ e.tick = s.now + Config.nominal (t.free - 1)) ∧
    (f.image = none → exec .startDone s = .next { s with fe := { s.fe with firm := { f with recov := true } } }) ∧
    (∀ n, f.image = some n → ∃ t, exec .startDone s = .next t ∧ t.fe.firm.ready = true ∧ t.fe.firm.image = some (f.staged.getD n) ∧ t.fe.firm.staged = none ∧
      t.fe.firm.roll = max f.roll (f.staged.getD n) ∧ (f.warm = true → t.fe.firm.links = f.links) ∧
      t.dev.live = ((List.range 256).filter fun c => !s.dev.retire.contains c) ∧ (t.dev.live = s.dev.live → t.dev.mem = s.dev.mem) ∧
      (t.dev.live ≠ s.dev.live → t.dev.mem = [] ∧ t.dev.poison = []) ∧
      t.fe.cross = (List.range 4).map (fun k => Config.nominal (s.free + 4 + k)) ∧
      t = { s with free := s.free + 8, dev := t.dev, fe := { s.fe with firm := t.fe.firm, cross := t.fe.cross } }) ∧
    (v.getLsbD 0 = true → f.busy = false → ∃ t, exec .fwupdGo g = .next t ∧ FrontOnly g t ∧
      t.fe = { s.fe with firm := { f with addr := fld v 12 52, busy := true, err := false, done := false } } ∧
      (⟨s.now + Config.nominal s.free, 6, s.ev.seq, 0, .none, .firmwareUpdateDone, .none⟩ : Ev) ∈ t.agenda) ∧
    (v.getLsbD 0 = false ∨ f.busy = true → exec .fwupdGo g = .next { g with fe := { s.fe with firm := { f with addr := fld v 12 52 } } }) ∧
    ∃ t n, exec .firmwareUpdateDone s = .next t ∧ t = { s with free := s.free + 2, fe := { s.fe with firm := t.fe.firm } } ∧
      (t.fe.firm = { f with busy := false, err := true } ∨
        f.roll ≤ n ∧ t.fe.firm = { f with busy := false, done := true, staged := some n, image := some (f.image.getD n) })

/-- R8, R9, R402 to R404, R415, R418, R419, R423: what is written to a RW register is read back in its defined bits, a read answers the register's value
and clears an RC field, and nothing else changes. The debug window reads and writes the word that DBGADDR names, a word only while its strand is at
rest, and stops and releases launches. -/
def Obligations.HostRegistersAndDebugWindow : Prop :=
  ∀ (s : State) (off q k : Nat) (v : Word) (b : Bool), s.fe.firm.ready = true →
    let rd := s.given (.n off)
    let wr := fun n => s.given (.nw n v)
    let u := s.dbgUnit
    let m := s.dbgAtoll
    let i := s.dbgIndex
    let answer := fun (x : Word) => s.out ++ [⟨11, [0x1008, x.toNat], none⟩]
    (∃ t, exec .readClear rd = .next t ∧ t = { rd with out := s.out ++ [⟨11, [off, (s.register off).toNat], none⟩], fe := t.fe } ∧
      t.fe = (if off = 0x2010 then { s.fe with evlost := 0 } else if off = 0x3018 then { s.fe with nqlost := 0 } else s.fe)) ∧
    (∀ r ∈ [(0x100, 0xFFFFFFFF#64), (0x2000, 0xFF#64), (0x3000, BitVec.allOnes 64), (0x3008, 0xFFF#64)],
      ∃ t, exec .registerWrite (wr r.1) = .next t ∧ t.register r.1 = v &&& r.2 ∧ t = { wr r.1 with fe := t.fe }) ∧
    (∃ t, exec .registerWrite (wr 0x1000) = .next t ∧ t = { wr 0x1000 with fe := { s.fe with dbgaddr := t.fe.dbgaddr } } ∧
      t.fe.dbgaddr = (if fld v 56 8 ∈ [1, 2, 3, 4, 5, 6, 7, 8, 0x10, 0x11] then v else setBits v 56 8 (fld s.fe.dbgaddr 56 8))) ∧
    (∀ j fn, fn < 64 → (s.fe.owned fn)[j]? = some q →
      ∀ r ∈ [(0x00, BitVec.allOnes 64), (0x08, BitVec.allOnes 64), (0x48, BitVec.allOnes 64), (0x50, 0xFFFFFFFF#64)],
      let a := 2 ^ 26 + 2 ^ 24 * fn + 4096 * j + r.1
      ∃ t, exec .registerWrite (wr a) = .next t ∧ t.register a = v &&& r.2 ∧ t = { wr a with fe := { s.fe with queues := t.fe.queues } } ∧
        ∀ p, p ≠ q → t.fe.queue p = s.fe.queue p) ∧
    (∀ n, exec .readClear (s.given (.n2 off n)) = .next { s.given (.n2 off n) with out := s.out ++ [⟨11, [off, 0], none⟩] }) ∧
    exec .registerWrite (wr 0) = .next (wr 0) ∧
    (u ≠ 0x10 → u ≠ 0x11 → (160 ≤ m ∨ s.guarded (s.slotOf m) = true) → exec .dbgdataRead s = .next { s with out := answer 0 }) ∧
    (1 ≤ u → u ≤ 8 → m < 160 → s.guarded (s.slotOf m) = false → exec .dbgdataRead s =
      .next { s with out := answer ((((s.focus m).updA (Atoll.settle s.now)).unitWord u i false)) }) ∧
    (∀ c, u = 0x10 → i = 0 → (s.dev.chans.find? fun x => x.c == m) = some c → ∃ t, exec .dbgdataRead s = .next t ∧ t.out = answer (s.dev.chan m).chstat ∧
      (t.dev.chans.find? fun x => x.c == m) = some { c with ue := 0, ce := 0 } ∧ t = { s with out := t.out, dev := { s.dev with chans := t.dev.chans } }) ∧
    ((160 ≤ m ∨ s.guarded (s.slotOf m) = true ∨ (s.focus m).a.atRest = false) → exec .dbgdataWrite (wr k) = .next (wr k)) ∧
    (m < 160 → s.guarded (s.slotOf m) = false → (s.focus m).a.atRest = true → Numbered s.a.n (s.others.map Atoll.n) →
      ∃ t, exec .dbgdataWrite (wr k) = .next t ∧ t.fe = s.fe ∧ t.dev = s.dev ∧ t.host = s.host ∧ t.now = s.now ∧
        (∀ n, n ≠ m → t.atoll n = s.atoll n) ∧
        (u = 1 → (h : 0 < i ∧ i < 64) → ∃ y, t.atoll m = some y ∧ y.st.regs[i] = v) ∧
        (u = 4 → i < 786432 → ∃ y, t.atoll m = some y ∧ Mem.word y.sp (8 * i) = v)) ∧
    (s.slotOf m = 0 ∨ s.guarded (s.slotOf m) = true → exec .dbgctlStop s = .next s) ∧
    (s.slotOf m ≠ 0 → s.guarded (s.slotOf m) = false → ∃ t, exec .dbgctlStop s = .next t ∧
      Due ⟨s.now, 6, s.ev.seq, s.a.n, .none, .preemptRequest, .n2 (s.slotOf m) 4⟩ s t) ∧
    (∀ x, s.slotOf m ≠ 0 → s.launchOf (s.slotOf m) = some x → s.guarded (s.slotOf m) = false → ∃ t, exec .dbgctlBrken (s.given (.nb k b)) = .next t ∧
      t.fe.launches = (s.fe.launches.map fun y => if y.id = x.id then { y with brken := b } else y) ∧
      t = { s.given (.nb k b) with fe := { s.fe with launches := t.fe.launches } }) ∧
    ∀ x, (s.fe.launches.find? fun y => y.home.isNone && (s.fe.queue y.q).state == 7 && fld (s.fe.queue y.q).qsw 8 3 == 4 && y.atolls.contains m &&
        !s.fe.tdi.contains (s.fe.queue y.q).func) = some x → ∃ t, exec .dbgctlResume s = .next t ∧ FrontOnly s t ∧ (t.fe.queue x.q).state = 6

/-- R29, R413, R414, R420, R424: a mismatch of the scheduler pair is recorded and is FATAL when a second follows within one second, as a supply fault is:
every launch ends. A worker that is restarted reads its packet again; a wear report that crosses AGETHR is recorded; a die at 105 °C pre-empts its
launches, at 110 °C they go to rung 3. -/
def Obligations.FaultsAndHealth : Prop :=
  ∀ (s : State) (w i wear eolh die temp : Nat),
    let f := s.fe.firm
    let second := ∃ t, f.mismatch = some t ∧ s.now - t < 4400000000
    let fatal := fun (t : State) => t.fe.firm.fatal = true ∧ t.fe.launches = []
    let g := s.given (.n w)
    let a := s.given (.n3 i wear eolh)
    let j := s.given (.n2 die temp)
    (second → ∃ t, exec .pairMismatch s = .next t ∧ fatal t) ∧
    (¬second → ∃ t, exec .pairMismatch s = .next t ∧ t.fe.firm = { f with mismatch := some s.now } ∧
      (t.fe.launches.map fun x => x.id) = s.fe.launches.map fun x => x.id) ∧
    (∃ t, exec .supplyFault s = .next t ∧ fatal t) ∧
    ((∀ e ∈ s.agenda, ∀ q n l, e.arg = .packet q n l → q % 8 ≠ w) → exec .workerFault g = .next (g.record 7 (w * 2 ^ 8))) ∧
    (∀ e q n l, s.agenda.find? (fun e => match e.arg with
        | .packet q _ _ => q % 8 == w
        | _ => false) = some e → e.arg = .packet q n l → (s.fe.queue q).head < 2 ^ (s.fe.queue q).qlog →
      let h := ((s.fe.queue q).head + 2 ^ (s.fe.queue q).qlog - 1) % 2 ^ (s.fe.queue q).qlog
      ∃ t u, exec .workerFault g = .next t ∧ u = { (g.record 7 (w * 2 ^ 8 + q * 2 ^ 16)) with fe := u.fe, agenda := s.agenda.filter fun x => x != e } ∧
        u.fe.queue q = { s.fe.queue q with busy := false, head := h } ∧
        (Idle s.fe (u.fe.queue q) → h ≠ (s.fe.queue q).tail → Takes u t q)) ∧
    (i < s.fe.ages.length →
      let e := min eolh (2 ^ 32 - 1)
      let cross := s.fe.agethr ≤ fld (s.fe.ages.getD i 0) 0 32 ∧ e < s.fe.agethr
      ∃ t, exec .ageUpdate a = .next t ∧ fld (t.fe.ages.getD i 0) 0 32 = e ∧ fld (t.fe.ages.getD i 0) 32 16 = wear % 2 ^ 16 ∧
        (∀ n ≠ i, t.fe.ages.getD n 0 = s.fe.ages.getD n 0) ∧ (¬cross → t = { a with fe := { s.fe with ages := t.fe.ages } }) ∧
        (cross → t = (({ a with fe := { s.fe with ages := t.fe.ages } } : State).record 9 (i * 2 ^ 8 + e * 2 ^ 32)))) ∧
    ∃ t, exec .junctionTempReport j = .next t ∧ FrontOnly j t ∧ t.fe.temp = (if die = 0 then (temp, s.fe.temp.2) else (s.fe.temp.1, temp)) ∧
      let on := s.fe.launches.filter fun x => x.slot != 0 && x.atolls.any fun m => m / 80 == die
      (110 ≤ temp → t.fe.evtail = (s.fe.evtail + 1) % 256 ∧ ∀ x ∈ on, (⟨s.now, 6, s.ev.seq, s.a.n, .none, .ladderT2Expiry, .n2 x.slot 1⟩ : Ev) ∈ t.agenda) ∧
      (105 ≤ temp → temp < 110 → ∀ x ∈ on, (⟨s.now, 6, s.ev.seq, s.a.n, .none, .preemptRequest, .n2 x.slot 1⟩ : Ev) ∈ t.agenda) ∧
      (temp < 105 → ∀ e ∈ t.agenda, e ∈ s.agenda ∨ e.i = .schedulerPlace)

/-- R163, R166, R384, R393 to R395, R400, R403, R415: revocation clears V in every handle that names the frame, and is complete when nothing issued with
it is left; tearing down a PASID ends the launches bound to it; a page request is answered to the pagers that wait; and what the monitor, the links
and TDISP assign. -/
def Obligations.TranslationsAndAssignments : Prop :=
  ∀ (s : State) (sp frame p fn base len root va attr : Nat) (ok : Bool),
    let g := s.given (.n2 sp frame)
    let c := s.given (.n p)
    (Numbered s.a.n (s.others.map Atoll.n) → ∃ t, exec .revokePage g = .next t ∧
      (∀ m a, m < 160 → s.atoll m = some a → a.slot ≠ 0 → ∃ b, t.atoll m = some b ∧ b.st.regs = a.st.regs ∧ b.sp = a.sp ∧
        ∀ k : Fin 32, b.st.hs[k] = if hValid a.st.hs[k] = true ∧ hSpace a.st.hs[k] = sp ∧ hFrame a.st.hs[k] = frame then a.st.hs[k] &&& ~~~(1#64 <<< 63)
          else a.st.hs[k]) ∧
      t.fe.revoking = frame :: s.fe.revoking ∧ ∃ e ∈ t.agenda, e.i = .revocationComplete ∧ e.arg = .n2 sp frame) ∧
    (let left := (∃ e ∈ s.agenda, ∃ x, e.arg = .gacc x ∧ x.frame = frame ∧ (x.host = true ↔ sp = 3)) ∨
        (sp = 2 ∧ ∃ e ∈ s.agenda, ∃ a b, (∃ d r, e.arg = .hist d a b frame r) ∨ e.arg = .spill a b frame) ∨
        ∃ a ∈ s.a :: s.others, (∃ x ∈ a.cq, ∃ o ∈ [x.dst, x.src, x.ext], o.sp = sp ∧ o.frame = frame) ∨ ∃ x ∈ a.lq, x.kind = .nmc ∧ sp = 2 ∧ x.frame = frame
     (left → ∃ t, exec .revocationComplete g = .next t ∧ ({ g.ev with tick := s.now + 4 } : Ev) ∈ t.agenda ∧ t = { g with agenda := t.agenda }) ∧
     (¬left → exec .revocationComplete g =
       .next { g with fe := { s.fe with revoking := s.fe.revoking.erase frame }, out := s.out ++ [⟨12, [sp, frame], none⟩] })) ∧
    (let hit := fun (x : Launch) => x.home = none ∧ (fld (s.fe.queue x.q).qcfg 32 20 = p ∨ (x.slot ≠ 0 ∨ x.saved = true) ∧ s.binds x p = true)
     ∃ t, exec .pasidTeardown c = .next t ∧ t.out.getLast? = some ⟨13, [p], none⟩ ∧ (∀ x ∈ s.fe.launches, hit x → ∀ y ∈ t.fe.launches, y.id ≠ x.id) ∧
       (let bound := fun (x : Queue) => x.qcfg.getLsbD 61 = true ∧ fld x.qcfg 32 20 = p
        let asked := fun (q : Nat) => ∃ e ∈ s.agenda, ∃ k w, e.arg = .packet q k w
        ((∀ x ∈ s.fe.launches, x.slot = 0 ∧ ¬hit x) → (∀ x ∈ s.fe.queues, bound x → ¬asked x.q) → t = { c with out := s.out ++ [⟨13, [p], none⟩] }) ∧
        (s.fe.launches = [] → ∀ x, s.fe.queues.find? (fun y => y.q == x.q) = some x → bound x → asked x.q →
          t.fe.queue x.q = { x with busy := false, head := (x.head + 2 ^ x.qlog - 1) % 2 ^ x.qlog } ∧
            ∀ e ∈ t.agenda, ∀ k w, e.arg ≠ .packet x.q k w))) ∧
    (Numbered s.a.n (s.others.map Atoll.n) →
      let e : PageMap := ⟨va, attr.testBit 0, attr / 2 % 4, attr.testBit 3, attr.testBit 4, attr / 32, frame⟩
      let covers := fun (m : PageMap) => if m.big then m.va / 2 ^ 21 = va / 2 ^ 21 else m.va / 2 ^ 16 = va / 2 ^ 16
      ∃ t, exec .pageRequestResponse (s.given (.page root va ok frame attr)) = .next t ∧
        (∀ m, m ∈ t.tableOf root ↔ (m ∈ s.tableOf root ∧ ¬covers m) ∨ ok = true ∧ m = e) ∧ (∀ r, r ≠ root → t.tableOf r = s.tableOf r) ∧
        ∀ m a x, m < 160 → s.atoll m = some a → a.st.wait = .pager → a.slot ≠ 0 → s.launchOf a.slot = some x → x.da 5 = root →
          (if e.big then fld a.st.trinfo 0 48 / 2 ^ 21 = va / 2 ^ 21 else fld a.st.trinfo 0 48 / 2 ^ 16 = va / 2 ^ 16) →
          ∃ b, t.atoll m = some b ∧ (ok = true → b.st.wait = .none ∧ b.st.pc = fld a.st.trpc 0 48) ∧ (ok = false → b.st.run = .fault 4)) ∧
    (∃ t, exec .memoryAssignment (s.given (.n3 fn base len)) = .next t ∧
      (∀ m, m ∈ t.fe.memFn ↔ m = (fn, base, len) ∨ m ∈ s.fe.memFn ∧ ¬max base m.2.1 < min (base + len) (m.2.1 + m.2.2)) ∧
      t = { s.given (.n3 fn base len) with fe := { s.fe with memFn := t.fe.memFn } }) ∧
    (∃ t, exec .pasidAssignment (s.given (.n2 p fn)) = .next t ∧ (∀ m, m ∈ t.fe.pasids ↔ m = (p, fn) ∨ m ∈ s.fe.pasids) ∧
      t = { s.given (.n2 p fn) with fe := { s.fe with pasids := t.fe.pasids } }) ∧
    (∀ k, ∃ t, exec .hostLinkRetrain (s.given (.n3 k p fn)) = .next t ∧
      (let ok := p = 0 ∨ p < 4 ∧ (fn = 6 ∨ fn = 7)
       let g := if p = 0 then 0 else fn
       let l := s.fe.firm.links
       t.fe.firm.links = if ¬ok then l else if k = 0 then [p, g, l.getD 2 0, l.getD 3 0] else [l.getD 0 0, l.getD 1 0, p, g]) ∧
      t = { s.given (.n3 k p fn) with fe := { s.fe with firm := { s.fe.firm with links := t.fe.firm.links } } }) ∧
    (∃ l, l.length = 4 ∧ exec .spdmRequest c = .next { c with free := s.free + 4, out := s.out ++ [⟨14, p :: l, none⟩] }) ∧
    ∃ t, exec .tdispRequest (s.given (.nb p ok)) = .next t ∧
      (∀ x, x ∈ t.fe.tdi ↔ if x = p ∧ 0 < p ∧ p < 64 then ok = true else x ∈ s.fe.tdi) ∧ t = { s.given (.nb p ok) with fe := { s.fe with tdi := t.fe.tdi } }

/-- R25, R315 to R318: a port takes the frame that its VC expects next, acknowledges it and delivers it; it acknowledges again one that it has had, and
asks once for a replay of a bad frame or one that came early; an acknowledgement frees the frames kept up to it; a replay request sends the frames
again from the named one on, in their order; after eight failed replays, or when lock is lost, the port is out of service; a spare is bound only where
its die has the group and the group has fewer than four ports in service. -/
def Obligations.StraitFramesArrive : Prop :=
  ∀ (s : State) (port vc seq grp d : Nat) (ok : Bool) (x : Acc) (f : Frame),
    let g := fun f => s.given (.msg port vc seq ok f)
    let r := s.given (.n3 port vc seq)
    let l := s.given (.n port)
    let b := s.given (.n2 port grp)
    let out := fun (t : State) => ∀ p ∈ t.fe.ports, p.n = port → p.up = false
    let plain := ∀ a c, f.m ≠ .acked a c
    (let can := (port = 8 ∧ grp < 3 ∨ port = 17 ∧ (grp = 1 ∨ grp = 2 ∨ grp = 3)) ∧ (s.portsOf grp).length < 4 ∧ ∃ p ∈ s.fe.ports, p.n = port ∧ p.up = false
     (¬can → exec .sparePortBind b = .next b) ∧
     (can → exec .sparePortBind b = .next { b with fe := { s.fe with ports := s.fe.ports.map fun p =>
       if p.n = port then { p with up := true, grp := grp } else p } })) ∧
    match s.fe.ports.find? fun p => p.n == port && p.up with
    | none => (plain → exec .straitFrameReceive (g f) = .next (g f)) ∧ exec .replayRequest r = .next r ∧ exec .rclkLockLoss l = .next l
    | some p =>
      let want := p.rx.getD vc 0
      let acks := s.out ++ [⟨16, [port, vc, seq], none⟩]
      let sent := p.kept.filter fun k => k.1 == vc
      let n := ((p.fails.find? fun k => k.1 == vc && k.2.1 == seq).map fun k => k.2.2).getD 0 + 1
      (ok = true → seq = want → s.fromName d < 1000 →
        let taken := fun (f : Frame) => { (g f).updPort port fun p => { p with rx := p.rx.set vc ((want + 1) % 4096), asked := p.asked.filter fun v => v != vc } with
          out := acks }
        let arrives := fun (m : Msg) (ph : Nat) (i : Instr) (a : Arg) => ∃ t, exec .straitFrameReceive (g ⟨f.src, m⟩) = .next t ∧
          Due ⟨s.now, ph, s.ev.seq, s.fromName d, .none, i, a⟩ (taken ⟨f.src, m⟩) t
        (arrives (.access d x) 6 (match x.op with
          | .arrive .. => .barrierArrival
          | _ => .remoteAccessArrival) (.acc x)) ∧
        (∀ row v mask xor id, arrives (.copyRow d row v mask xor id) 1 .copyRow (.msg 0 0 0 true ⟨f.src, .copyRow d row v mask xor id⟩)) ∧
        (∀ tile src stile row, arrives (.header d tile src stile row) 6 .tileHeaderArrival (.hdr tile src stile row)) ∧
        (∀ tile src stile k i row l b, s.atoll (s.fromName d) = some b →
          (b.parts.find? fun y => y.1 == tile && y.2.1 == src && y.2.2.1 == stile) = some (tile, src, stile, l) → l.length = 3 → i ≠ 0 →
          ∃ t, exec .straitFrameReceive (g ⟨f.src, .plane d tile src stile k i row⟩) = .next t ∧
            (⟨s.now, 6, s.ev.seq, s.fromName d, .none, .planeLanded, .rows (l ++ [row]) tile k src stile⟩ : Ev) ∈ t.agenda) ∧
        (∀ tile, arrives (.ack d tile) 6 .linkCommandArrive (.nb tile true)) ∧ (∀ tile, arrives (.cancel d tile) 6 .cancelMessage (.n tile)) ∧
        (∀ tile src stile, arrives (.endStream d tile src stile) 6 .endMessage (.n3 tile src stile)) ∧
        (∀ k v, arrives (.row d k v) 6 .xrecvArrival (.keyRow { k with rcv := s.fromName d } v))) ∧
      (plain → ok = true → seq ≠ want → (want + 4096 - seq) % 4096 ≤ 2048 → exec .straitFrameReceive (g f) = .next { g f with out := acks }) ∧
      (plain → ok = false ∨ (seq ≠ want ∧ 2048 < (want + 4096 - seq) % 4096) →
        (seq ≠ want → vc ∈ p.asked → exec .straitFrameReceive (g f) = .next (g f)) ∧
        (seq = want ∨ vc ∉ p.asked → ∃ t, exec .straitFrameReceive (g f) = .next t ∧ t.out = s.out ++ [⟨15, [port, vc, want], none⟩] ∧
          (∀ q ∈ t.fe.ports, q.n = port → vc ∈ q.asked) ∧ t = { g f with out := t.out, fe := { s.fe with ports := t.fe.ports } })) ∧
      (∀ a, f.m = .acked vc a → ok = true → (s.fe.ports.find? fun q => q.n == port) = some p → p.wait = [] → ∀ early k late, sent = early ++ k :: late →
        (∀ y ∈ early, y.2.1 ≠ a) → k.2.1 = a → ∃ t, exec .straitFrameReceive (g f) = .next t ∧
          (∃ q, (t.fe.ports.find? fun q => q.n == port) = some q ∧ q.kept = (p.kept.filter fun y => y.1 != vc) ++ late) ∧
          t = { g f with fe := { s.fe with ports := t.fe.ports } }) ∧
      (n ≤ 8 → ∃ t early late rest, exec .replayRequest r = .next t ∧ sent = early ++ late ∧ (∀ y ∈ early, y.2.1 ≠ seq) ∧
        (∀ y, late.head? = some y → y.2.1 = seq) ∧ t.out = s.out ++ (late.map fun y => ⟨10, [port, vc, y.2.1], some y.2.2⟩) ++ rest ∧
        ((∀ q ∈ s.fe.ports, q.wait = []) → rest = []) ∧ t = { r with out := t.out, fe := { s.fe with ports := t.fe.ports } }) ∧
      (8 < n → ∃ t, exec .replayRequest r = .next t ∧ out t) ∧ ∃ t, exec .rclkLockLoss l = .next t ∧ out t

/-- R372, R373, R375: the scheduler takes its candidates in order: the first that fits has its atolls and a launch slot, its queue is PLACING and its
start is due. After 10 ms without fitting a candidate becomes the blocker, and the blocker's requests are raised again every 10 ms. R57, R105, R373,
R374, R386, R389: a launch whose atolls are claimed ends with PLACEFAIL when a link on its paths is down, with BADDESC when the origin that the
scheduler chose does not suit its tables; else its strands take their start state and run, each from CODE_VA + ENTRY, at an edge of its own core
clock, and its queue is RUNNING; a restore adds one to PCOUNT, and every strand's QSW is the queue's. -/
def Obligations.LaunchesArePlaced : Prop :=
  (∀ (s : State) (q k : Nat),
    let g := s.given .none
    let b := s.given (.n2 q k)
    let due := fun (x : Launch) => match x.unfit with
      | some u => decide (u + 44000000 ≤ s.now)
      | none => false
    let timer := fun (t : State) (q k : Nat) => (⟨s.now + 44000000, 6, s.ev.seq, 0, .none, .blockerTimeout, .n2 q k⟩ : Ev) ∈ t.agenda
    (s.fe.blocker = none → s.candidates = [] → exec .schedulerPlace g = .next g) ∧
    (∀ x l y, s.fe.blocker = none → (s.fe.launches.map Launch.id).Nodup → s.candidates = x :: l → (s.choices x).find? (fun y => s.fits y) = some y →
      (∀ p ∈ y.packages, 32 * p.1 + p.2 = s.fe.pkg) → ∃ t, exec .schedulerPlace g = .next t ∧ (t.fe.queue x.q).state = 3 ∧
        (∃ z ∈ t.fe.launches, z.id = x.id ∧ z.slot = s.fe.freeSlot ∧ z.atolls = y.atolls) ∧
        (∀ m ∈ y.atolls, ∃ a, t.atoll m = some a ∧ a.slot = s.fe.freeSlot) ∧ ∃ e ∈ t.agenda, e.i = .schedulerPlace ∧ e.arg = .n s.fe.freeSlot) ∧
    (s.fe.blocker = none → s.candidates.find? due = none → exec .blockerTimeout b = .next b) ∧
    (∀ x, s.fe.blocker = none → s.candidates.find? due = some x → ∃ t, exec .blockerTimeout b = .next t ∧ FrontOnly b t ∧
      t.fe = { s.fe with blocker := some x.q } ∧ timer t x.q s.now ∧ ∃ e ∈ t.agenda, e.i = .schedulerPlace ∧ e.arg = .none) ∧
    ∀ x p, s.fe.blocker = some p → s.headOf p = some x → ∃ t, exec .blockerTimeout b = .next t ∧ (p ≠ q → t = b) ∧
      (p = q → t = { b with agenda := t.agenda } ∧ timer t q k)) ∧
  (∀ (s : State) (x : Launch) (slot : Nat), slot ≠ 0 → s.launchOf slot = some x →
    let g := s.given (.n slot)
    let good := (s.fe.queue x.q).state = 3 ∧ x.home = none ∧ s.pathsUp x = true ∧ x.members = [] ∧ Numbered s.a.n (s.others.map Atoll.n) ∧
      x.atolls.Nodup ∧ ∀ m ∈ x.atolls, m < 160
    ((s.fe.queue x.q).state ≠ 3 ∨ x.home ≠ none → exec .schedulerPlace g = .next g) ∧
    ((s.fe.queue x.q).state = 3 → x.home = none → s.pathsUp x = false → ∃ t, exec .schedulerPlace g = .next t ∧ Gone x 3 t ∧
      (t.fe.queue x.q).state = 0) ∧
    ((s.fe.queue x.q).state = 3 → x.home = none → s.pathsUp x = true → s.placedBad x = true → ∃ t, exec .schedulerPlace g = .next t ∧ Gone x 1 t ∧
      (t.fe.queue x.q).state = 0) ∧
    (good → s.placedBad x = false → x.saved = false → x.df 14 0 16 = 0 → x.df 16 0 16 = 0 → ∃ t, exec .schedulerPlace g = .next t ∧ (t.fe.queue x.q).state = 4 ∧
      ∀ m ∈ x.atolls, ∃ b, t.atoll m = some b ∧ b.slot = slot ∧ b.sp = [] ∧ b.v = [] ∧ b.masks = Vector.replicate 16 0 ∧ b.cells = [] ∧
        b.div = (let d := max 4 (railFloor (s.railOf m))
                 ⟨d, d, d, d, d, d⟩) ∧
        b.st.run = .run ∧ b.st.pc = (x.df 3 0 48 + x.df 4 32 32) % 2 ^ 48 / 8 * 8 ∧ b.st.codeLo = x.df 3 0 48 ∧
        b.st.codeHi = x.df 3 0 48 + x.df 4 0 32 ∧ b.st.regs = Vector.replicate 64 0 ∧ b.st.preds = 1 ∧ b.st.hs = Vector.replicate 32 0 ∧
        b.st.quota = x.da 8 + 2 ^ 64 * x.df 9 0 32 ∧ meterBits b.st.bal = BitVec.ofNat 96 (x.da 8 + 2 ^ 64 * x.df 9 0 32) ∧ b.st.tvec = x.dw 10 ∧
        b.st.sbmode = 0 ∧ b.st.trpc = 0 ∧ b.st.trcause = 0 ∧ b.st.trinfo = 0 ∧ b.st.qsw = 0 ∧ b.st.lc = 0 ∧ b.st.idlemx = 0x10101010 ∧
        ∃ e ∈ t.agenda, e.i = .bundleFetch ∧ e.atoll = m ∧ s.now ≤ e.tick ∧ e.tick % b.div.core = 0) ∧
    (good → x.saved = true → ∃ t, exec .schedulerPlace g = .next t ∧ (t.fe.queue x.q).state = 4 ∧
      fld (t.fe.queue x.q).qsw 32 32 = min (2 ^ 32 - 1) (x.pcount + 1) ∧
      ∀ m ∈ x.atolls, ∃ b, t.atoll m = some b ∧ b.slot = slot ∧ b.st.qsw = (t.fe.queue x.q).qsw ∧ b.st.realigned = false))

/-- R384 to R388: a request puts a running launch on rung 1: its queue is PREEMPTING with the reason in QSW, every strand has an event to take, T1 runs;
T1 starts rung 2, which stops commands and loses exchange entries, and T2 runs; T2, or a reason of 5 to 7, is rung 3. A rung that succeeds leaves the
launch SAVED, or HELD for reasons 2 and 4, with the header of its save area written and its atolls free. -/
def Obligations.LadderOfPreemption : Prop :=
  ∀ (s : State) (x : Launch) (slot r : Nat), slot ≠ 0 → s.launchOf slot = some x → x.home = none →
    let g := s.given (.n slot)
    let p := s.given (.n2 slot r)
    let st := (s.fe.queue x.q).state
    let dueAt := fun (t : State) (k a : Nat) (i : Instr) (y : Arg) => (⟨k, 6, s.ev.seq, a, .none, i, y⟩ : Ev) ∈ t.agenda
    let rungOf := fun (t : State) => (t.fe.launches.find? fun y => y.slot == slot).map fun y => y.rung
    let reset := fun (t : State) (status : Nat) => Gone x status t ∧ (t.fe.queue x.q).state = 8 ∧ fld (t.fe.queue x.q).qsw 0 2 = 3
    (5 ≤ r → ∃ t, exec .preemptRequest p = .next t ∧ Due ⟨s.now, 6, s.ev.seq, s.a.n, .none, .ladderT2Expiry, .n2 slot r⟩ p t) ∧
    (r < 5 → st = 3 → ∃ t, exec .preemptRequest p = .next t ∧ FrontOnly p t ∧ t.agenda = s.agenda ∧
      t.fe.queue x.q = { s.fe.queue x.q with preempt := some ((s.fe.queue x.q).preempt.getD r) }) ∧
    (r < 5 → st ≠ 3 → st ≠ 4 → exec .preemptRequest p = .next p) ∧
    (r < 5 → st = 4 → Numbered s.a.n (s.others.map Atoll.n) → x.atolls.Nodup → ∃ t, exec .preemptRequest p = .next t ∧
      (t.fe.queue x.q).state = 5 ∧ fld (t.fe.queue x.q).qsw 8 3 = r ∧ rungOf t = some 1 ∧
      dueAt t (s.now + (s.fe.queue x.q).t1 * 4400) 0 .ladderT1Expiry (.n slot) ∧ dueAt t s.now s.a.n .drainComplete (.n slot) ∧
      ∀ m ∈ x.atolls, ∀ a, s.atoll m = some a → a.st.run = .run → ∃ b, t.atoll m = some b ∧ b.st.evReq = true ∧ b.st.regs = a.st.regs ∧ b.sp = a.sp) ∧
    (x.rung ≠ 1 → exec .ladderT1Expiry g = .next g) ∧
    (x.rung = 1 → ∃ t, exec .ladderT1Expiry g = .next t ∧ rungOf t = some 2 ∧
      dueAt t (s.now + (s.fe.queue x.q).t2 * 4400000) 0 .ladderT2Expiry (.n slot) ∧ (∃ e ∈ t.agenda, e.i = .saveComplete ∧ e.arg = .n slot) ∧
      (∀ e ∈ t.agenda, e.atoll ∈ x.atolls → e.i ≠ .copyStart ∧ e.i ≠ .planeSent ∧ e.i ≠ .nmcRowUpdate ∧ e.i ≠ .xrecvArrival) ∧
      ∀ m ∈ x.atolls, ∀ b, t.atoll m = some b → b.xs = [] ∧ b.xr = []) ∧
    (x.rung ≠ 2 → exec .ladderT2Expiry g = .next g) ∧ (x.rung = 2 → ∃ t, exec .ladderT2Expiry g = .next t ∧ reset t 4) ∧
    (∃ t, exec .ladderT2Expiry p = .next t ∧ reset t (if r = 7 then 6 else 4) ∧
      (r < 8 → fld (t.fe.queue x.q).qsw 8 3 = r)) ∧
    (x.rung ≠ 2 → exec .saveComplete g = .next g) ∧ (x.rung = 0 → exec .drainComplete g = .next g) ∧
    ∀ i n, (i, n) ∈ [(Instr.drainComplete, 1), (Instr.saveComplete, 2)] → x.rung = n → x.members = [] →
      (s.rungDone x = false → ∃ t, exec i g = .next t ∧ t = { g with agenda := t.agenda } ∧
        (s.workOf x ≠ [] → ∃ e ∈ t.agenda, e.i = i ∧ e.arg = .n slot ∧ s.now < e.tick)) ∧
      (s.rungDone x = true → x.savePa % 8 = 0 → ∃ t, exec i g = .next t ∧
        (t.fe.queue x.q).state = (if x.reason = 2 ∨ x.reason = 4 then 7 else 6) ∧ fld (t.fe.queue x.q).qsw 0 2 = n ∧
        (∃ y ∈ t.fe.launches, y.id = x.id ∧ y.saved = true ∧ y.slot = 0 ∧ y.since = s.now) ∧
        (∀ m ∈ x.atolls, ∀ b, t.atoll m = some b → b.slot = 0 ∧ b.st.run = .off ∧ b.sp = []) ∧
        ∀ k v, (k, v) ∈ [(0, nat64 (1 + n * 2 ^ 8)), (1, x.rect), (2, nat64 x.atolls.length), (3, nat64 x.pcount)] →
          Mem.word t.dev.mem (x.savePa + 8 * k) = v)

/-- R390, R391, R411: a launch whose strands have all halted, and of whose commands nothing is left, ends with status 0; one of whose strands faults ends
through rung 3 with status 5 and the words of the fault, one that loses a link with status 6 and reason 7. -/
def Obligations.LaunchesEndAndFree : Prop :=
  ∀ (s : State) (x : Launch) (slot code : Nat), slot ≠ 0 → s.launchOf slot = some x → x.home = none →
    let g := s.given (.n slot)
    let f := s.given (.n2 slot code)
    let st := (s.fe.queue x.q).state
    let ended := s.teamOver x = true ∧ (st = 4 ∨ st = 5) ∧ ∀ m ∈ x.members, m.2 = 3
    (ended → ∃ t, exec .launchEnd g = .next t ∧ Gone x 0 t ∧ (t.fe.queue x.q).state = 0 ∧ fld (t.fe.queue x.q).qsw 0 2 = fld (s.fe.queue x.q).qsw 0 2) ∧
    (¬ended → (∃ m ∈ x.atolls, ∃ b, s.atoll m = some b ∧ b.st.run ≠ .halted) → exec .launchEnd g = .next (g.ladderLook x)) ∧
    (¬ended → (∀ m ∈ x.atolls, ∀ b, s.atoll m = some b → b.st.run = .halted ∧ b.empty = true) → s.workOf x ≠ [] → ∃ t, exec .launchEnd g = .next t ∧
      t = { g with agenda := t.agenda } ∧ ∃ e ∈ t.agenda, e.i = .launchEnd ∧ e.arg = .n slot ∧ s.now < e.tick) ∧
    ∃ t, exec .strandFaultEnd f = .next t ∧ Gone x (if code = 256 then 6 else 5) t ∧ (t.fe.queue x.q).state = 8 ∧
      fld (t.fe.queue x.q).qsw 0 2 = 3 ∧ (code = 256 → fld (t.fe.queue x.q).qsw 8 3 = 7) ∧
      (x.meter = 0 → s.fe.launches = [x] → code ≠ 256 → ∀ m a, x.atolls = [m] → s.atoll m = some a →
        (s.fe.queue x.q).full = false →
        let w := (s.fe.queue x.q).hostBase + (s.fe.queue x.q).cbase.toNat + 64 * (s.fe.queue x.q).ctail
        Mem.word t.host (w + 24) = nat64 ((20 * s.fe.px + m / 8) + (8 * s.fe.py + m % 8) * 2 ^ 10) ∧
          Mem.word t.host (w + 32) = a.st.trpc ∧ Mem.word t.host (w + 40) = a.st.trcause ∧ Mem.word t.host (w + 48) = a.st.trinfo)

/-- R397, R398: a claim of another front end is granted when the atolls, dies and units that it names are free, and refused otherwise; a withdrawn one is
free again; the home front end goes on to the next member, or to the start, and ends a placement that is not reported in time. R374, R392, R397 to
R399: what an order of the home front end does at a member: registers and rows for the strands that an entry names, the report that its steps are
done, the start of its strands, a grant, and the release of its atolls. Nominal times are free values (log 1). -/
def Obligations.MembersOfALaunch : Prop :=
  (∀ (s : State) (n id home gx gy w h graphs p : Nat) (chans l : List Nat),
    let c := s.given (.list n (id :: home :: gx :: gy :: w :: h :: graphs :: chans))
    let k := s.fe.freeSlot
    let rect := s.fe.inside ((s.launchId id).getD (memberLaunch id home k gx gy w h))
    let free := s.freeAtolls rect = true ∧ s.cool rect = true ∧ s.unitsFree graphs chans = true
    let fits := ∀ y, s.launchId id = some y → y.home = some home
    (fits → ¬free → exec .placementClaim c = .next (c.toFront home [2, 1, id, s.fe.pkg])) ∧
    (fits → free → ∃ u : State, exec .placementClaim c = .next (u.toFront home [2, 0, id, s.fe.pkg]) ∧
      (∀ m a, s.atoll m = some a → u.atoll m = some (if m ∈ rect then { a with slot := k } else a)) ∧
      (∃ x ∈ u.fe.launches, x.id = id ∧ x.home = some home ∧ x.slot = k ∧ x.atolls = rect) ∧ u.now = s.now ∧ u.host = s.host ∧ u.out = s.out) ∧
    ∀ x, s.launchId id = some x →
      let wd := s.given (.list n [id])
      let rep := fun kind => s.given (.list n (kind :: id :: p :: l))
      let t0 := s.given (.n2 id n)
      (x.home = none → exec .claimWithdraw wd = .next wd) ∧
      (x.home ≠ none → x.slot ≠ 0 → ∃ t, exec .claimWithdraw wd = .next t ∧ (∀ y ∈ t.fe.launches, y.id = id → x.saved = true ∧ y.slot = 0) ∧
        (x.saved = true → ∃ y ∈ t.fe.launches, y.id = id ∧ y.saved = true ∧ y.kept = x.kept) ∧
        ∀ m ∈ x.atolls, ∀ b, t.atoll m = some b → b.slot = 0 ∧ b.sp = []) ∧
      (x.home ≠ none → ∀ kind, exec .memberReport (rep kind) = .next (rep kind)) ∧
      (x.home = none → ∃ u : State, FrontOnly (rep 0) u ∧ u.agenda = s.agenda ∧
        (∃ y ∈ u.fe.launches, y.id = id ∧ ∀ m ∈ y.members, m.1 = p → m.2 = 1) ∧
        ((∀ m ∈ x.members, m.1 = p ∨ m.2 ≠ 0) → ∃ t, exec .memberReport (rep 0) = .next t ∧
          Due ⟨s.now + Config.nominal s.free, 6, s.ev.seq, 0, .none, .schedulerPlace, .n x.slot⟩ { u with free := s.free + 1 } t)) ∧
      (x.home = none → ∃ t, exec .memberReport (rep 3) = .next t ∧ FrontOnly (rep 3) t ∧
        (∃ y ∈ t.fe.launches, y.id = id ∧ y.meters = x.meters ++ pairsOf l) ∧
        (⟨s.now, 6, s.ev.seq, s.a.n, .none, .launchEnd, .n x.slot⟩ : Ev) ∈ t.agenda) ∧
      (x.home ≠ none ∨ (s.fe.queue x.q).state ≠ 3 → exec .memberReportTimeout t0 = .next t0) ∧
      (x.home = none → (s.fe.queue x.q).state = 3 → x.slot ≠ 0 → ∃ t, exec .memberReportTimeout t0 = .next t ∧ Gone x 3 t ∧
        (t.fe.queue x.q).state = 0)) ∧
  (∀ (s : State) (n id home p row : Nat) (w v : Word) (x : Launch) (y : Row) (l : List Nat), s.launchId id = some x → x.home = some home →
    Numbered s.a.n (s.others.map Atoll.n) → x.atolls.Nodup →
    let o := fun kind l => s.given (.list n (kind :: id :: p :: l))
    let named := fun (m : Nat) => w.getLsbD 18 = true ∨ (20 * s.fe.px + m / 8) - x.gx = fld w 0 10 ∧ (8 * s.fe.py + m % 8) - x.gy = fld w 10 8
    let all := fun (t : State) (f : Nat → Atoll → Atoll → Prop) => (∀ m a, s.atoll m = some a → m ∈ x.atolls → ∃ b, t.atoll m = some b ∧ f m a b) ∧
      ∀ m, m ∉ x.atolls → t.atoll m = s.atoll m
    (∃ t, exec .memberLoad (o 1 [w.toNat, v.toNat]) = .next t ∧ all t fun m a b =>
      (∀ k : Fin 64, (named m → k.val ≠ fld w 24 6 → b.st.regs[k] = a.st.regs[k]) ∧
        (named m → k.val = fld w 24 6 → k.val ≠ 0 → b.st.regs[k] = v)) ∧ b = { a with st := { a.st with regs := b.st.regs } } ∧ (¬named m → b = a)) ∧
    (∃ t, exec .memberLoad (o 2 [w.toNat, row, y.toNat]) = .next t ∧ all t fun m a b =>
      (∀ q, Mem.row b.sp q = if named m ∧ q = row then y else Mem.row a.sp q) ∧ b = { a with sp := b.sp }) ∧
    exec .memberLoad (o 4 l) = .next ((o 4 l).toFront home [2, 2, id, s.fe.pkg]) ∧
    (x.slot ≠ 0 → (∀ m ∈ x.atolls, m < 160) → ∃ t, exec .memberLoad (o 5 l) = .next t ∧ ∀ m a, s.atoll m = some a → m ∈ x.atolls → a.st.run = .off →
      ∃ b, t.atoll m = some b ∧ b.st.run = .run ∧ b.st.pc = a.st.pc ∧ b.st.regs = a.st.regs ∧ b.sp = a.sp ∧
        ∃ e ∈ t.agenda, e.i = .bundleFetch ∧ e.atoll = m ∧ e.tick = edgeAt a.div.core e.tick) ∧
    (x.slot ≠ 0 → ∃ t, exec .memberLoad (o 8 [row]) = .next t ∧ all t fun _ a b =>
      b.st.quota = (a.st.quota + row) % 2 ^ 96 ∧ meterBits b.st.bal = meterBits a.st.bal + BitVec.ofNat 96 row ∧ b.st.regs = a.st.regs) ∧
    (x.slot ≠ 0 → ∃ t, exec .memberLoad (o 7 l) = .next t ∧ (∀ z ∈ t.fe.launches, z.id ≠ id) ∧
      ∀ m ∈ x.atolls, ∀ b, t.atoll m = some b → b.slot = 0 ∧ b.st.run = .off ∧ b.sp = []))

/-! ## The whole machine -/

/-- R30, R38 to R52, R58 to R69: every syllable that is well formed decodes, from its word, to itself, with every operand at every value that it can hold,
whatever the S bit. R38, R40, R58: the decoder drops no bit: a word that decodes is the one encoding, with its S bit, of what it decodes to, which is
well formed. -/
def Obligations.DecodeAndEncodeAgree : Prop :=
  (∀ (y : Syl) (last : Bool), y.wf = true → decode (encode y last) = .ok y ∧ sylLast (encode y last) = last) ∧
  (∀ (w : Word) (y : Syl), decode w = .ok y → y.wf = true ∧ encode y (sylLast w) = w)

/-- R30, R48 to R51, R59 to R69: words of the opcode table's families, written out from the encodings of the spec, decode to the syllables that they stand
for. -/
def Obligations.WordsDecode : Prop :=
  decode 0x8008208400000000#64 = .ok ⟨0, .add ⟨1, 1, 2⟩⟩ ∧ decode 0x8808410000000080#64 = .ok ⟨0, .addi ⟨2, 2, 1⟩⟩ ∧
    decode 0x90280FFFFFFFF000#64 = .ok ⟨0, .loop ⟨0xFFFFFFFF⟩⟩ ∧ decode 0x9820030380000000#64 = .ok ⟨0, .mtsr ⟨.lc, 6⟩⟩ ∧
    decode 0xA008C08000008000#64 = .ok ⟨0, .lds ⟨6, 1, 8⟩⟩ ∧ decode 0xA028048030000002#64 = .ok ⟨2, .xlat ⟨3, 9⟩⟩ ∧
    decode 0xA81007002008000C#64 = .ok ⟨0, .vadd ⟨7, 1, 2, 0, 3, 0⟩⟩ ∧ decode 0xB030010040100018#64 = .ok ⟨0, .vfmul ⟨1, 2, 4, 0, 6, 0⟩⟩ ∧
    decode 0xB8100500008000C0#64 = .ok ⟨0, .vld ⟨5, 1, 3, 0⟩⟩ ∧ decode 0xC028800C040C0001#64 = .ok ⟨0, .mmacr ⟨1, 6, some 12, 1⟩⟩ ∧
    decode 0xC808900028000008#64 = .ok ⟨0, .rtqr ⟨1, 2, 5, 2, none, 0⟩⟩ ∧ decode 0xD03001400030E000#64 = .ok ⟨0, .cpyz ⟨0, 0, 5, 6, 7⟩⟩ ∧
    decode 0xD808210600283C24#64 = .ok ⟨0, .lsend ⟨1, 2, 3, 5, 9, 15⟩⟩ ∧ decode 0xE050621180001900#64 = .ok ⟨0, .xrecv ⟨3, 4, 1, 6, 400⟩⟩ ∧
    decode 0x7804C00000000000#64 = .ok ⟨0, .pfx ⟨true, 3, false, 0, 0, false, 0⟩⟩ ∧
    decode 0xE800000000000000#64 = .error .reservedClass ∧ decode 0x8000000000000000#64 = .error .reservedOpcode

/-- R12, R19, R57, R96, R98, R105, R121 to R125, R249, R273, R346: after a cold start begins the reference count and GTC are 0, every atoll of the package
is free, its registers, scratchpad and arrays hold zero, its divisors are 4, every queue is disabled, and READY is clear. The invariant holds after a
cold start begins: every memory is in its one form, and the atolls of the package are numbered 0 to 159, each once (R12; log 4). -/
def Obligations.ResetState : Prop :=
  (State.reset.now = 0 ∧ State.reset.fe.launches = [] ∧ State.reset.fe.firm.ready = false ∧ State.reset.dev.mem = [] ∧
    (∀ q, (State.reset.fe.queue q).state = 9 ∧ (State.reset.fe.queue q).en = false) ∧
    (∀ c < 256, (State.reset.dev.chans.find? fun x => x.c == c) = some (Chan.init c)) ∧
    ∀ n < 160, ∃ a, State.reset.atoll n = some a ∧ a.slot = 0 ∧ a.div = ⟨4, 4, 4, 4, 4, 4⟩ ∧ a.sp = [] ∧ a.v = [] ∧ a.masks = Vector.replicate 16 0 ∧
      a.weights = [] ∧ a.rings = Vector.replicate 16 0 ∧ a.fq = [] ∧ a.cells = [] ∧ a.rtm = 0x118 ∧ a.cq = [] ∧ a.lq = [] ∧ a.ctr = [] ∧
      a.st.run = .off ∧ a.st.regs = Vector.replicate 64 0 ∧ a.st.preds = 1 ∧ a.st.hs = Vector.replicate 32 0 ∧ a.st.lc = 0 ∧ a.st.aclass = 0x70000 ∧
      a.st.sbmode = 0 ∧ a.st.gtcOff = 0 ∧ a.st.atc = 0 ∧ a.st.idlemx = 0x10101010 ∧ a.st.trcause = 0 ∧ a.st.qsw = 0) ∧
  (State.reset.Inv)

/-- From any state that meets the invariant a step leaves a state that meets it: memories stay in their one form, and the package keeps its atolls,
whatever step of the whole machine is taken (R12; log 2, 4, 8). -/
def Obligations.StepKeepsInv : Prop :=
∀ s t : State, s.Inv → step s = .next t → t.Inv

/-- Every instruction, and every step, of every state answers a next state: the machine of this manual never stops (R135, R136, R391). Log 2: a step that
is no fetch is `exec` of the step at the head of the agenda, with its tick as the present one, its atoll in focus and settled, its rotator's visits up
to that tick made (to the tick before for a step that reads), and the crossings of mesh links that are past forgotten; with nothing on the agenda a
step changes nothing. -/
def Obligations.StepAlwaysAnswers : Prop :=
  ((∀ (i : Instr) (s : State), ∃ t, exec i s = .next t) ∧ ∀ s : State, ∃ t, step s = .next t) ∧
  (∀ (s t : State) (e : Ev) (r : List Ev),
    let m := max s.now e.tick
    (s.agenda = [] → step s = .next s) ∧
    (s.agenda = e :: r → e.i ≠ .bundleFetch → exec e.i (s.take e r) = .next t → t.issueQ = [] → step s = .next t) ∧
    ((s.take e r).now = m ∧ (s.take e r).ev = e ∧ (s.take e r).agenda = r ∧ (s.take e r).dev = s.dev ∧
      (s.take e r).fe = s.fe ∧ (s.take e r).host = s.host ∧ (∀ l, l ∈ (s.take e r).links ↔ l ∈ s.links ∧ m ≤ l.1) ∧
      (s.a.n = e.atoll → (s.take e r).a = (s.a.settle m).rotate (if e.phase = 0 then m - 1 else m) ∧ (s.take e r).others = s.others)))
end

