-- ==== Sys2Proof/Laws/Data.lean ====
section
/-! SUPPORT. The sparse memories keep their canonical form, and a value written is read back (R5, R17). -/

namespace Sys2Proof.Machine

theorem SMap.wf_iff {w : Nat} (m : SMap w) :
    SMap.wf m = true ↔ m.Pairwise (fun c d => c.1 < d.1) ∧ ∀ c ∈ m, c.2 ≠ 0 := by
  induction m with
  | nil => simp [SMap.wf]
  | cons c r ih =>
    cases r with
    | nil => simp [SMap.wf]
    | cons d r =>
      simp only [SMap.wf, Bool.and_eq_true, bne_iff_ne, ne_eq, decide_eq_true_eq, ih, List.pairwise_cons, List.mem_cons]
      constructor
      · rintro ⟨⟨hc, hd⟩, hp, hn⟩
        refine ⟨⟨?_, hp⟩, ?_⟩
        · rintro x (rfl | hx)
          · exact hd
          · exact hd.trans (hp.1 x hx)
        · rintro x (rfl | hx)
          · exact hc
          · exact hn x hx
      · rintro ⟨⟨hl, hp⟩, hn⟩
        exact ⟨⟨hn c (.inl rfl), hl d (.inl rfl)⟩, hp, fun x hx => hn x (.inr hx)⟩

@[simp] theorem SMap.wf_filter {w : Nat} (m : SMap w) (f : Nat × BitVec w → Bool) (h : SMap.wf m = true) : SMap.wf (m.filter f) = true := by
  rw [SMap.wf_iff] at h ⊢
  exact ⟨h.1.filter f, fun c hc => h.2 c (List.mem_of_mem_filter hc)⟩

theorem SMap.wf_append {w : Nat} (x y : SMap w) (hx : SMap.wf x = true) (hy : SMap.wf y = true)
    (h : ∀ c ∈ x, ∀ d ∈ y, c.1 < d.1) : SMap.wf (x ++ y) = true := by
  rw [SMap.wf_iff] at hx hy ⊢
  refine ⟨List.pairwise_append.mpr ⟨hx.1, hy.1, h⟩, fun c hc => ?_⟩
  rcases List.mem_append.mp hc with hc | hc
  · exact hx.2 c hc
  · exact hy.2 c hc

@[simp] theorem SMap.wf_set {w : Nat} (m : SMap w) (k : Nat) (v : BitVec w) (h : SMap.wf m = true) : SMap.wf (SMap.set m k v) = true := by
  have hm : SMap.wf (if v = 0 then [] else [(k, v)]) = true := by
    split
    · rfl
    · next hv => simpa [SMap.wf] using hv
  refine SMap.wf_append _ _ (SMap.wf_filter _ _ h) (SMap.wf_append _ _ hm (SMap.wf_filter _ _ h) ?_) ?_
  · intro c hc d hd
    have hd := (List.mem_filter.mp hd).2
    split at hc <;> simp_all
  · intro c hc d hd
    have hc := (List.mem_filter.mp hc).2
    rcases List.mem_append.mp hd with hd | hd
    · split at hd <;> simp_all
    · have hd := (List.mem_filter.mp hd).2
      simp only [decide_eq_true_eq] at hc hd
      omega

theorem cellsOf_wf (n a v : Nat) : Memory.wf (cellsOf n a v) = true ∧ ∀ c ∈ cellsOf n a v, a ≤ c.1 ∧ c.1 < a + n := by
  induction n generalizing a v with
  | zero => simp [cellsOf, SMap.wf]
  | succ n ih =>
    obtain ⟨h1, h2⟩ := ih (a + 1) (v / 256)
    simp only [cellsOf]
    refine ⟨SMap.wf_append _ _ ?_ h1 ?_, ?_⟩
    · split
      · rfl
      · next hv =>
        simp only [SMap.wf, bne_iff_ne, ne_eq]
        intro h
        have := congrArg BitVec.toNat h
        simp at this
        omega
    · intro c hc d hd
      have := h2 d hd
      split at hc
      · simp at hc
      · simp at hc
        subst hc
        simp
        omega
    · intro c hc
      rcases List.mem_append.mp hc with hc | hc
      · split at hc
        · simp at hc
        · simp at hc
          subst hc
          simp
      · have := h2 c hc
        omega

@[simp] theorem Mem.wf_write (m : Mem) (a n v : Nat) (h : Memory.wf m = true) : Memory.wf (m.write a n v) = true := by
  obtain ⟨h1, h2⟩ := cellsOf_wf n a v
  refine SMap.wf_append _ _ (SMap.wf_filter _ _ h) (SMap.wf_append _ _ h1 (SMap.wf_filter _ _ h) ?_) ?_
  · intro c hc d hd
    have hd := (List.mem_filter.mp hd).2
    have := h2 c hc
    simp only [decide_eq_true_eq] at hd
    omega
  · intro c hc d hd
    have hc := (List.mem_filter.mp hc).2
    simp only [decide_eq_true_eq] at hc
    rcases List.mem_append.mp hd with hd | hd
    · have := h2 d hd
      omega
    · have hd := (List.mem_filter.mp hd).2
      simp only [decide_eq_true_eq] at hd
      omega

@[simp] theorem Mem.wf_setRow (m : Mem) (r : Nat) (v : Row) (h : Memory.wf m = true) : Memory.wf (m.setRow r v) = true := Mem.wf_write _ _ _ _ h
@[simp] theorem Mem.wf_setWord (m : Mem) (a : Nat) (v : Word) (h : Memory.wf m = true) : Memory.wf (m.setWord a v) = true := Mem.wf_write _ _ _ _ h
end Sys2Proof.Machine
end

