-- ==== Sys2Proof/Laws/InvOps.lean ====
section
/-! SUPPORT. The invariant of the machine is kept by the shared operations of Ops.lean (R5, R12; log 4). -/

namespace Sys2Proof.Machine

set_option linter.unusedSimpArgs false
set_option linter.unusedVariables false
set_option linter.unreachableTactic false
set_option linter.unusedTactic false

/-- The answer of a step keeps the invariant. -/
def ResInv (r : Res) : Prop :=
  match r with
  | .next s => s.Inv
  | _ => True

@[simp] theorem resInv_next {s : State} : ResInv (.next s) = s.Inv := rfl
@[simp] theorem resInv_fault {f : Fault} : ResInv (.fault f) = True := rfl
@[simp] theorem resInv_refused {f : Refusal} : ResInv (.refused f) = True := rfl

/-! ## The parts of the invariant -/

@[simp] theorem State.inv_mk {now : Nat} {a : Atoll} {others : List Atoll} {dev : Dev} {fe : Fe} {host : Mem} {links : List (Nat × Nat)} {out : List Out} {agenda : List Ev} {free : Nat} {seq : Nat} {ev : Ev} {issueQ : List (Option Syl)} :
    State.Inv ⟨now, a, others, dev, fe, host, links, out, agenda, free, seq, ev, issueQ⟩ ↔
      SMap.wf host = true ∧ dev.Canon ∧ SMap.wf fe.evlog = true ∧ a.Canon ∧ AllCanon others ∧ Numbered a.n (others.map Atoll.n) :=
  Iff.rfl

@[simp] theorem State.Inv.host_wf {s : State} (h : s.Inv) : SMap.wf s.host = true := h.1
@[simp] theorem State.Inv.dev_canon {s : State} (h : s.Inv) : s.dev.Canon := h.2.1
@[simp] theorem State.Inv.evlog_wf {s : State} (h : s.Inv) : SMap.wf s.fe.evlog = true := h.2.2.1
@[simp] theorem State.Inv.a_canon {s : State} (h : s.Inv) : s.a.Canon := h.2.2.2.1
@[simp] theorem State.Inv.others_canon {s : State} (h : s.Inv) : AllCanon s.others := h.2.2.2.2.1
@[simp] theorem State.Inv.numbered {s : State} (h : s.Inv) : Numbered s.a.n (s.others.map Atoll.n) := h.2.2.2.2.2

@[simp] theorem Dev.canon_mk {mem : Mem} {poison : List Nat} {errs : List (Nat × Bool)} {live : List Nat} {chans : List Chan} {temps : SMap 16} {dirty : List Nat} {acc : SMap 8} {cctab : List Nat} {retire : List Nat} :
    Dev.Canon ⟨mem, poison, errs, live, chans, temps, dirty, acc, cctab, retire⟩ ↔
      SMap.wf mem = true ∧ SMap.wf acc = true ∧ SMap.wf temps = true := Iff.rfl

@[simp] theorem Dev.Canon.mem_wf {d : Dev} (h : d.Canon) : SMap.wf d.mem = true := h.1
@[simp] theorem Dev.Canon.acc_wf {d : Dev} (h : d.Canon) : SMap.wf d.acc = true := h.2.1
@[simp] theorem Dev.Canon.temps_wf {d : Dev} (h : d.Canon) : SMap.wf d.temps = true := h.2.2

@[simp] theorem Atoll.Canon.sp_wf {a : Atoll} (h : a.Canon) : SMap.wf a.sp = true := h.1
@[simp] theorem Atoll.Canon.v_wf {a : Atoll} (h : a.Canon) : SMap.wf a.v = true := h.2.1
@[simp] theorem Atoll.Canon.weights_wf {a : Atoll} (h : a.Canon) : SMap.wf a.weights = true := h.2.2.1
@[simp] theorem Atoll.Canon.exps_wf {a : Atoll} (h : a.Canon) : SMap.wf a.exps = true := h.2.2.2.1
@[simp] theorem Atoll.Canon.cells_wf {a : Atoll} (h : a.Canon) : SMap.wf a.cells = true := h.2.2.2.2.1
@[simp] theorem Atoll.Canon.ctr_wf {a : Atoll} (h : a.Canon) : SMap.wf a.ctr = true := h.2.2.2.2.2

@[simp] theorem Atoll.canon_mk {n : Nat} {slot : Nat} {st : Strand} {div : Divs} {hand : List Nat} {idleAt : Divs} {gvx : GateSt} {gmx : GateSt} {grt : GateSt} {gcp : GateSt} {res : List (Nat × Nat)} {burst : List (Nat × Nat × Nat × Nat)} {ures : List (Nat × Nat)} {sp : Mem} {v : SMap 1024} {masks : Vector (BitVec 128) 16} {vbusy : Nat} {latch : List (Nat × Row)} {weights : SMap 2048} {exps : SMap 128} {shape : Option Word} {rings : Vector Word 16} {freed : List (Ring × Nat)} {fq : List (Option Nat × Word)} {mbusy : Nat} {mjobs : List MJob} {cells : SMap 48} {rtm : Word} {rbusy : Nat} {rjobs : List RJob} {cq : List CCmd} {lq : List LCmd} {ctr : SMap 64} {ins : List Stream} {parts : List (Nat × Nat × Nat × List Row)} {held : List Stream} {refuse : List Nat} {xs : List XEnt} {xr : List XEnt} {arriving : List (Nat × Nat)} :
    Atoll.Canon ⟨n, slot, st, div, hand, idleAt, gvx, gmx, grt, gcp, res, burst, ures, sp, v, masks, vbusy, latch, weights, exps, shape, rings, freed, fq, mbusy, mjobs, cells, rtm, rbusy, rjobs, cq, lq, ctr, ins, parts, held, refuse, xs, xr, arriving⟩ ↔
      SMap.wf sp = true ∧ SMap.wf v = true ∧ SMap.wf weights = true ∧ SMap.wf exps = true ∧ SMap.wf cells = true ∧ SMap.wf ctr = true := Iff.rfl

@[simp] theorem SMap.wf_nil {w : Nat} : SMap.wf ([] : SMap w) = true := rfl

@[simp] theorem allCanon_nil : AllCanon [] := by simp [AllCanon]

theorem AllCanon.map {l : List Atoll} {f : Atoll → Atoll} (h : AllCanon l) (hf : ∀ a, a.Canon → (f a).Canon) : AllCanon (l.map f) := by
  intro b hb
  obtain ⟨a, ha, rfl⟩ := List.mem_map.mp hb
  exact hf a (h a ha)

@[simp] theorem foldl_inv {α : Type} {f : State → α → State} (hf : ∀ s x, s.Inv → (f s x).Inv) :
    ∀ (l : List α) (s : State), s.Inv → (l.foldl f s).Inv
  | [], _, h => h
  | x :: r, s, h => foldl_inv hf r (f s x) (hf s x h)

@[simp] theorem foldl_dev {α : Type} {f : Dev → α → Dev} (hf : ∀ s x, s.Canon → (f s x).Canon) :
    ∀ (l : List α) (s : Dev), s.Canon → (l.foldl f s).Canon
  | [], _, h => h
  | x :: r, s, h => foldl_dev hf r (f s x) (hf s x h)

theorem ite_inv {p : Prop} [Decidable p] {x y : State} (hx : x.Inv) (hy : y.Inv) : (if p then x else y).Inv := by
  split
  · exact hx
  · exact hy

@[simp] theorem State.updA_inv {s : State} {f : Atoll → Atoll} :
    (s.updA f).Inv ↔ SMap.wf s.host = true ∧ s.dev.Canon ∧ SMap.wf s.fe.evlog = true ∧ (f s.a).Canon ∧ AllCanon s.others ∧
      Numbered (f s.a).n (s.others.map Atoll.n) := Iff.rfl

@[simp] theorem State.updSt_inv {s : State} {f : Strand → Strand} (h : s.Inv) : (s.updSt f).Inv := h

@[simp] theorem State.updDev_inv {s : State} {f : Dev → Dev} :
    (s.updDev f).Inv ↔ SMap.wf s.host = true ∧ (f s.dev).Canon ∧ SMap.wf s.fe.evlog = true ∧ s.a.Canon ∧ AllCanon s.others ∧
      Numbered s.a.n (s.others.map Atoll.n) := Iff.rfl

@[simp] theorem State.updFe_inv {s : State} {f : Fe → Fe} :
    (s.updFe f).Inv ↔ SMap.wf s.host = true ∧ s.dev.Canon ∧ SMap.wf (f s.fe).evlog = true ∧ s.a.Canon ∧ AllCanon s.others ∧
      Numbered s.a.n (s.others.map Atoll.n) := Iff.rfl

@[simp] theorem State.schedAt_inv (s : State) (k tick phase : Nat) (dom : Dom) (i : Instr) (arg : Arg) (hI : s.Inv) : (State.schedAt s k tick phase dom i arg).Inv := by
  unfold State.schedAt
  simp (maxDischargeDepth := 60) [hI]

@[simp] theorem State.sched_inv (s : State) (tick phase : Nat) (dom : Dom) (i : Instr) (arg : Arg) (hI : s.Inv) : (State.sched s tick phase dom i arg).Inv := by
  unfold State.sched
  simp (maxDischargeDepth := 60) [hI]

@[simp] theorem State.unsched_inv (s : State) (f : Ev → Bool) (hI : s.Inv) : (State.unsched s f).Inv := by
  unfold State.unsched
  simp (maxDischargeDepth := 60) [hI]

@[simp] theorem State.draw_inv (s : State) (hI : s.Inv) : (State.draw s).2.Inv := by
  unfold State.draw
  simp (maxDischargeDepth := 60) [hI]

@[simp] theorem State.later_inv (s : State) (k : Nat) (i : Instr) (arg : Arg) (hI : s.Inv) : (State.later s k i arg).Inv := by
  unfold State.later
  simp (maxDischargeDepth := 60) [hI]

@[simp] theorem State.laterBy_inv (s : State) (m k : Nat) (i : Instr) (arg : Arg) (hI : s.Inv) : (State.laterBy s m k i arg).Inv := by
  unfold State.laterBy
  try dsimp only
  repeat' (first | (simp (maxDischargeDepth := 60) [hI]; done) | (simp (maxDischargeDepth := 60) (contextual := true) [hI]; done) | split |
    (refine foldl_inv ?_ _ _ ?_; intro _ _ hI))

@[simp] theorem State.noFetchOf_inv (s : State) (k : Nat) (hI : s.Inv) : (State.noFetchOf s k).Inv := by
  unfold State.noFetchOf
  simp (maxDischargeDepth := 60) [hI]

@[simp] theorem State.fetchAt_inv (s : State) (t : Nat) (hI : s.Inv) : (State.fetchAt s t).Inv := by
  unfold State.fetchAt
  simp (maxDischargeDepth := 60) [hI]

theorem mem_insertAtoll {x y : Atoll} : ∀ {l : List Atoll}, y ∈ insertAtoll x l ↔ y = x ∨ y ∈ l
  | [] => by simp [insertAtoll]
  | z :: r => by
    simp only [insertAtoll]
    split
    · simp
    · simp only [List.mem_cons, mem_insertAtoll (l := r)]
      tauto

theorem insertAtoll_perm (x : Atoll) : ∀ l : List Atoll, (insertAtoll x l).Perm (x :: l)
  | [] => List.Perm.refl _
  | z :: r => by
    simp only [insertAtoll]
    split
    · exact List.Perm.refl _
    · exact ((insertAtoll_perm x r).cons z).trans (List.Perm.swap x z r)

/-- The numbers of the atolls, with a listed one taken out and put first. -/
theorem perm_filter_of_nodup {l : List Nat} (hn : l.Nodup) {k : Nat} (hk : k ∈ l) :
    (k :: l.filter (· != k)).Perm l := by
  induction l with
  | nil => simp at hk
  | cons x r ih =>
    obtain ⟨hx, hr⟩ := List.nodup_cons.mp hn
    by_cases e : x = k
    · subst e
      have : r.filter (· != x) = r := List.filter_eq_self.mpr fun y hy => by
        simp only [bne_iff_ne, ne_eq]
        rintro rfl
        exact hx hy
      simp [this]
    · have hk' : k ∈ r := by simpa [Ne.symm e] using hk
      rw [List.filter_cons_of_pos (by simpa using e)]
      exact (List.Perm.swap x k _).trans ((ih hr hk').cons x)

@[simp] theorem State.focus_inv (s : State) (k : Nat) (hI : s.Inv) : (State.focus s k).Inv := by
  unfold State.focus
  split
  · exact hI
  · split
    · next b hb =>
      obtain ⟨h1, h2, h3, h4, h5, h6⟩ := hI
      have hmem := List.mem_of_find?_eq_some hb
      have hbk : b.n = k := by simpa using List.find?_some hb
      refine ⟨h1, h2, h3, h5 b hmem, ?_, ?_⟩
      · intro y hy
        rcases mem_insertAtoll.mp hy with rfl | hy
        · exact h4
        · exact h5 y (List.mem_of_mem_filter hy)
      · show (b.n :: (insertAtoll s.a (s.others.filter (fun b => b.n != k))).map Atoll.n).Perm (List.range 160)
        have hnd : (s.others.map Atoll.n).Nodup := ((h6.nodup_iff.mpr List.nodup_range).of_cons)
        have hkm : k ∈ s.others.map Atoll.n := hbk ▸ List.mem_map_of_mem hmem
        have e : (s.others.filter (fun b => b.n != k)).map Atoll.n = (s.others.map Atoll.n).filter (· != k) := by
          rw [List.filter_map]
          rfl
        refine List.Perm.trans ?_ h6
        refine (((insertAtoll_perm s.a _).map Atoll.n).cons b.n).trans ?_
        rw [List.map_cons, e, hbk]
        exact (List.Perm.swap _ _ _).trans ((perm_filter_of_nodup hnd hkm).cons _)
    · exact hI

@[simp] theorem State.updAtoll_inv (s : State) (k : Nat) (f : Atoll → Atoll) (hI : s.Inv) (hf : ∀ a, a.Canon → (f a).Canon)
    (hn : ∀ a, (f a).n = a.n) : (State.updAtoll s k f).Inv := by
  unfold State.updAtoll
  obtain ⟨h1, h2, h3, h4, h5, h6⟩ := hI
  split
  · exact ⟨h1, h2, h3, hf _ h4, h5, by rw [hn]; exact h6⟩
  · refine ⟨h1, h2, h3, h4, h5.map fun a ha => ?_, ?_⟩
    · split
      · exact hf a ha
      · exact ha
    · rw [List.map_map, show Atoll.n ∘ (fun b => if b.n = k then f b else b) = Atoll.n from funext fun b => by
        simp only [Function.comp]; split <;> simp [hn]]
      exact h6

/-- A change of every other atoll. -/
theorem State.others_map_inv {s : State} {f : Atoll → Atoll} (hI : s.Inv) (hf : ∀ a, a.Canon → (f a).Canon)
    (hn : ∀ a, (f a).n = a.n) : AllCanon (s.others.map f) ∧ (s.others.map f).map Atoll.n = s.others.map Atoll.n :=
  ⟨hI.others_canon.map hf, by rw [List.map_map]; exact congrArg (List.map · s.others) (funext hn)⟩

@[simp] theorem State.setS_inv (s : State) (r : Reg) (v : Word) (hI : s.Inv) : (State.setS s r v).Inv := by
  unfold State.setS
  repeat' (first | (simp (maxDischargeDepth := 60) [hI]; done) | split)

@[simp] theorem State.setP_inv (s : State) (p : Prd) (v : Bool) (hI : s.Inv) : (State.setP s p v).Inv := by
  unfold State.setP
  repeat' (first | (simp (maxDischargeDepth := 60) [hI]; done) | split)

@[simp] theorem State.setH_inv (s : State) (h : HReg) (v : Word) (hI : s.Inv) : (State.setH s h v).Inv := by
  unfold State.setH
  simp (maxDischargeDepth := 60) [hI]

@[simp] theorem Atoll.charge_canon (now amount : Nat) (a : Atoll) (hI : a.Canon) : (Atoll.charge now amount a).Canon := by
  unfold Atoll.charge
  repeat' (first | (simp (maxDischargeDepth := 60) [hI]; done) | split)

@[simp] theorem Atoll.charge_n (now amount : Nat) (a : Atoll) : (Atoll.charge now amount a).n = a.n := by
  unfold Atoll.charge
  try dsimp only
  repeat' (first | rfl | (simp; done) | split)

@[simp] theorem Atoll.chargeNow_canon (now amount : Nat) (a : Atoll) (hI : a.Canon) : (Atoll.chargeNow now amount a).Canon := by
  unfold Atoll.chargeNow
  repeat' (first | (simp (maxDischargeDepth := 60) [hI]; done) | split)

@[simp] theorem Atoll.chargeNow_n (now amount : Nat) (a : Atoll) : (Atoll.chargeNow now amount a).n = a.n := by
  unfold Atoll.chargeNow
  try dsimp only
  repeat' (first | rfl | (simp; done) | split)

@[simp] theorem State.chargeAt_inv (s : State) (edge amount : Nat) (hI : s.Inv) : (State.chargeAt s edge amount).Inv := by
  unfold State.chargeAt
  repeat' (first | (simp (maxDischargeDepth := 60) [hI]; done) | split)

@[simp] theorem State.chargeNow_inv (s : State) (amount : Nat) (hI : s.Inv) : (State.chargeNow s amount).Inv := by
  unfold State.chargeNow
  try dsimp only
  repeat' (first | (simp (maxDischargeDepth := 60) [hI]; done) | (simp (maxDischargeDepth := 60) (contextual := true) [hI]; done) | split |
    (refine foldl_inv ?_ _ _ ?_; intro _ _ hI))

@[simp] theorem State.charge_inv (s : State) (amount : Nat) (hI : s.Inv) : (State.charge s amount).Inv := by
  unfold State.charge
  simp (maxDischargeDepth := 60) [hI]

@[simp] theorem State.chargeOf_inv (s : State) (k amount : Nat) (hI : s.Inv) : (State.chargeOf s k amount).Inv :=
  State.updAtoll_inv s k _ hI (fun a h => Atoll.chargeNow_canon _ _ a h) (fun a => Atoll.chargeNow_n _ _ a)

@[simp] theorem Atoll.settle_canon (now : Nat) (a : Atoll) (hI : a.Canon) : (Atoll.settle now a).Canon := by
  unfold Atoll.settle
  simp (maxDischargeDepth := 60) [hI]

@[simp] theorem Atoll.settle_n (now : Nat) (a : Atoll) : (Atoll.settle now a).n = a.n := by
  unfold Atoll.settle
  try dsimp only
  repeat' (first | rfl | (simp; done) | split)

@[simp] theorem State.sysWrite_inv (s : State) (r : SysReg) (t : Nat) (v : Word) (hI : s.Inv) : (State.sysWrite s r t v).Inv := by
  unfold State.sysWrite
  simp (maxDischargeDepth := 60) [hI]

@[simp] theorem State.setRing_inv (s : State) (x : Ring) (v : Word) (hI : s.Inv) : (State.setRing s x v).Inv := by
  unfold State.setRing
  simp (maxDischargeDepth := 60) [hI]

@[simp] theorem State.land_inv (s : State) (d : Dst) (v : Word) (hI : s.Inv) : (State.land s d v).Inv := by
  unfold State.land
  repeat' (first | (simp (maxDischargeDepth := 60) [hI]; done) | split)

@[simp] theorem State.landIn_inv (s : State) (l : Nat) (d : Dst) (v : Word) (hI : s.Inv) : (State.landIn s l d v).Inv := by
  unfold State.landIn
  simp (maxDischargeDepth := 60) [hI]

@[simp] theorem State.checkGate_inv (s : State) (k t : Nat) (hI : s.Inv) : (State.checkGate s k t).Inv := by
  unfold State.checkGate
  simp (maxDischargeDepth := 60) [hI]

@[simp] theorem State.regate_inv (s : State) (t : Nat) (hI : s.Inv) : (State.regate s t).Inv := by
  unfold State.regate
  simp (maxDischargeDepth := 60) [hI]

@[simp] theorem State.leaveRegion_inv (s : State) (hI : s.Inv) : (State.leaveRegion s).Inv := by
  unfold State.leaveRegion
  repeat' (first | (simp (maxDischargeDepth := 60) [hI]; done) | split)

@[simp] theorem State.stopStrand_inv (s : State) (r : Run) (hI : s.Inv) : (State.stopStrand s r).Inv := by
  unfold State.stopStrand
  simp (maxDischargeDepth := 60) [hI]

@[simp] theorem State.strandFault_inv (s : State) (c : Nat) (hI : s.Inv) : (State.strandFault s c).Inv := by
  unfold State.strandFault
  simp (maxDischargeDepth := 60) [hI]

@[simp] theorem State.quotaStop_inv (s : State) (hI : s.Inv) : (State.quotaStop s).Inv := by
  unfold State.quotaStop
  simp (maxDischargeDepth := 60) [hI]

@[simp] theorem State.takeTrap_inv (s : State) (c info rec : Nat) (ab : Bool) (hI : s.Inv) : (State.takeTrap s c info rec ab).Inv := by
  unfold State.takeTrap
  try dsimp only
  repeat' (first | (simp (maxDischargeDepth := 60) [hI]; done) | (simp (maxDischargeDepth := 60) (contextual := true) [hI]; done) | split |
    (refine foldl_inv ?_ _ _ ?_; intro _ _ hI))

@[simp] theorem State.trapHere_inv (s : State) (c info : Nat) (hI : s.Inv) : (State.trapHere s c info).Inv :=
  State.takeTrap_inv s c info _ _ hI

@[simp] theorem State.unless_inv {s f : State} {t : Option Trap} (h : s.Inv) (hf : f.Inv) : ResInv (s.unless t f) := by
  unfold State.unless
  split <;> simp_all

@[simp] theorem State.returnTrap_inv (s : State) (hI : s.Inv) : (State.returnTrap s).Inv := by
  unfold State.returnTrap
  simp (maxDischargeDepth := 60) [hI]

@[simp] theorem State.flagAt_inv (s : State) (c : Option (Nat × Nat)) (hI : s.Inv) : (State.flagAt s c).Inv := by
  unfold State.flagAt
  try dsimp only
  repeat' (first | (simp (maxDischargeDepth := 60) [hI]; done) | (simp (maxDischargeDepth := 60) (contextual := true) [hI]; done) | split |
    (refine foldl_inv ?_ _ _ ?_; intro _ _ hI))

@[simp] theorem State.flag_inv (s : State) (c : Option Nat) (hI : s.Inv) : (State.flag s c).Inv := by
  unfold State.flag
  simp (maxDischargeDepth := 60) [hI]

@[simp] theorem State.reserve_inv (s : State) (req : List (Nat × Nat)) (d : Nat) (hI : s.Inv) : (State.reserve s req d).Inv := by
  unfold State.reserve
  simp (maxDischargeDepth := 60) [hI]

@[simp] theorem State.ride_inv (s : State) (lane x y t : Nat) (hI : s.Inv) : (State.ride s lane x y t).2.Inv := by
  unfold State.ride
  simp (maxDischargeDepth := 60) [hI]

@[simp] theorem State.agenda_inv (s : State) (g : List Ev) (hI : s.Inv) : State.Inv { s with agenda := g } := hI

@[simp] theorem State.again_inv (s : State) (t : Nat) (hI : s.Inv) : (State.again s t).Inv := by
  unfold State.again
  simp (maxDischargeDepth := 60) [hI]

@[simp] theorem State.freeze_inv (s : State) (spare : Dom) (hI : s.Inv) : (State.freeze s spare).Inv := by
  unfold State.freeze
  simp (maxDischargeDepth := 60) [hI]

@[simp] theorem State.lateOf_inv (s : State) (spare : Dom) (c : Nat) (hI : s.Inv) : (State.lateOf s spare c).Inv := by
  unfold State.lateOf
  repeat' (first | (simp (maxDischargeDepth := 60) [hI]; done) | split)

@[simp] theorem State.askAt_inv (s : State) (t : Nat) (req : Nat → List (Nat × Nat)) (hI : s.Inv) : (State.askAt s t req).Inv := by
  unfold State.askAt
  try dsimp only
  repeat' (first | (simp (maxDischargeDepth := 60) [hI]; done) | (simp (maxDischargeDepth := 60) (contextual := true) [hI]; done) | split |
    (refine foldl_inv ?_ _ _ ?_; intro _ _ hI))

@[simp] theorem State.portWait_inv (s : State) (req : Nat → List (Nat × Nat)) (hI : s.Inv) : (State.portWait s req).Inv := by
  unfold State.portWait
  repeat' (first | (simp (maxDischargeDepth := 60) [hI]; done) | split)

end Sys2Proof.Machine
end

