-- ==== Sys2Proof/Laws/InvMemory.lean ====
section
/-! SUPPORT. The invariant of the machine is kept by straits, control, special registers, memory and operands (R5, R12; log 4). -/

namespace Sys2Proof.Machine

set_option linter.unusedSimpArgs false
set_option linter.unusedVariables false
set_option linter.unreachableTactic false
set_option linter.unusedTactic false

@[simp] theorem State.emit_inv (s : State) (kind : Nat) (data : List Nat) (hI : s.Inv) : (State.emit s kind data).Inv := by
  unfold State.emit
  simp (maxDischargeDepth := 60) [hI]

@[simp] theorem State.updPort_inv (s : State) (n : Nat) (f : Port → Port) (hI : s.Inv) : (State.updPort s n f).Inv := by
  unfold State.updPort
  simp (maxDischargeDepth := 60) [hI]

@[simp] theorem State.sendOn_inv (s : State) (p : Port) (vc : Nat) (f : Frame) (hI : s.Inv) : (State.sendOn s p vc f).Inv := by
  unfold State.sendOn
  try dsimp only
  repeat' (first | (simp (maxDischargeDepth := 60) [hI]; done) | (simp (maxDischargeDepth := 60) (contextual := true) [hI]; done) | split |
    (refine foldl_inv ?_ _ _ ?_; intro _ _ hI))

@[simp] theorem State.frameAcked_inv (s : State) (n vc seq : Nat) (hI : s.Inv) : (State.frameAcked s n vc seq).Inv := by
  unfold State.frameAcked
  try dsimp only
  repeat' (first | (simp (maxDischargeDepth := 60) [hI]; done) | (simp (maxDischargeDepth := 60) (contextual := true) [hI]; done) | split |
    (refine foldl_inv ?_ _ _ ?_; intro _ _ hI))

@[simp] theorem State.frameOut_inv (s : State) (f : Frame) (hI : s.Inv) : (State.frameOut s f).Inv := by
  unfold State.frameOut
  try dsimp only
  repeat' (first | (simp (maxDischargeDepth := 60) [hI]; done) | (simp (maxDischargeDepth := 60) (contextual := true) [hI]; done) | split |
    (refine foldl_inv ?_ _ _ ?_; intro _ _ hI))

@[simp] theorem State.sendFrame_inv (s : State) (m : Msg) (hI : s.Inv) : (State.sendFrame s m).Inv := by
  unfold State.sendFrame
  try dsimp only
  repeat' (first | (simp (maxDischargeDepth := 60) [hI]; done) | (simp (maxDischargeDepth := 60) (contextual := true) [hI]; done) | split |
    (refine foldl_inv ?_ _ _ ?_; intro _ _ hI))

@[simp] theorem State.acrossFrom_inv (s : State) (t dst : Nat) (i : Instr) (arg : Arg) (hI : s.Inv) : (State.acrossFrom s t dst i arg).Inv := by
  unfold State.acrossFrom
  try dsimp only
  repeat' (first | (simp (maxDischargeDepth := 60) [hI]; done) | (simp (maxDischargeDepth := 60) (contextual := true) [hI]; done) | split |
    (refine foldl_inv ?_ _ _ ?_; intro _ _ hI))

@[simp] theorem State.toAtoll_inv (s : State) (dst : Nat) (i : Instr) (arg : Arg) (m : Msg) (hI : s.Inv) : (State.toAtoll s dst i arg m).Inv := by
  unfold State.toAtoll
  repeat' (first | (simp (maxDischargeDepth := 60) [hI]; done) | split)

@[simp] theorem execPfx_inv (u1 : PfxOp) (s : State) (hI : s.Inv) : ResInv (execPfx u1 s) := hI

@[simp] theorem State.jumpTo_inv (s : State) (t k : Nat) (hI : s.Inv) : (State.jumpTo s t k).Inv := by
  unfold State.jumpTo
  simp (maxDischargeDepth := 60) [hI]

@[simp] theorem execBr_inv (o : BrOp) (s : State) (hI : s.Inv) : ResInv (execBr o s) := by
  unfold execBr
  repeat' (first | (simp (maxDischargeDepth := 60) [hI]; done) | split)

@[simp] theorem execJmp_inv (o : JOp) (s : State) (hI : s.Inv) : ResInv (execJmp o s) := by
  unfold execJmp
  simp (maxDischargeDepth := 60) [hI]

@[simp] theorem execCall_inv (o : CallOp) (s : State) (hI : s.Inv) : ResInv (execCall o s) := by
  unfold execCall
  simp (maxDischargeDepth := 60) [hI]

@[simp] theorem execRet_inv (o : RetOp) (s : State) (hI : s.Inv) : ResInv (execRet o s) := by
  unfold execRet
  simp (maxDischargeDepth := 60) [hI]

@[simp] theorem execLoop_inv (o : JOp) (s : State) (hI : s.Inv) : ResInv (execLoop o s) := by
  unfold execLoop
  repeat' (first | (simp (maxDischargeDepth := 60) [hI]; done) | split)

@[simp] theorem State.waitFor_inv (s : State) (w : Wait) (hI : s.Inv) : (State.waitFor s w).Inv := by
  unfold State.waitFor
  simp (maxDischargeDepth := 60) [hI]

@[simp] theorem State.resumeAt_inv (s : State) (w : Wait) (t : Nat) (hI : s.Inv) : (State.resumeAt s w t).Inv := by
  unfold State.resumeAt
  try dsimp only
  repeat' (first | (simp (maxDischargeDepth := 60) [hI]; done) | (simp (maxDischargeDepth := 60) (contextual := true) [hI]; done) | split |
    (refine foldl_inv ?_ _ _ ?_; intro _ _ hI))

@[simp] theorem State.resume_inv (s : State) (w : Wait) (k : Nat) (hI : s.Inv) : (State.resume s w k).Inv := by
  unfold State.resume
  try dsimp only
  repeat' (first | (simp (maxDischargeDepth := 60) [hI]; done) | (simp (maxDischargeDepth := 60) (contextual := true) [hI]; done) | split |
    (refine foldl_inv ?_ _ _ ?_; intro _ _ hI))

@[simp] theorem State.newToken_inv (s : State) (hI : s.Inv) : (State.newToken s).Inv := by
  unfold State.newToken
  simp (maxDischargeDepth := 60) [hI]

@[simp] theorem execIdle_inv (s : State) (hI : s.Inv) : ResInv (execIdle s) := by
  unfold execIdle
  repeat' (first | (simp (maxDischargeDepth := 60) [hI]; done) | split)

@[simp] theorem execIdleTimeout_inv (s : State) (hI : s.Inv) : ResInv (execIdleTimeout s) := by
  unfold execIdleTimeout
  try dsimp only
  repeat' (first | (simp (maxDischargeDepth := 60) [hI]; done) | (simp (maxDischargeDepth := 60) (contextual := true) [hI]; done) | split |
    (refine foldl_inv ?_ _ _ ?_; intro _ _ hI))

@[simp] theorem State.setWake_inv (s : State) (hI : s.Inv) : (State.setWake s).Inv := by
  unfold State.setWake
  try dsimp only
  repeat' (first | (simp (maxDischargeDepth := 60) [hI]; done) | (simp (maxDischargeDepth := 60) (contextual := true) [hI]; done) | split |
    (refine foldl_inv ?_ _ _ ?_; intro _ _ hI))

@[simp] theorem State.interrupt_inv (s : State) (hI : s.Inv) : (State.interrupt s).Inv := by
  unfold State.interrupt
  repeat' (first | (simp (maxDischargeDepth := 60) [hI]; done) | split)

@[simp] theorem State.requestEvent_inv (s : State) (hI : s.Inv) : (State.requestEvent s).Inv := by
  unfold State.requestEvent
  simp (maxDischargeDepth := 60) [hI]

@[simp] theorem State.lookAt_inv (s : State) (t : Nat) (hI : s.Inv) : (State.lookAt s t).Inv := by
  unfold State.lookAt
  try dsimp only
  repeat' (first | (simp (maxDischargeDepth := 60) [hI]; done) | (simp (maxDischargeDepth := 60) (contextual := true) [hI]; done) | split |
    (refine foldl_inv ?_ _ _ ?_; intro _ _ hI))

@[simp] theorem execRgn_inv (o : SyImm) (s : State) (hI : s.Inv) : ResInv (execRgn o s) := by
  unfold execRgn
  simp (maxDischargeDepth := 60) [hI]

@[simp] theorem execRgnend_inv (s : State) (hI : s.Inv) : ResInv (execRgnend s) := by
  unfold execRgnend
  simp (maxDischargeDepth := 60) [hI]

@[simp] theorem execRegionOverrun_inv (s : State) (hI : s.Inv) : ResInv (execRegionOverrun s) := by
  unfold execRegionOverrun
  repeat' (first | (simp (maxDischargeDepth := 60) [hI]; done) | split)

@[simp] theorem execRti_inv (s : State) (hI : s.Inv) : ResInv (execRti s) := by
  unfold execRti
  simp (maxDischargeDepth := 60) [hI]

@[simp] theorem execTrap_inv (o : SyImm) (s : State) (hI : s.Inv) : ResInv (execTrap o s) := by
  unfold execTrap
  simp (maxDischargeDepth := 60) [hI]

@[simp] theorem execStrandEvent_inv (s : State) (hI : s.Inv) : ResInv (execStrandEvent s) := by
  unfold execStrandEvent
  simp (maxDischargeDepth := 60) [hI]

@[simp] theorem execPendingDataTrap_inv (s : State) (hI : s.Inv) : ResInv (execPendingDataTrap s) := by
  unfold execPendingDataTrap
  repeat' (first | (simp (maxDischargeDepth := 60) [hI]; done) | split)

@[simp] theorem execExchangeFaultTaken_inv (s : State) (hI : s.Inv) : ResInv (execExchangeFaultTaken s) := by
  unfold execExchangeFaultTaken
  repeat' (first | (simp (maxDischargeDepth := 60) [hI]; done) | split)

@[simp] theorem State.record_inv (s : State) (c detail : Nat) (hI : s.Inv) : (State.record s c detail).Inv := by
  unfold State.record
  try dsimp only
  repeat' (first | (simp (maxDischargeDepth := 60) [hI]; done) | (simp (maxDischargeDepth := 60) (contextual := true) [hI]; done) | split |
    (refine foldl_inv ?_ _ _ ?_; intro _ _ hI))

@[simp] theorem Dev.updChan_inv (d : Dev) (c : Nat) (f : Chan → Chan) (hI : d.Canon) : (Dev.updChan d c f).Canon := by
  unfold Dev.updChan
  simp (maxDischargeDepth := 60) [hI]

@[simp] theorem State.updChan_inv (s : State) (c : Nat) (f : Chan → Chan) (hI : s.Inv) : (State.updChan s c f).Inv := by
  unfold State.updChan
  simp (maxDischargeDepth := 60) [hI]

@[simp] theorem State.touch_inv (s : State) (row : Nat) (wr dirty : Bool) (hI : s.Inv) : (State.touch s row wr dirty).Inv := by
  unfold State.touch
  try dsimp only
  repeat' (first | (simp (maxDischargeDepth := 60) [hI]; done) | (simp (maxDischargeDepth := 60) (contextual := true) [hI]; done) | split |
    (refine foldl_inv ?_ _ _ ?_; intro _ _ hI))

@[simp] theorem State.findError_inv (s : State) (row : Nat) (hI : s.Inv) : (State.findError s row).Inv := by
  unfold State.findError
  try dsimp only
  repeat' (first | (simp (maxDischargeDepth := 60) [hI]; done) | (simp (maxDischargeDepth := 60) (contextual := true) [hI]; done) | split |
    (refine foldl_inv ?_ _ _ ?_; intro _ _ hI))

@[simp] theorem State.gmRead_inv (s : State) (row : Nat) (hI : s.Inv) : (State.gmRead s row).2.Inv := by
  unfold State.gmRead
  simp (maxDischargeDepth := 60) [hI]

@[simp] theorem State.gmReadWord_inv (s : State) (byte : Nat) (hI : s.Inv) : (State.gmReadWord s byte).2.Inv := by
  unfold State.gmReadWord
  simp (maxDischargeDepth := 60) [hI]

@[simp] theorem State.gmWrite_inv (s : State) (row : Nat) (v : Row) (hI : s.Inv) : (State.gmWrite s row v).Inv := by
  unfold State.gmWrite
  repeat' (first | (simp (maxDischargeDepth := 60) [hI]; done) | split)

@[simp] theorem State.gmPoison_inv (s : State) (row : Nat) (hI : s.Inv) : (State.gmPoison s row).Inv := by
  unfold State.gmPoison
  repeat' (first | (simp (maxDischargeDepth := 60) [hI]; done) | split)

@[simp] theorem State.gmWriteWord_inv (s : State) (byte : Nat) (v : Word) (hI : s.Inv) : (State.gmWriteWord s byte v).2.Inv := by
  unfold State.gmWriteWord
  repeat' (first | (simp (maxDischargeDepth := 60) [hI]; done) | split)

@[simp] theorem execMfsr_inv (o : MfsrOp) (s : State) (hI : s.Inv) : ResInv (execMfsr o s) := by
  unfold execMfsr
  simp (maxDischargeDepth := 60) [hI]

@[simp] theorem execMtsr_inv (o : MtsrOp) (s : State) (hI : s.Inv) : ResInv (execMtsr o s) := by
  unfold execMtsr
  repeat' (first | (simp (maxDischargeDepth := 60) [hI]; done) | split)

@[simp] theorem execHalt_inv (s : State) (hI : s.Inv) : ResInv (execHalt s) := by
  unfold execHalt
  simp (maxDischargeDepth := 60) [hI]

@[simp] theorem execStrandStop_inv (s : State) (hI : s.Inv) : ResInv (execStrandStop s) := by
  unfold execStrandStop
  repeat' (first | (simp (maxDischargeDepth := 60) [hI]; done) | split)

@[simp] theorem execIinvAll_inv (s : State) (hI : s.Inv) : ResInv (execIinvAll s) := by
  unfold execIinvAll
  simp (maxDischargeDepth := 60) [hI]

@[simp] theorem execIinvLine_inv (o : SyA) (s : State) (hI : s.Inv) : ResInv (execIinvLine o s) := by
  unfold execIinvLine
  simp (maxDischargeDepth := 60) [hI]

@[simp] theorem execIinvPage_inv (o : SyA) (s : State) (hI : s.Inv) : ResInv (execIinvPage o s) := by
  unfold execIinvPage
  simp (maxDischargeDepth := 60) [hI]

@[simp] theorem execRdgtc_inv (o : SyD) (s : State) (hI : s.Inv) : ResInv (execRdgtc o s) := by
  unfold execRdgtc
  simp (maxDischargeDepth := 60) [hI]

@[simp] theorem execBrk_inv (o : SyImm) (s : State) (hI : s.Inv) : ResInv (execBrk o s) := by
  unfold execBrk
  repeat' (first | (simp (maxDischargeDepth := 60) [hI]; done) | split)

@[simp] theorem State.useSlot_inv (s : State) (row : Nat) (hI : s.Inv) : (State.useSlot s row).Inv := by
  unfold State.useSlot
  simp (maxDischargeDepth := 60) [hI]

@[simp] theorem execIstoreFill_inv (s : State) (hI : s.Inv) : ResInv (execIstoreFill s) := by
  unfold execIstoreFill
  try dsimp only
  repeat' (first | (simp (maxDischargeDepth := 60) [hI]; done) | (simp (maxDischargeDepth := 60) (contextual := true) [hI]; done) | split |
    (refine foldl_inv ?_ _ _ ?_; intro _ _ hI))

@[simp] theorem State.fire_inv (s : State) (byte : Nat) (hI : s.Inv) : (State.fire s byte).Inv := by
  unfold State.fire
  try dsimp only
  repeat' (first | (simp (maxDischargeDepth := 60) [hI]; done) | (simp (maxDischargeDepth := 60) (contextual := true) [hI]; done) | split |
    (refine foldl_inv ?_ _ _ ?_; intro _ _ hI))

@[simp] theorem State.spSetRow_inv (s : State) (row : Nat) (v : Row) (hI : s.Inv) : (State.spSetRow s row v).Inv := by
  unfold State.spSetRow
  try dsimp only
  repeat' (first | (simp (maxDischargeDepth := 60) [hI]; done) | (simp (maxDischargeDepth := 60) (contextual := true) [hI]; done) | split |
    (refine foldl_inv ?_ _ _ ?_; intro _ _ hI))

@[simp] theorem State.spSetWord_inv (s : State) (byte : Nat) (v : Word) (hI : s.Inv) : (State.spSetWord s byte v).Inv := by
  unfold State.spSetWord
  try dsimp only
  repeat' (first | (simp (maxDischargeDepth := 60) [hI]; done) | (simp (maxDischargeDepth := 60) (contextual := true) [hI]; done) | split |
    (refine foldl_inv ?_ _ _ ?_; intro _ _ hI))

@[simp] theorem State.bank_inv (s : State) (x : Acc) (hI : s.Inv) : (State.bank s x).2.Inv := by
  unfold State.bank
  try dsimp only
  repeat' (first | (simp (maxDischargeDepth := 60) [hI]; done) | (simp (maxDischargeDepth := 60) (contextual := true) [hI]; done) | split |
    (refine foldl_inv ?_ _ _ ?_; intro _ _ hI))

@[simp] theorem State.bwaitRecheck_inv (s : State) (byte : Nat) (hI : s.Inv) : (State.bwaitRecheck s byte).Inv := by
  unfold State.bwaitRecheck
  repeat' (first | (simp (maxDischargeDepth := 60) [hI]; done) | split)

@[simp] theorem State.toOwner_inv (s : State) (data : Bool) (k : Nat) (i : Instr) (x : Acc) (hI : s.Inv) : (State.toOwner s data k i x).Inv := by
  unfold State.toOwner
  try dsimp only
  repeat' (first | (simp (maxDischargeDepth := 60) [hI]; done) | (simp (maxDischargeDepth := 60) (contextual := true) [hI]; done) | split |
    (refine foldl_inv ?_ _ _ ?_; intro _ _ hI))

@[simp] theorem State.toMemory_inv (s : State) (data : Bool) (i : Instr) (x : GAcc) (hI : s.Inv) : (State.toMemory s data i x).Inv := by
  unfold State.toMemory
  try dsimp only
  repeat' (first | (simp (maxDischargeDepth := 60) [hI]; done) | (simp (maxDischargeDepth := 60) (contextual := true) [hI]; done) | split |
    (refine foldl_inv ?_ _ _ ?_; intro _ _ hI))

@[simp] theorem State.access_inv (s : State) (ea : Word) (f : Shape) (op : AccOp) (dst : Dst) (chg chgFar : Nat) (hI : s.Inv) : (State.access s ea f op dst chg chgFar).Inv := by
  unfold State.access
  try dsimp only
  repeat' (first | (simp (maxDischargeDepth := 60) [hI]; done) | (simp (maxDischargeDepth := 60) (contextual := true) [hI]; done) | split |
    (refine foldl_inv ?_ _ _ ?_; intro _ _ hI))

@[simp] theorem execLds_inv (o : MLd) (s : State) (hI : s.Inv) : ResInv (execLds o s) := by
  unfold execLds
  simp (maxDischargeDepth := 60) [hI]

@[simp] theorem execSts_inv (o : MSt) (s : State) (hI : s.Inv) : ResInv (execSts o s) := by
  unfold execSts
  simp (maxDischargeDepth := 60) [hI]

@[simp] theorem execBinit_inv (o : MSt) (s : State) (hI : s.Inv) : ResInv (execBinit o s) := by
  unfold execBinit
  simp (maxDischargeDepth := 60) [hI]

@[simp] theorem amo_inv (k : AmoOp) (o : Amo) (s : State) (hI : s.Inv) : ResInv (amo k o s) := by
  unfold amo
  repeat' (first | (simp (maxDischargeDepth := 60) [hI]; done) | split)

@[simp] theorem execAmoadd_inv (o : Amo) (s : State) (hI : s.Inv) : ResInv (execAmoadd o s) := by
  unfold execAmoadd
  simp (maxDischargeDepth := 60) [hI]

@[simp] theorem execAmoxor_inv (o : Amo) (s : State) (hI : s.Inv) : ResInv (execAmoxor o s) := by
  unfold execAmoxor
  simp (maxDischargeDepth := 60) [hI]

@[simp] theorem execAmomin_inv (o : Amo) (s : State) (hI : s.Inv) : ResInv (execAmomin o s) := by
  unfold execAmomin
  simp (maxDischargeDepth := 60) [hI]

@[simp] theorem execAmomax_inv (o : Amo) (s : State) (hI : s.Inv) : ResInv (execAmomax o s) := by
  unfold execAmomax
  simp (maxDischargeDepth := 60) [hI]

@[simp] theorem execAmoswp_inv (o : Amo) (s : State) (hI : s.Inv) : ResInv (execAmoswp o s) := by
  unfold execAmoswp
  simp (maxDischargeDepth := 60) [hI]

@[simp] theorem execAmocas_inv (o : Amo) (s : State) (hI : s.Inv) : ResInv (execAmocas o s) := by
  unfold execAmocas
  simp (maxDischargeDepth := 60) [hI]

@[simp] theorem execGld_inv (o : GLdOp) (s : State) (hI : s.Inv) : ResInv (execGld o s) := by
  unfold execGld
  simp (maxDischargeDepth := 60) [hI]

@[simp] theorem execGst_inv (o : GStOp) (s : State) (hI : s.Inv) : ResInv (execGst o s) := by
  unfold execGst
  simp (maxDischargeDepth := 60) [hI]

@[simp] theorem execXlat_inv (o : XlatOp) (s : State) (hI : s.Inv) : ResInv (execXlat o s) := by
  unfold execXlat
  repeat' (first | (simp (maxDischargeDepth := 60) [hI]; done) | split)

@[simp] theorem execXlatWalkDone_inv (s : State) (hI : s.Inv) : ResInv (execXlatWalkDone s) := by
  unfold execXlatWalkDone
  repeat' (first | (simp (maxDischargeDepth := 60) [hI]; done) | split)

@[simp] theorem execHinv_inv (o : HinvOp) (s : State) (hI : s.Inv) : ResInv (execHinv o s) := by
  unfold execHinv
  simp (maxDischargeDepth := 60) [hI]

@[simp] theorem execFence_inv (o : FenceOp) (s : State) (hI : s.Inv) : ResInv (execFence o s) := by
  unfold execFence
  repeat' (first | (simp (maxDischargeDepth := 60) [hI]; done) | split)

@[simp] theorem execFenceComplete_inv (s : State) (hI : s.Inv) : ResInv (execFenceComplete s) := by
  unfold execFenceComplete
  repeat' (first | (simp (maxDischargeDepth := 60) [hI]; done) | split)

@[simp] theorem execArrive_inv (o : MAd) (s : State) (hI : s.Inv) : ResInv (execArrive o s) := by
  unfold execArrive
  try dsimp only
  repeat' (first | (simp (maxDischargeDepth := 60) [hI]; done) | (simp (maxDischargeDepth := 60) (contextual := true) [hI]; done) | split |
    (refine foldl_inv ?_ _ _ ?_; intro _ _ hI))

@[simp] theorem execBwait_inv (o : MAd) (s : State) (hI : s.Inv) : ResInv (execBwait o s) := by
  unfold execBwait
  simp (maxDischargeDepth := 60) [hI]

@[simp] theorem execBtest_inv (o : MTest) (s : State) (hI : s.Inv) : ResInv (execBtest o s) := by
  unfold execBtest
  simp (maxDischargeDepth := 60) [hI]

@[simp] theorem execAwait_inv (o : MAwait) (s : State) (hI : s.Inv) : ResInv (execAwait o s) := by
  unfold execAwait
  try dsimp only
  repeat' (first | (simp (maxDischargeDepth := 60) [hI]; done) | (simp (maxDischargeDepth := 60) (contextual := true) [hI]; done) | split |
    (refine foldl_inv ?_ _ _ ?_; intro _ _ hI))

@[simp] theorem execAwaitTimeout_inv (s : State) (hI : s.Inv) : ResInv (execAwaitTimeout s) := by
  unfold execAwaitTimeout
  repeat' (first | (simp (maxDischargeDepth := 60) [hI]; done) | split)

@[simp] theorem State.xsendRead_inv (s : State) (k : XKey) (hI : s.Inv) : (State.xsendRead s k).Inv := by
  unfold State.xsendRead
  repeat' (first | (simp (maxDischargeDepth := 60) [hI]; done) | split)

@[simp] theorem execScalarStationAccess_inv (s : State) (hI : s.Inv) : ResInv (execScalarStationAccess s) := by
  unfold execScalarStationAccess
  try dsimp only
  repeat' (first | (simp (maxDischargeDepth := 60) [hI]; done) | (simp (maxDischargeDepth := 60) (contextual := true) [hI]; done) | split |
    (refine foldl_inv ?_ _ _ ?_; intro _ _ hI))

@[simp] theorem execScalarRowReturn_inv (s : State) (hI : s.Inv) : ResInv (execScalarRowReturn s) := by
  unfold execScalarRowReturn
  repeat' (first | (simp (maxDischargeDepth := 60) [hI]; done) | split)

@[simp] theorem State.granted_inv (s : State) (x : Acc) (hI : s.Inv) : (State.granted s x).Inv := by
  unfold State.granted
  try dsimp only
  repeat' (first | (simp (maxDischargeDepth := 60) [hI]; done) | (simp (maxDischargeDepth := 60) (contextual := true) [hI]; done) | split |
    (refine foldl_inv ?_ _ _ ?_; intro _ _ hI))

@[simp] theorem State.replyTo_inv (s : State) (x : Acc) (v : Word) (chg : Nat) (hI : s.Inv) : (State.replyTo s x v chg).Inv := by
  unfold State.replyTo
  try dsimp only
  repeat' (first | (simp (maxDischargeDepth := 60) [hI]; done) | (simp (maxDischargeDepth := 60) (contextual := true) [hI]; done) | split |
    (refine foldl_inv ?_ _ _ ?_; intro _ _ hI))

@[simp] theorem State.fromXb_inv (s : State) (x : Acc) (hI : s.Inv) : (State.fromXb s x).Inv := by
  unfold State.fromXb
  try dsimp only
  repeat' (first | (simp (maxDischargeDepth := 60) [hI]; done) | (simp (maxDischargeDepth := 60) (contextual := true) [hI]; done) | split |
    (refine foldl_inv ?_ _ _ ?_; intro _ _ hI))

@[simp] theorem State.sendAbroad_inv (s : State) (k : Nat) (x : Acc) (hI : s.Inv) : (State.sendAbroad s k x).Inv := by
  unfold State.sendAbroad
  try dsimp only
  repeat' (first | (simp (maxDischargeDepth := 60) [hI]; done) | (simp (maxDischargeDepth := 60) (contextual := true) [hI]; done) | split |
    (refine foldl_inv ?_ _ _ ?_; intro _ _ hI))

@[simp] theorem execRemoteAccessArrival_inv (s : State) (hI : s.Inv) : ResInv (execRemoteAccessArrival s) := by
  unfold execRemoteAccessArrival
  try dsimp only
  repeat' (first | (simp (maxDischargeDepth := 60) [hI]; done) | (simp (maxDischargeDepth := 60) (contextual := true) [hI]; done) | split |
    (refine foldl_inv ?_ _ _ ?_; intro _ _ hI))

@[simp] theorem execRemoteReply_inv (s : State) (hI : s.Inv) : ResInv (execRemoteReply s) := by
  unfold execRemoteReply
  repeat' (first | (simp (maxDischargeDepth := 60) [hI]; done) | split)

@[simp] theorem State.arrived_inv (s : State) (src byte : Nat) (hI : s.Inv) : (State.arrived s src byte).Inv := by
  unfold State.arrived
  try dsimp only
  repeat' (first | (simp (maxDischargeDepth := 60) [hI]; done) | (simp (maxDischargeDepth := 60) (contextual := true) [hI]; done) | split |
    (refine foldl_inv ?_ _ _ ?_; intro _ _ hI))

@[simp] theorem execBarrierArrival_inv (s : State) (hI : s.Inv) : ResInv (execBarrierArrival s) := by
  unfold execBarrierArrival
  try dsimp only
  repeat' (first | (simp (maxDischargeDepth := 60) [hI]; done) | (simp (maxDischargeDepth := 60) (contextual := true) [hI]; done) | split |
    (refine foldl_inv ?_ _ _ ?_; intro _ _ hI))

@[simp] theorem execArriveOutcome_inv (s : State) (hI : s.Inv) : ResInv (execArriveOutcome s) := by
  unfold execArriveOutcome
  repeat' (first | (simp (maxDischargeDepth := 60) [hI]; done) | split)

@[simp] theorem State.engineArrive_inv (s : State) (k byte : Nat) (ph : Bool) (code : Nat) (hI : s.Inv) : (State.engineArrive s k byte ph code).Inv := by
  unfold State.engineArrive
  simp (maxDischargeDepth := 60) [hI]

@[simp] theorem execScalarResultLand_inv (s : State) (hI : s.Inv) : ResInv (execScalarResultLand s) := by
  unfold execScalarResultLand
  repeat' (first | (simp (maxDischargeDepth := 60) [hI]; done) | split)

@[simp] theorem VPut.apply_canon (p : VPut) (a : Atoll) (hI : a.Canon) : (VPut.apply p a).2.Canon := by
  unfold VPut.apply
  split <;> simp (maxDischargeDepth := 60) [hI]

@[simp] theorem VPut.apply_n (p : VPut) (a : Atoll) : (VPut.apply p a).2.n = a.n := by
  unfold VPut.apply
  split <;> rfl

theorem foldl_puts (l : List VPut) : ∀ r : Nat × Atoll, r.2.Canon →
    (l.foldl (fun (r : Nat × Atoll) (p : VPut) => (r.1 + (p.apply r.2).1, (p.apply r.2).2)) r).2.Canon ∧
    (l.foldl (fun (r : Nat × Atoll) (p : VPut) => (r.1 + (p.apply r.2).1, (p.apply r.2).2)) r).2.n = r.2.n := by
  induction l with
  | nil => exact fun r h => ⟨h, rfl⟩
  | cons p l ih =>
    intro r h
    obtain ⟨h1, h2⟩ := ih (r.1 + (p.apply r.2).1, (p.apply r.2).2) (VPut.apply_canon p r.2 h)
    exact ⟨h1, h2.trans (VPut.apply_n p r.2)⟩

@[simp] theorem applyPuts_canon (l : List VPut) (a : Atoll) (hI : a.Canon) : (applyPuts l a).2.Canon := (foldl_puts l (0, a) hI).1

@[simp] theorem applyPuts_n (l : List VPut) (a : Atoll) (hI : a.Canon) : (applyPuts l a).2.n = a.n := (foldl_puts l (0, a) hI).2

@[simp] theorem State.vxStartAt_inv (s : State) (i : Instr) (occ : Nat) (sc : Word) (at' : Nat) (eff : Word → Nat → State → State) (hI : s.Inv) (he : ∀ c t s, s.Inv → (eff c t s).Inv) : (State.vxStartAt s i occ sc at' eff).Inv := by
  unfold State.vxStartAt
  split
  · exact he _ _ _ hI
  · dsimp only
    split
    · exact he _ _ _ (by simp (maxDischargeDepth := 60) [hI])
    · simp (maxDischargeDepth := 60) [hI]

@[simp] theorem State.vxStart_inv (s : State) (i : Instr) (occ : Nat) (sc : Word) (eff : Word → Nat → State → State) (hI : s.Inv)
    (he : ∀ c t s, s.Inv → (eff c t s).Inv) : (State.vxStart s i occ sc eff).Inv := State.vxStartAt_inv s i occ sc s.now eff hI he

@[simp] theorem State.vxLand_inv (s : State) (ramp : BitVec 2) (lat steps : Nat) (l : List VPut) (f : Option Nat) (hI : s.Inv) : (State.vxLand s ramp lat steps l f).Inv := by
  unfold State.vxLand
  simp (maxDischargeDepth := 60) [hI]

@[simp] theorem State.vxOp_inv (s : State) (i : Instr) (ramp : BitVec 2) (lat occ steps : Nat) (f : State → List VPut × Option Nat) (hI : s.Inv) : (State.vxOp s i ramp lat occ steps f).Inv := by
  unfold State.vxOp
  try dsimp only
  repeat' (first | (simp (maxDischargeDepth := 60) [hI]; done) | (simp (maxDischargeDepth := 60) (contextual := true) [hI]; done) | split |
    (refine foldl_inv ?_ _ _ ?_; intro _ _ hI))

@[simp] theorem execVectorResultLand_inv (s : State) (hI : s.Inv) : ResInv (execVectorResultLand s) := by
  unfold execVectorResultLand
  repeat' (first | (simp (maxDischargeDepth := 60) [hI]; done) | split)

end Sys2Proof.Machine
end

