-- ==== Sys2Proof/Laws/InvVector.lean ====
section
/-! SUPPORT. The invariant of the machine is kept by the vector instructions (R5, R12; log 4). -/

namespace Sys2Proof.Machine

set_option linter.unusedSimpArgs false
set_option linter.unusedVariables false
set_option linter.unreachableTactic false
set_option linter.unusedTactic false

@[simp] theorem compare_inv (c : Word → Word → Bool) (o : RCmp) (s : State) (hI : s.Inv) : (compare c o s).Inv := by
  unfold compare
  simp (maxDischargeDepth := 60) [hI]

@[simp] theorem predicate_inv (d : Prd) (v : Bool) (s : State) (hI : s.Inv) : (predicate d v s).Inv := by
  unfold predicate
  simp (maxDischargeDepth := 60) [hI]

@[simp] theorem v3_inv (i : Instr) (w : Bool) (lat steps : Nat) (f : BitVec 4 → Nat → Nat → Nat) (o : V3) (s : State) (hI : s.Inv) : (v3 i w lat steps f o s).Inv := by
  unfold v3
  simp (maxDischargeDepth := 60) [hI]

@[simp] theorem v2_inv (i : Instr) (w : Bool) (lat occ steps : Nat) (f : BitVec 4 → Nat → Nat) (o : V2) (s : State) (hI : s.Inv) : (v2 i w lat occ steps f o s).Inv := by
  unfold v2
  simp (maxDischargeDepth := 60) [hI]

@[simp] theorem execVadd_inv (o : V3) (s : State) (hI : s.Inv) : ResInv (execVadd o s) := by
  unfold execVadd
  simp (maxDischargeDepth := 60) [hI]

@[simp] theorem execEvadd_inv (o : V3) (s : State) (hI : s.Inv) : ResInv (execEvadd o s) := by
  unfold execEvadd
  simp (maxDischargeDepth := 60) [hI]

@[simp] theorem execVsub_inv (o : V3) (s : State) (hI : s.Inv) : ResInv (execVsub o s) := by
  unfold execVsub
  simp (maxDischargeDepth := 60) [hI]

@[simp] theorem execEvsub_inv (o : V3) (s : State) (hI : s.Inv) : ResInv (execEvsub o s) := by
  unfold execEvsub
  simp (maxDischargeDepth := 60) [hI]

@[simp] theorem execVxor_inv (o : V3) (s : State) (hI : s.Inv) : ResInv (execVxor o s) := by
  unfold execVxor
  simp (maxDischargeDepth := 60) [hI]

@[simp] theorem execEvxor_inv (o : V3) (s : State) (hI : s.Inv) : ResInv (execEvxor o s) := by
  unfold execEvxor
  simp (maxDischargeDepth := 60) [hI]

@[simp] theorem execVxand_inv (o : V3) (s : State) (hI : s.Inv) : ResInv (execVxand o s) := by
  unfold execVxand
  simp (maxDischargeDepth := 60) [hI]

@[simp] theorem execEvxand_inv (o : V3) (s : State) (hI : s.Inv) : ResInv (execEvxand o s) := by
  unfold execEvxand
  simp (maxDischargeDepth := 60) [hI]

@[simp] theorem execVshl_inv (o : V3) (s : State) (hI : s.Inv) : ResInv (execVshl o s) := by
  unfold execVshl
  simp (maxDischargeDepth := 60) [hI]

@[simp] theorem execEvshl_inv (o : V3) (s : State) (hI : s.Inv) : ResInv (execEvshl o s) := by
  unfold execEvshl
  simp (maxDischargeDepth := 60) [hI]

@[simp] theorem execVshr_inv (o : V3) (s : State) (hI : s.Inv) : ResInv (execVshr o s) := by
  unfold execVshr
  simp (maxDischargeDepth := 60) [hI]

@[simp] theorem execEvshr_inv (o : V3) (s : State) (hI : s.Inv) : ResInv (execEvshr o s) := by
  unfold execEvshr
  simp (maxDischargeDepth := 60) [hI]

@[simp] theorem execVsra_inv (o : V3) (s : State) (hI : s.Inv) : ResInv (execVsra o s) := by
  unfold execVsra
  simp (maxDischargeDepth := 60) [hI]

@[simp] theorem execEvsra_inv (o : V3) (s : State) (hI : s.Inv) : ResInv (execEvsra o s) := by
  unfold execEvsra
  simp (maxDischargeDepth := 60) [hI]

@[simp] theorem execVrotl_inv (o : V3) (s : State) (hI : s.Inv) : ResInv (execVrotl o s) := by
  unfold execVrotl
  simp (maxDischargeDepth := 60) [hI]

@[simp] theorem execEvrotl_inv (o : V3) (s : State) (hI : s.Inv) : ResInv (execEvrotl o s) := by
  unfold execEvrotl
  simp (maxDischargeDepth := 60) [hI]

@[simp] theorem execVand_inv (o : V3) (s : State) (hI : s.Inv) : ResInv (execVand o s) := by
  unfold execVand
  simp (maxDischargeDepth := 60) [hI]

@[simp] theorem execEvand_inv (o : V3) (s : State) (hI : s.Inv) : ResInv (execEvand o s) := by
  unfold execEvand
  simp (maxDischargeDepth := 60) [hI]

@[simp] theorem execVor_inv (o : V3) (s : State) (hI : s.Inv) : ResInv (execVor o s) := by
  unfold execVor
  simp (maxDischargeDepth := 60) [hI]

@[simp] theorem execEvor_inv (o : V3) (s : State) (hI : s.Inv) : ResInv (execEvor o s) := by
  unfold execEvor
  simp (maxDischargeDepth := 60) [hI]

@[simp] theorem execVmin_inv (o : V3) (s : State) (hI : s.Inv) : ResInv (execVmin o s) := by
  unfold execVmin
  simp (maxDischargeDepth := 60) [hI]

@[simp] theorem execEvmin_inv (o : V3) (s : State) (hI : s.Inv) : ResInv (execEvmin o s) := by
  unfold execEvmin
  simp (maxDischargeDepth := 60) [hI]

@[simp] theorem execVmax_inv (o : V3) (s : State) (hI : s.Inv) : ResInv (execVmax o s) := by
  unfold execVmax
  simp (maxDischargeDepth := 60) [hI]

@[simp] theorem execEvmax_inv (o : V3) (s : State) (hI : s.Inv) : ResInv (execEvmax o s) := by
  unfold execEvmax
  simp (maxDischargeDepth := 60) [hI]

@[simp] theorem execVmul_inv (o : V3) (s : State) (hI : s.Inv) : ResInv (execVmul o s) := by
  unfold execVmul
  simp (maxDischargeDepth := 60) [hI]

@[simp] theorem execEvmul_inv (o : V3) (s : State) (hI : s.Inv) : ResInv (execEvmul o s) := by
  unfold execEvmul
  simp (maxDischargeDepth := 60) [hI]

@[simp] theorem execVneg_inv (o : V2) (s : State) (hI : s.Inv) : ResInv (execVneg o s) := by
  unfold execVneg
  simp (maxDischargeDepth := 60) [hI]

@[simp] theorem execEvneg_inv (o : V2) (s : State) (hI : s.Inv) : ResInv (execEvneg o s) := by
  unfold execEvneg
  simp (maxDischargeDepth := 60) [hI]

@[simp] theorem execVnot_inv (o : V2) (s : State) (hI : s.Inv) : ResInv (execVnot o s) := by
  unfold execVnot
  simp (maxDischargeDepth := 60) [hI]

@[simp] theorem execEvnot_inv (o : V2) (s : State) (hI : s.Inv) : ResInv (execEvnot o s) := by
  unfold execEvnot
  simp (maxDischargeDepth := 60) [hI]

@[simp] theorem execVabs_inv (o : V2) (s : State) (hI : s.Inv) : ResInv (execVabs o s) := by
  unfold execVabs
  simp (maxDischargeDepth := 60) [hI]

@[simp] theorem execEvabs_inv (o : V2) (s : State) (hI : s.Inv) : ResInv (execEvabs o s) := by
  unfold execEvabs
  simp (maxDischargeDepth := 60) [hI]

@[simp] theorem execVpopc_inv (o : V2) (s : State) (hI : s.Inv) : ResInv (execVpopc o s) := by
  unfold execVpopc
  simp (maxDischargeDepth := 60) [hI]

@[simp] theorem execEvpopc_inv (o : V2) (s : State) (hI : s.Inv) : ResInv (execEvpopc o s) := by
  unfold execEvpopc
  simp (maxDischargeDepth := 60) [hI]

@[simp] theorem execVclz_inv (o : V2) (s : State) (hI : s.Inv) : ResInv (execVclz o s) := by
  unfold execVclz
  simp (maxDischargeDepth := 60) [hI]

@[simp] theorem execEvclz_inv (o : V2) (s : State) (hI : s.Inv) : ResInv (execEvclz o s) := by
  unfold execEvclz
  simp (maxDischargeDepth := 60) [hI]

@[simp] theorem vMac_inv (i : Instr) (w sub : Bool) (o : V3) (s : State) (hI : s.Inv) : (vMac i w sub o s).Inv := by
  unfold vMac
  simp (maxDischargeDepth := 60) [hI]

@[simp] theorem execVmac_inv (o : V3) (s : State) (hI : s.Inv) : ResInv (execVmac o s) := by
  unfold execVmac
  simp (maxDischargeDepth := 60) [hI]

@[simp] theorem execEvmac_inv (o : V3) (s : State) (hI : s.Inv) : ResInv (execEvmac o s) := by
  unfold execEvmac
  simp (maxDischargeDepth := 60) [hI]

@[simp] theorem execVmas_inv (o : V3) (s : State) (hI : s.Inv) : ResInv (execVmas o s) := by
  unfold execVmas
  simp (maxDischargeDepth := 60) [hI]

@[simp] theorem execEvmas_inv (o : V3) (s : State) (hI : s.Inv) : ResInv (execEvmas o s) := by
  unfold execEvmas
  simp (maxDischargeDepth := 60) [hI]

@[simp] theorem vCmp_inv (i : Instr) (w : Bool) (c : Int → Int → Bool) (o : V3M) (s : State) (hI : s.Inv) : (vCmp i w c o s).Inv := by
  unfold vCmp
  simp (maxDischargeDepth := 60) [hI]

@[simp] theorem execVcmpeq_inv (o : V3M) (s : State) (hI : s.Inv) : ResInv (execVcmpeq o s) := by
  unfold execVcmpeq
  simp (maxDischargeDepth := 60) [hI]

@[simp] theorem execEvcmpeq_inv (o : V3M) (s : State) (hI : s.Inv) : ResInv (execEvcmpeq o s) := by
  unfold execEvcmpeq
  simp (maxDischargeDepth := 60) [hI]

@[simp] theorem execVcmplt_inv (o : V3M) (s : State) (hI : s.Inv) : ResInv (execVcmplt o s) := by
  unfold execVcmplt
  simp (maxDischargeDepth := 60) [hI]

@[simp] theorem execEvcmplt_inv (o : V3M) (s : State) (hI : s.Inv) : ResInv (execEvcmplt o s) := by
  unfold execEvcmplt
  simp (maxDischargeDepth := 60) [hI]

@[simp] theorem execVcmple_inv (o : V3M) (s : State) (hI : s.Inv) : ResInv (execVcmple o s) := by
  unfold execVcmple
  simp (maxDischargeDepth := 60) [hI]

@[simp] theorem execEvcmple_inv (o : V3M) (s : State) (hI : s.Inv) : ResInv (execEvcmple o s) := by
  unfold execEvcmple
  simp (maxDischargeDepth := 60) [hI]

@[simp] theorem vSelect_inv (i : Instr) (w : Bool) (o : VMOp) (s : State) (hI : s.Inv) : (vSelect i w o s).Inv := by
  unfold vSelect
  simp (maxDischargeDepth := 60) [hI]

@[simp] theorem execVsel_inv (o : VMOp) (s : State) (hI : s.Inv) : ResInv (execVsel o s) := by
  unfold execVsel
  simp (maxDischargeDepth := 60) [hI]

@[simp] theorem execEvsel_inv (o : VMOp) (s : State) (hI : s.Inv) : ResInv (execEvsel o s) := by
  unfold execEvsel
  simp (maxDischargeDepth := 60) [hI]

@[simp] theorem execVswap_inv (o : VSw) (s : State) (hI : s.Inv) : ResInv (execVswap o s) := by
  unfold execVswap
  simp (maxDischargeDepth := 60) [hI]

@[simp] theorem execVcswap_inv (o : VCSw) (s : State) (hI : s.Inv) : ResInv (execVcswap o s) := by
  unfold execVcswap
  simp (maxDischargeDepth := 60) [hI]

@[simp] theorem execVassz_inv (o : VA) (s : State) (hI : s.Inv) : ResInv (execVassz o s) := by
  unfold execVassz
  simp (maxDischargeDepth := 60) [hI]

@[simp] theorem vZeroMask_inv (i : Instr) (w : Bool) (o : VZm) (s : State) (hI : s.Inv) : (vZeroMask i w o s).Inv := by
  unfold vZeroMask
  simp (maxDischargeDepth := 60) [hI]

@[simp] theorem execVzmask_inv (o : VZm) (s : State) (hI : s.Inv) : ResInv (execVzmask o s) := by
  unfold execVzmask
  simp (maxDischargeDepth := 60) [hI]

@[simp] theorem execEvzmask_inv (o : VZm) (s : State) (hI : s.Inv) : ResInv (execEvzmask o s) := by
  unfold execEvzmask
  simp (maxDischargeDepth := 60) [hI]

@[simp] theorem execVfadd_inv (o : V3) (s : State) (hI : s.Inv) : ResInv (execVfadd o s) := by
  unfold execVfadd
  simp (maxDischargeDepth := 60) [hI]

@[simp] theorem execEvfadd_inv (o : V3) (s : State) (hI : s.Inv) : ResInv (execEvfadd o s) := by
  unfold execEvfadd
  simp (maxDischargeDepth := 60) [hI]

@[simp] theorem execVfsub_inv (o : V3) (s : State) (hI : s.Inv) : ResInv (execVfsub o s) := by
  unfold execVfsub
  simp (maxDischargeDepth := 60) [hI]

@[simp] theorem execEvfsub_inv (o : V3) (s : State) (hI : s.Inv) : ResInv (execEvfsub o s) := by
  unfold execEvfsub
  simp (maxDischargeDepth := 60) [hI]

@[simp] theorem execVfmul_inv (o : V3) (s : State) (hI : s.Inv) : ResInv (execVfmul o s) := by
  unfold execVfmul
  simp (maxDischargeDepth := 60) [hI]

@[simp] theorem execEvfmul_inv (o : V3) (s : State) (hI : s.Inv) : ResInv (execEvfmul o s) := by
  unfold execEvfmul
  simp (maxDischargeDepth := 60) [hI]

@[simp] theorem execVfmin_inv (o : V3) (s : State) (hI : s.Inv) : ResInv (execVfmin o s) := by
  unfold execVfmin
  simp (maxDischargeDepth := 60) [hI]

@[simp] theorem execEvfmin_inv (o : V3) (s : State) (hI : s.Inv) : ResInv (execEvfmin o s) := by
  unfold execEvfmin
  simp (maxDischargeDepth := 60) [hI]

@[simp] theorem execVfmax_inv (o : V3) (s : State) (hI : s.Inv) : ResInv (execVfmax o s) := by
  unfold execVfmax
  simp (maxDischargeDepth := 60) [hI]

@[simp] theorem execEvfmax_inv (o : V3) (s : State) (hI : s.Inv) : ResInv (execEvfmax o s) := by
  unfold execEvfmax
  simp (maxDischargeDepth := 60) [hI]

@[simp] theorem execVfneg_inv (o : V2) (s : State) (hI : s.Inv) : ResInv (execVfneg o s) := by
  unfold execVfneg
  simp (maxDischargeDepth := 60) [hI]

@[simp] theorem execEvfneg_inv (o : V2) (s : State) (hI : s.Inv) : ResInv (execEvfneg o s) := by
  unfold execEvfneg
  simp (maxDischargeDepth := 60) [hI]

@[simp] theorem execVfabs_inv (o : V2) (s : State) (hI : s.Inv) : ResInv (execVfabs o s) := by
  unfold execVfabs
  simp (maxDischargeDepth := 60) [hI]

@[simp] theorem execEvfabs_inv (o : V2) (s : State) (hI : s.Inv) : ResInv (execEvfabs o s) := by
  unfold execEvfabs
  simp (maxDischargeDepth := 60) [hI]

@[simp] theorem execVfrcp_inv (o : V2) (s : State) (hI : s.Inv) : ResInv (execVfrcp o s) := by
  unfold execVfrcp
  simp (maxDischargeDepth := 60) [hI]

@[simp] theorem execEvfrcp_inv (o : V2) (s : State) (hI : s.Inv) : ResInv (execEvfrcp o s) := by
  unfold execEvfrcp
  simp (maxDischargeDepth := 60) [hI]

@[simp] theorem execVfrsq_inv (o : V2) (s : State) (hI : s.Inv) : ResInv (execVfrsq o s) := by
  unfold execVfrsq
  simp (maxDischargeDepth := 60) [hI]

@[simp] theorem execEvfrsq_inv (o : V2) (s : State) (hI : s.Inv) : ResInv (execEvfrsq o s) := by
  unfold execEvfrsq
  simp (maxDischargeDepth := 60) [hI]

@[simp] theorem execVfexp2_inv (o : V2) (s : State) (hI : s.Inv) : ResInv (execVfexp2 o s) := by
  unfold execVfexp2
  simp (maxDischargeDepth := 60) [hI]

@[simp] theorem execEvfexp2_inv (o : V2) (s : State) (hI : s.Inv) : ResInv (execEvfexp2 o s) := by
  unfold execEvfexp2
  simp (maxDischargeDepth := 60) [hI]

@[simp] theorem execVflog2_inv (o : V2) (s : State) (hI : s.Inv) : ResInv (execVflog2 o s) := by
  unfold execVflog2
  simp (maxDischargeDepth := 60) [hI]

@[simp] theorem execEvflog2_inv (o : V2) (s : State) (hI : s.Inv) : ResInv (execEvflog2 o s) := by
  unfold execEvflog2
  simp (maxDischargeDepth := 60) [hI]

@[simp] theorem execVftanh_inv (o : V2) (s : State) (hI : s.Inv) : ResInv (execVftanh o s) := by
  unfold execVftanh
  simp (maxDischargeDepth := 60) [hI]

@[simp] theorem execEvftanh_inv (o : V2) (s : State) (hI : s.Inv) : ResInv (execEvftanh o s) := by
  unfold execEvftanh
  simp (maxDischargeDepth := 60) [hI]

@[simp] theorem vFma_inv (i : Instr) (w : Bool) (o : V4) (s : State) (hI : s.Inv) : (vFma i w o s).Inv := by
  unfold vFma
  simp (maxDischargeDepth := 60) [hI]

@[simp] theorem execVfma_inv (o : V4) (s : State) (hI : s.Inv) : ResInv (execVfma o s) := by
  unfold execVfma
  simp (maxDischargeDepth := 60) [hI]

@[simp] theorem execEvfma_inv (o : V4) (s : State) (hI : s.Inv) : ResInv (execEvfma o s) := by
  unfold execEvfma
  simp (maxDischargeDepth := 60) [hI]

@[simp] theorem vFcmp_inv (i : Instr) (w : Bool) (o : VFc) (s : State) (hI : s.Inv) : (vFcmp i w o s).Inv := by
  unfold vFcmp
  simp (maxDischargeDepth := 60) [hI]

@[simp] theorem execVfcmp_inv (o : VFc) (s : State) (hI : s.Inv) : ResInv (execVfcmp o s) := by
  unfold execVfcmp
  simp (maxDischargeDepth := 60) [hI]

@[simp] theorem execEvfcmp_inv (o : VFc) (s : State) (hI : s.Inv) : ResInv (execEvfcmp o s) := by
  unfold execEvfcmp
  simp (maxDischargeDepth := 60) [hI]

@[simp] theorem vConvert_inv (i : Instr) (w : Bool) (o : VC) (s : State) (hI : s.Inv) : (vConvert i w o s).Inv := by
  unfold vConvert
  simp (maxDischargeDepth := 60) [hI]

@[simp] theorem vResidue_inv (i : Instr) (w : Bool) (o : VC) (s : State) (hI : s.Inv) : (vResidue i w o s).Inv := by
  unfold vResidue
  simp (maxDischargeDepth := 60) [hI]

@[simp] theorem vJoin_inv (i : Instr) (w : Bool) (o : VC) (s : State) (hI : s.Inv) : (vJoin i w o s).Inv := by
  unfold vJoin
  simp (maxDischargeDepth := 60) [hI]

@[simp] theorem vShoalOp_inv (i : Instr) (w : Bool) (o : VC) (s : State) (hI : s.Inv) : (vShoalOp i w o s).Inv := by
  unfold vShoalOp
  simp (maxDischargeDepth := 60) [hI]

@[simp] theorem vScaleOp_inv (i : Instr) (w : Bool) (o : VC) (s : State) (hI : s.Inv) : (vScaleOp i w o s).Inv := by
  unfold vScaleOp
  simp (maxDischargeDepth := 60) [hI]

@[simp] theorem vEncode_inv (i : Instr) (w : Bool) (o : VC) (s : State) (hI : s.Inv) : (vEncode i w o s).Inv := by
  unfold vEncode
  simp (maxDischargeDepth := 60) [hI]

@[simp] theorem vDecode_inv (i : Instr) (w : Bool) (o : VC) (s : State) (hI : s.Inv) : (vDecode i w o s).Inv := by
  unfold vDecode
  exact State.vxOp_inv _ _ _ _ _ _ _ hI

@[simp] theorem vReduce_inv (i : Instr) (w : Bool) (f : VC → Row → Nat) (o : VC) (s : State) (hI : s.Inv) : (vReduce i w f o s).Inv := by
  unfold vReduce
  simp (maxDischargeDepth := 60) [hI]

@[simp] theorem vScanOp_inv (i : Instr) (w : Bool) (o : VC) (s : State) (hI : s.Inv) : (vScanOp i w o s).Inv := by
  unfold vScanOp
  simp (maxDischargeDepth := 60) [hI]

@[simp] theorem execVcvt_inv (o : VC) (s : State) (hI : s.Inv) : ResInv (execVcvt o s) := by
  unfold execVcvt
  simp (maxDischargeDepth := 60) [hI]

@[simp] theorem execEvcvt_inv (o : VC) (s : State) (hI : s.Inv) : ResInv (execEvcvt o s) := by
  unfold execEvcvt
  simp (maxDischargeDepth := 60) [hI]

@[simp] theorem execVcvr_inv (o : VC) (s : State) (hI : s.Inv) : ResInv (execVcvr o s) := by
  unfold execVcvr
  simp (maxDischargeDepth := 60) [hI]

@[simp] theorem execEvcvr_inv (o : VC) (s : State) (hI : s.Inv) : ResInv (execEvcvr o s) := by
  unfold execEvcvr
  simp (maxDischargeDepth := 60) [hI]

@[simp] theorem execVmerge_inv (o : VC) (s : State) (hI : s.Inv) : ResInv (execVmerge o s) := by
  unfold execVmerge
  simp (maxDischargeDepth := 60) [hI]

@[simp] theorem execEvmerge_inv (o : VC) (s : State) (hI : s.Inv) : ResInv (execEvmerge o s) := by
  unfold execEvmerge
  simp (maxDischargeDepth := 60) [hI]

@[simp] theorem execVshoal_inv (o : VC) (s : State) (hI : s.Inv) : ResInv (execVshoal o s) := by
  unfold execVshoal
  simp (maxDischargeDepth := 60) [hI]

@[simp] theorem execEvshoal_inv (o : VC) (s : State) (hI : s.Inv) : ResInv (execEvshoal o s) := by
  unfold execEvshoal
  simp (maxDischargeDepth := 60) [hI]

@[simp] theorem execVscale_inv (o : VC) (s : State) (hI : s.Inv) : ResInv (execVscale o s) := by
  unfold execVscale
  simp (maxDischargeDepth := 60) [hI]

@[simp] theorem execEvscale_inv (o : VC) (s : State) (hI : s.Inv) : ResInv (execEvscale o s) := by
  unfold execEvscale
  simp (maxDischargeDepth := 60) [hI]

@[simp] theorem execVbpenc_inv (o : VC) (s : State) (hI : s.Inv) : ResInv (execVbpenc o s) := by
  unfold execVbpenc
  simp (maxDischargeDepth := 60) [hI]

@[simp] theorem execEvbpenc_inv (o : VC) (s : State) (hI : s.Inv) : ResInv (execEvbpenc o s) := by
  unfold execEvbpenc
  simp (maxDischargeDepth := 60) [hI]

@[simp] theorem execVbpdec_inv (o : VC) (s : State) (hI : s.Inv) : ResInv (execVbpdec o s) := by
  unfold execVbpdec
  simp (maxDischargeDepth := 60) [hI]

@[simp] theorem execEvbpdec_inv (o : VC) (s : State) (hI : s.Inv) : ResInv (execEvbpdec o s) := by
  unfold execEvbpdec
  simp (maxDischargeDepth := 60) [hI]

@[simp] theorem execVredadd_inv (o : VC) (s : State) (hI : s.Inv) : ResInv (execVredadd o s) := by
  unfold execVredadd
  simp (maxDischargeDepth := 60) [hI]

@[simp] theorem execEvredadd_inv (o : VC) (s : State) (hI : s.Inv) : ResInv (execEvredadd o s) := by
  unfold execEvredadd
  simp (maxDischargeDepth := 60) [hI]

@[simp] theorem execVredmax_inv (o : VC) (s : State) (hI : s.Inv) : ResInv (execVredmax o s) := by
  unfold execVredmax
  simp (maxDischargeDepth := 60) [hI]

@[simp] theorem execEvredmax_inv (o : VC) (s : State) (hI : s.Inv) : ResInv (execEvredmax o s) := by
  unfold execEvredmax
  simp (maxDischargeDepth := 60) [hI]

@[simp] theorem execVredmin_inv (o : VC) (s : State) (hI : s.Inv) : ResInv (execVredmin o s) := by
  unfold execVredmin
  simp (maxDischargeDepth := 60) [hI]

@[simp] theorem execEvredmin_inv (o : VC) (s : State) (hI : s.Inv) : ResInv (execEvredmin o s) := by
  unfold execEvredmin
  simp (maxDischargeDepth := 60) [hI]

@[simp] theorem execVscan_inv (o : VC) (s : State) (hI : s.Inv) : ResInv (execVscan o s) := by
  unfold execVscan
  simp (maxDischargeDepth := 60) [hI]

@[simp] theorem execEvscan_inv (o : VC) (s : State) (hI : s.Inv) : ResInv (execEvscan o s) := by
  unfold execEvscan
  simp (maxDischargeDepth := 60) [hI]

@[simp] theorem vPermute_inv (i : Instr) (w : Bool) (o : V3) (s : State) (hI : s.Inv) : (vPermute i w o s).Inv := by
  unfold vPermute
  simp (maxDischargeDepth := 60) [hI]

@[simp] theorem execVperm_inv (o : V3) (s : State) (hI : s.Inv) : ResInv (execVperm o s) := by
  unfold execVperm
  simp (maxDischargeDepth := 60) [hI]

@[simp] theorem execEvperm_inv (o : V3) (s : State) (hI : s.Inv) : ResInv (execEvperm o s) := by
  unfold execEvperm
  simp (maxDischargeDepth := 60) [hI]

@[simp] theorem vMergeRows_inv (i : Instr) (w : Bool) (o : VR) (s : State) (hI : s.Inv) : (vMergeRows i w o s).Inv := by
  unfold vMergeRows
  try dsimp only
  repeat' (first | (simp (maxDischargeDepth := 60) [hI]; done) | (simp (maxDischargeDepth := 60) (contextual := true) [hI]; done) | split |
    (refine foldl_inv ?_ _ _ ?_; intro _ _ hI))

@[simp] theorem execVrmg_inv (o : VR) (s : State) (hI : s.Inv) : ResInv (execVrmg o s) := by
  unfold execVrmg
  simp (maxDischargeDepth := 60) [hI]

@[simp] theorem execEvrmg_inv (o : VR) (s : State) (hI : s.Inv) : ResInv (execEvrmg o s) := by
  unfold execEvrmg
  simp (maxDischargeDepth := 60) [hI]

@[simp] theorem vBroadcast_inv (i : Instr) (w : Bool) (o : VBc) (s : State) (hI : s.Inv) : (vBroadcast i w o s).Inv := by
  unfold vBroadcast
  try dsimp only
  repeat' (first | (simp (maxDischargeDepth := 60) [hI]; done) | (simp (maxDischargeDepth := 60) (contextual := true) [hI]; done) | split |
    (refine foldl_inv ?_ _ _ ?_; intro _ _ hI))

@[simp] theorem execVbcast_inv (o : VBc) (s : State) (hI : s.Inv) : ResInv (execVbcast o s) := by
  unfold execVbcast
  simp (maxDischargeDepth := 60) [hI]

@[simp] theorem execEvbcast_inv (o : VBc) (s : State) (hI : s.Inv) : ResInv (execEvbcast o s) := by
  unfold execEvbcast
  simp (maxDischargeDepth := 60) [hI]

@[simp] theorem vInsert_inv (i : Instr) (w : Bool) (o : VIns) (s : State) (hI : s.Inv) : (vInsert i w o s).Inv := by
  unfold vInsert
  try dsimp only
  repeat' (first | (simp (maxDischargeDepth := 60) [hI]; done) | (simp (maxDischargeDepth := 60) (contextual := true) [hI]; done) | split |
    (refine foldl_inv ?_ _ _ ?_; intro _ _ hI))

@[simp] theorem execVins_inv (o : VIns) (s : State) (hI : s.Inv) : ResInv (execVins o s) := by
  unfold execVins
  simp (maxDischargeDepth := 60) [hI]

@[simp] theorem execEvins_inv (o : VIns) (s : State) (hI : s.Inv) : ResInv (execEvins o s) := by
  unfold execEvins
  simp (maxDischargeDepth := 60) [hI]

@[simp] theorem execVext_inv (o : VExt) (s : State) (hI : s.Inv) : ResInv (execVext o s) := by
  unfold execVext
  try dsimp only
  repeat' (first | (simp (maxDischargeDepth := 60) [hI]; done) | (simp (maxDischargeDepth := 60) (contextual := true) [hI]; done) | split |
    (refine foldl_inv ?_ _ _ ?_; intro _ _ hI))

@[simp] theorem vMask_inv (i : Instr) (w : Bool) (md : MReg) (ramp : BitVec 2) (f : State → BitVec 128) (s : State) (hI : s.Inv) : (vMask i w md ramp f s).Inv := by
  unfold vMask
  simp (maxDischargeDepth := 60) [hI]

@[simp] theorem execMand_inv (o : VK) (s : State) (hI : s.Inv) : ResInv (execMand o s) := by
  unfold execMand
  simp (maxDischargeDepth := 60) [hI]

@[simp] theorem execEmand_inv (o : VK) (s : State) (hI : s.Inv) : ResInv (execEmand o s) := by
  unfold execEmand
  simp (maxDischargeDepth := 60) [hI]

@[simp] theorem execMor_inv (o : VK) (s : State) (hI : s.Inv) : ResInv (execMor o s) := by
  unfold execMor
  simp (maxDischargeDepth := 60) [hI]

@[simp] theorem execEmor_inv (o : VK) (s : State) (hI : s.Inv) : ResInv (execEmor o s) := by
  unfold execEmor
  simp (maxDischargeDepth := 60) [hI]

@[simp] theorem execMnot_inv (o : VK2) (s : State) (hI : s.Inv) : ResInv (execMnot o s) := by
  unfold execMnot
  simp (maxDischargeDepth := 60) [hI]

@[simp] theorem execEmnot_inv (o : VK2) (s : State) (hI : s.Inv) : ResInv (execEmnot o s) := by
  unfold execEmnot
  simp (maxDischargeDepth := 60) [hI]

@[simp] theorem vLoad_inv (w : Bool) (o : VLd) (s : State) (hI : s.Inv) : (vLoad w o s).Inv := by
  unfold vLoad
  simp (maxDischargeDepth := 60) [hI]

@[simp] theorem execVld_inv (o : VLd) (s : State) (hI : s.Inv) : ResInv (execVld o s) := by
  unfold execVld
  simp (maxDischargeDepth := 60) [hI]

@[simp] theorem execEvld_inv (o : VLd) (s : State) (hI : s.Inv) : ResInv (execEvld o s) := by
  unfold execEvld
  simp (maxDischargeDepth := 60) [hI]

@[simp] theorem vStore_inv (i : Instr) (w : Bool) (o : VSt) (s : State) (hI : s.Inv) : (vStore i w o s).Inv := by
  unfold vStore
  try dsimp only
  repeat' (first | (simp (maxDischargeDepth := 60) [hI]; done) | (simp (maxDischargeDepth := 60) (contextual := true) [hI]; done) | split |
    (refine foldl_inv ?_ _ _ ?_; intro _ _ hI))

@[simp] theorem execVst_inv (o : VSt) (s : State) (hI : s.Inv) : ResInv (execVst o s) := by
  unfold execVst
  simp (maxDischargeDepth := 60) [hI]

@[simp] theorem execEvst_inv (o : VSt) (s : State) (hI : s.Inv) : ResInv (execEvst o s) := by
  unfold execEvst
  simp (maxDischargeDepth := 60) [hI]

@[simp] theorem vGather_inv (w : Bool) (o : V2) (s : State) (hI : s.Inv) : (vGather w o s).Inv := by
  unfold vGather
  try dsimp only
  repeat' (first | (simp (maxDischargeDepth := 60) [hI]; done) | (simp (maxDischargeDepth := 60) (contextual := true) [hI]; done) | split |
    (refine foldl_inv ?_ _ _ ?_; intro _ _ hI))

@[simp] theorem execVldx_inv (o : V2) (s : State) (hI : s.Inv) : ResInv (execVldx o s) := by
  unfold execVldx
  simp (maxDischargeDepth := 60) [hI]

@[simp] theorem execEvldx_inv (o : V2) (s : State) (hI : s.Inv) : ResInv (execEvldx o s) := by
  unfold execEvldx
  simp (maxDischargeDepth := 60) [hI]

@[simp] theorem State.gatherNotBefore_inv (s : State) (id t : Nat) (hI : s.Inv) : (State.gatherNotBefore s id t).Inv := by
  unfold State.gatherNotBefore
  try dsimp only
  repeat' (first | (simp (maxDischargeDepth := 60) [hI]; done) | (simp (maxDischargeDepth := 60) (contextual := true) [hI]; done) | split |
    (refine foldl_inv ?_ _ _ ?_; intro _ _ hI))

@[simp] theorem execVldRowRead_inv (s : State) (hI : s.Inv) : ResInv (execVldRowRead s) := by
  unfold execVldRowRead
  try dsimp only
  repeat' (first | (simp (maxDischargeDepth := 60) [hI]; done) | (simp (maxDischargeDepth := 60) (contextual := true) [hI]; done) | split |
    (refine foldl_inv ?_ _ _ ?_; intro _ _ hI))

@[simp] theorem execVldDeposit_inv (s : State) (hI : s.Inv) : ResInv (execVldDeposit s) := by
  unfold execVldDeposit
  try dsimp only
  repeat' (first | (simp (maxDischargeDepth := 60) [hI]; done) | (simp (maxDischargeDepth := 60) (contextual := true) [hI]; done) | split |
    (refine foldl_inv ?_ _ _ ?_; intro _ _ hI))

@[simp] theorem State.historyWait_inv (s : State) (hI : s.Inv) : (State.historyWait s).Inv := by
  unfold State.historyWait
  try dsimp only
  repeat' (first | (simp (maxDischargeDepth := 60) [hI]; done) | (simp (maxDischargeDepth := 60) (contextual := true) [hI]; done) | split |
    (refine foldl_inv ?_ _ _ ?_; intro _ _ hI))

@[simp] theorem State.endHistory_inv (s : State) (hI : s.Inv) : (State.endHistory s).Inv := by
  unfold State.endHistory
  repeat' (first | (simp (maxDischargeDepth := 60) [hI]; done) | split)

@[simp] theorem State.takePort_inv (s : State) (row : Nat) (wr : Bool) (f : State → State) (hI : s.Inv) (hf : ∀ s, s.Inv → (f s).Inv) :
    (State.takePort s row wr f).Inv := by
  unfold State.takePort
  try dsimp only
  repeat' (first | (simp (maxDischargeDepth := 60) [hI]; done) | split)
  exact hf _ (by simp [hI])

@[simp] theorem State.chargeLast_inv (s : State) (c : Nat) (hI : s.Inv) : (State.chargeLast s c).Inv := by
  unfold State.chargeLast
  try dsimp only
  repeat' (first | (simp (maxDischargeDepth := 60) [hI]; done) | (simp (maxDischargeDepth := 60) (contextual := true) [hI]; done) | split |
    (refine foldl_inv ?_ _ _ ?_; intro _ _ hI))

@[simp] theorem State.spillRead_inv (s : State) (row byte frame : Nat) (hI : s.Inv) : (State.spillRead s row byte frame).Inv := by
  unfold State.spillRead
  try dsimp only
  repeat' (first | (simp (maxDischargeDepth := 60) [hI]; done) | (simp (maxDischargeDepth := 60) (contextual := true) [hI]; done) | split |
    (refine foldl_inv ?_ _ _ ?_; intro _ _ hI))

@[simp] theorem State.refillRow_inv (s : State) (row : Nat) (v : Row) (hI : s.Inv) : (State.refillRow s row v).Inv := by
  unfold State.refillRow
  try dsimp only
  repeat' (first | (simp (maxDischargeDepth := 60) [hI]; done) | (simp (maxDischargeDepth := 60) (contextual := true) [hI]; done) | split |
    (refine foldl_inv ?_ _ _ ?_; intro _ _ hI))

@[simp] theorem execVstRowWrite_inv (s : State) (hI : s.Inv) : ResInv (execVstRowWrite s) := by
  unfold execVstRowWrite
  try dsimp only
  repeat' (first | (simp (maxDischargeDepth := 60) [hI]; done) | (simp (maxDischargeDepth := 60) (contextual := true) [hI]; done) | split |
    (refine foldl_inv ?_ _ _ ?_; intro _ _ hI))

@[simp] theorem hpushMove_inv (o : VA) (c : Word) (t : Nat) (s : State) (hI : s.Inv) : (hpushMove o c t s).Inv := by
  unfold hpushMove
  exact State.sched_inv _ _ _ _ _ _ (State.sched_inv _ _ _ _ _ _ hI)

@[simp] theorem hpushIssue_inv (o : VA) (d : Nat) (s : State) (hI : s.Inv) : (hpushIssue o d s).Inv := by
  unfold hpushIssue
  try dsimp only
  repeat' (first | (simp (maxDischargeDepth := 60) [hI]; done) | (simp (maxDischargeDepth := 60) (contextual := true) [hI]; done) | split |
    (refine foldl_inv ?_ _ _ ?_; intro _ _ hI))

@[simp] theorem execHpush_inv (o : VA) (s : State) (hI : s.Inv) : ResInv (execHpush o s) := by
  unfold execHpush
  try dsimp only
  repeat' (first | (simp (maxDischargeDepth := 60) [hI]; done) | (simp (maxDischargeDepth := 60) (contextual := true) [hI]; done) | split |
    (refine foldl_inv ?_ _ _ ?_; intro _ _ hI))

@[simp] theorem execHpop_inv (o : VA) (s : State) (hI : s.Inv) : ResInv (execHpop o s) := by
  unfold execHpop
  try dsimp only
  repeat' (first | (simp (maxDischargeDepth := 60) [hI]; done) | (simp (maxDischargeDepth := 60) (contextual := true) [hI]; done) | split |
    (refine foldl_inv ?_ _ _ ?_; intro _ _ hI))

@[simp] theorem execHistoryTransferDone_inv (s : State) (hI : s.Inv) : ResInv (execHistoryTransferDone s) := by
  unfold execHistoryTransferDone
  try dsimp only
  repeat' (first | (simp (maxDischargeDepth := 60) [hI]; done) | (simp (maxDischargeDepth := 60) (contextual := true) [hI]; done) | split |
    (refine foldl_inv ?_ _ _ ?_; intro _ _ hI))

end Sys2Proof.Machine
end

