-- ==== Sys2Proof/Laws/InvEngines.lean ====
section
/-! SUPPORT. The invariant of the machine is kept by the matrix engine, the rotator and the clocks (R5, R12; log 4). -/

namespace Sys2Proof.Machine

set_option linter.unusedSimpArgs false
set_option linter.unusedVariables false
set_option linter.unreachableTactic false
set_option linter.unusedTactic false

@[simp] theorem State.freed_inv (s : State) (x : Ring) (hI : s.Inv) : (State.freed s x).Inv := by
  unfold State.freed
  try dsimp only
  repeat' (first | (simp (maxDischargeDepth := 60) [hI]; done) | (simp (maxDischargeDepth := 60) (contextual := true) [hI]; done) | split |
    (refine foldl_inv ?_ _ _ ?_; intro _ _ hI))

@[simp] theorem State.release_inv (s : State) (x : Ring) (u : Nat) (hI : s.Inv) : (State.release s x u).Inv := by
  unfold State.release
  try dsimp only
  repeat' (first | (simp (maxDischargeDepth := 60) [hI]; done) | (simp (maxDischargeDepth := 60) (contextual := true) [hI]; done) | split |
    (refine foldl_inv ?_ _ _ ?_; intro _ _ hI))

@[simp] theorem execMringSet_inv (o : MRing2) (s : State) (hI : s.Inv) : ResInv (execMringSet o s) := by
  unfold execMringSet
  simp (maxDischargeDepth := 60) [hI]

@[simp] theorem execMringRead_inv (o : MRing1) (s : State) (hI : s.Inv) : ResInv (execMringRead o s) := by
  unfold execMringRead
  simp (maxDischargeDepth := 60) [hI]

@[simp] theorem execMringLoad_inv (o : MRing1) (s : State) (hI : s.Inv) : ResInv (execMringLoad o s) := by
  unfold execMringLoad
  simp (maxDischargeDepth := 60) [hI]

@[simp] theorem execMtail_inv (o : MRing1) (s : State) (hI : s.Inv) : ResInv (execMtail o s) := by
  unfold execMtail
  simp (maxDischargeDepth := 60) [hI]

@[simp] theorem execFmtq_inv (o : FmtqOp) (s : State) (hI : s.Inv) : ResInv (execFmtq o s) := by
  unfold execFmtq
  simp (maxDischargeDepth := 60) [hI]

@[simp] theorem State.reserveGroups_inv (s : State) (l : List Group) (d : List (Nat × Nat)) (hI : s.Inv) : (State.reserveGroups s l d).Inv := by
  unfold State.reserveGroups
  simp (maxDischargeDepth := 60) [hI]

@[simp] theorem State.shiftJob_inv (s : State) (dom : Dom) (id k : Nat) (hI : s.Inv) : (State.shiftJob s dom id k).Inv := by
  unfold State.shiftJob
  simp (maxDischargeDepth := 60) [hI]

@[simp] theorem State.jobWait_inv (s : State) (id k : Nat) (hI : s.Inv) : (State.jobWait s id k).Inv := by
  unfold State.jobWait
  repeat' (first | (simp (maxDischargeDepth := 60) [hI]; done) | split)

@[simp] theorem State.jobStep_inv (s : State) (start k : Nat) (j : MJob) (phase : Nat) (i : Instr) (m half : Nat) (hI : s.Inv) : (State.jobStep s start k j phase i m half).Inv := by
  unfold State.jobStep
  simp (maxDischargeDepth := 60) [hI]

@[simp] theorem State.jobNext_inv (s : State) (j : MJob) (k k' phase : Nat) (i : Instr) (m half : Nat) (hI : s.Inv) : (State.jobNext s j k k' phase i m half).Inv := by
  unfold State.jobNext
  simp (maxDischargeDepth := 60) [hI]

@[simp] theorem State.startJob_inv (s : State) (start : Nat) (j : MJob) (hI : s.Inv) : (State.startJob s start j).Inv := by
  unfold State.startJob
  try dsimp only
  repeat' (first | (simp (maxDischargeDepth := 60) [hI]; done) | (simp (maxDischargeDepth := 60) (contextual := true) [hI]; done) | split |
    (refine foldl_inv ?_ _ _ ?_; intro _ _ hI))

@[simp] theorem execMwld_inv (o : MwldOp) (s : State) (hI : s.Inv) : ResInv (execMwld o s) := by
  unfold execMwld
  simp (maxDischargeDepth := 60) [hI]

@[simp] theorem execEmclr_inv (o : StOp) (s : State) (hI : s.Inv) : ResInv (execEmclr o s) := by
  unfold execEmclr
  simp (maxDischargeDepth := 60) [hI]

@[simp] theorem product_inv (k : MKind) (o : ProdOp) (s : State) (hI : s.Inv) : ResInv (product k o s) := by
  unfold product
  simp (maxDischargeDepth := 60) [hI]

@[simp] theorem execMmacr_inv (o : ProdOp) (s : State) (hI : s.Inv) : ResInv (execMmacr o s) := by
  unfold execMmacr
  simp (maxDischargeDepth := 60) [hI]

@[simp] theorem execMmasr_inv (o : ProdOp) (s : State) (hI : s.Inv) : ResInv (execMmasr o s) := by
  unfold execMmasr
  simp (maxDischargeDepth := 60) [hI]

@[simp] theorem execEmmul_inv (o : ProdOp) (s : State) (hI : s.Inv) : ResInv (execEmmul o s) := by
  unfold execEmmul
  simp (maxDischargeDepth := 60) [hI]

@[simp] theorem execEmfma_inv (o : ProdOp) (s : State) (hI : s.Inv) : ResInv (execEmfma o s) := by
  unfold execEmfma
  simp (maxDischargeDepth := 60) [hI]

@[simp] theorem State.updJob_inv (s : State) (id : Nat) (f : MJob → MJob) (hI : s.Inv) : (State.updJob s id f).Inv := by
  unfold State.updJob
  simp (maxDischargeDepth := 60) [hI]

@[simp] theorem execMatrixActivationRead_inv (s : State) (hI : s.Inv) : ResInv (execMatrixActivationRead s) := by
  unfold execMatrixActivationRead
  try dsimp only
  repeat' (first | (simp (maxDischargeDepth := 60) [hI]; done) | (simp (maxDischargeDepth := 60) (contextual := true) [hI]; done) | split |
    (refine foldl_inv ?_ _ _ ?_; intro _ _ hI))

@[simp] theorem execMatrixAccumulatorRead_inv (s : State) (hI : s.Inv) : ResInv (execMatrixAccumulatorRead s) := by
  unfold execMatrixAccumulatorRead
  try dsimp only
  repeat' (first | (simp (maxDischargeDepth := 60) [hI]; done) | (simp (maxDischargeDepth := 60) (contextual := true) [hI]; done) | split |
    (refine foldl_inv ?_ _ _ ?_; intro _ _ hI))

@[simp] theorem execMatrixWeightCapture_inv (s : State) (hI : s.Inv) : ResInv (execMatrixWeightCapture s) := by
  unfold execMatrixWeightCapture
  repeat' (first | (simp (maxDischargeDepth := 60) [hI]; done) | split)

@[simp] theorem execWeightLoadChange_inv (s : State) (hI : s.Inv) : ResInv (execWeightLoadChange s) := by
  unfold execWeightLoadChange
  repeat' (first | (simp (maxDischargeDepth := 60) [hI]; done) | split)

@[simp] theorem execMatrixWriteback_inv (s : State) (hI : s.Inv) : ResInv (execMatrixWriteback s) := by
  unfold execMatrixWriteback
  try dsimp only
  repeat' (first | (simp (maxDischargeDepth := 60) [hI]; done) | (simp (maxDischargeDepth := 60) (contextual := true) [hI]; done) | split |
    (refine foldl_inv ?_ _ _ ?_; intro _ _ hI))

@[simp] theorem execMatrixRetire_inv (s : State) (hI : s.Inv) : ResInv (execMatrixRetire s) := by
  unfold execMatrixRetire
  repeat' (first | (simp (maxDischargeDepth := 60) [hI]; done) | split)

@[simp] theorem State.rtStep_inv (s : State) (start k : Nat) (j : RJob) (phase : Nat) (i : Instr) (x y : Nat) (hI : s.Inv) : (State.rtStep s start k j phase i x y).Inv := by
  unfold State.rtStep
  simp (maxDischargeDepth := 60) [hI]

@[simp] theorem State.rtNext_inv (s : State) (j : RJob) (k k' phase : Nat) (i : Instr) (x y : Nat) (hI : s.Inv) : (State.rtNext s j k k' phase i x y).Inv := by
  unfold State.rtNext
  simp (maxDischargeDepth := 60) [hI]

@[simp] theorem State.startRt_inv (s : State) (start : Nat) (j : RJob) (hI : s.Inv) : (State.startRt s start j).Inv := by
  unfold State.startRt
  try dsimp only
  repeat' (first | (simp (maxDischargeDepth := 60) [hI]; done) | (simp (maxDischargeDepth := 60) (contextual := true) [hI]; done) | split |
    (refine foldl_inv ?_ _ _ ?_; intro _ _ hI))

@[simp] theorem execRtqr_inv (o : RtqrOp) (s : State) (hI : s.Inv) : ResInv (execRtqr o s) := by
  unfold execRtqr
  simp (maxDischargeDepth := 60) [hI]

@[simp] theorem execRtapl_inv (o : RtaplOp) (s : State) (hI : s.Inv) : ResInv (execRtapl o s) := by
  unfold execRtapl
  simp (maxDischargeDepth := 60) [hI]

@[simp] theorem execRtinvApl_inv (o : RtaplOp) (s : State) (hI : s.Inv) : ResInv (execRtinvApl o s) := by
  unfold execRtinvApl
  simp (maxDischargeDepth := 60) [hI]

@[simp] theorem execRtinvQr_inv (o : RtinvQOp) (s : State) (hI : s.Inv) : ResInv (execRtinvQr o s) := by
  unfold execRtinvQr
  simp (maxDischargeDepth := 60) [hI]

@[simp] theorem execRtsolve_inv (o : RtsolveOp) (s : State) (hI : s.Inv) : ResInv (execRtsolve o s) := by
  unfold execRtsolve
  simp (maxDischargeDepth := 60) [hI]

@[simp] theorem execRtrd_inv (o : RtrwOp) (s : State) (hI : s.Inv) : ResInv (execRtrd o s) := by
  unfold execRtrd
  simp (maxDischargeDepth := 60) [hI]

@[simp] theorem execRtwr_inv (o : RtrwOp) (s : State) (hI : s.Inv) : ResInv (execRtwr o s) := by
  unfold execRtwr
  simp (maxDischargeDepth := 60) [hI]

@[simp] theorem execRtgainSet_inv (o : RtgainOp) (s : State) (hI : s.Inv) : ResInv (execRtgainSet o s) := by
  unfold execRtgainSet
  simp (maxDischargeDepth := 60) [hI]

@[simp] theorem execRtgainRead_inv (o : FmtqOp) (s : State) (hI : s.Inv) : ResInv (execRtgainRead o s) := by
  unfold execRtgainRead
  simp (maxDischargeDepth := 60) [hI]

@[simp] theorem execErtclr_inv (o : StOp) (s : State) (hI : s.Inv) : ResInv (execErtclr o s) := by
  unfold execErtclr
  simp (maxDischargeDepth := 60) [hI]

@[simp] theorem State.updRt_inv (s : State) (id : Nat) (f : RJob → RJob) (hI : s.Inv) : (State.updRt s id f).Inv := by
  unfold State.updRt
  simp (maxDischargeDepth := 60) [hI]

@[simp] theorem RJob.visit_wf {j : RJob} {v : Visit} {c : SMap 48} {b : RBlk} (h : SMap.wf c = true) :
    SMap.wf (j.visit v c b).1 = true := by
  unfold RJob.visit
  dsimp only
  split <;> simp [h]

@[simp] theorem Atoll.visit_canon (a : Atoll) (v : Visit) (hI : a.Canon) : (a.visit v).Canon := by
  have h := hI.cells_wf
  unfold Atoll.visit
  repeat' (first | (simp [hI, h]; done) | split)

@[simp] theorem Atoll.visit_n (a : Atoll) (v : Visit) : (a.visit v).n = a.n := by
  unfold Atoll.visit
  repeat' (first | rfl | split)

theorem foldl_visit (l : List Visit) : ∀ a : Atoll, a.Canon → (l.foldl Atoll.visit a).Canon ∧ (l.foldl Atoll.visit a).n = a.n := by
  induction l with
  | nil => exact fun a h => ⟨h, rfl⟩
  | cons v r ih =>
    intro a h
    have := ih (a.visit v) (Atoll.visit_canon a v h)
    exact ⟨this.1, this.2.trans (Atoll.visit_n a v)⟩

@[simp] theorem Atoll.rotate_canon (now : Nat) (a : Atoll) (hI : a.Canon) : (a.rotate now).Canon := (foldl_visit _ a hI).1

@[simp] theorem Atoll.rotate_n (now : Nat) (a : Atoll) (hI : a.Canon) : (a.rotate now).n = a.n := (foldl_visit _ a hI).2

@[simp] theorem execRotatorRowRead_inv (s : State) (hI : s.Inv) : ResInv (execRotatorRowRead s) := by
  unfold execRotatorRowRead
  try dsimp only
  repeat' (first | (simp (maxDischargeDepth := 60) [hI]; done) | (simp (maxDischargeDepth := 60) (contextual := true) [hI]; done) | split |
    (refine foldl_inv ?_ _ _ ?_; intro _ _ hI))

@[simp] theorem execRotatorRowWrite_inv (s : State) (hI : s.Inv) : ResInv (execRotatorRowWrite s) := by
  unfold execRotatorRowWrite
  try dsimp only
  repeat' (first | (simp (maxDischargeDepth := 60) [hI]; done) | (simp (maxDischargeDepth := 60) (contextual := true) [hI]; done) | split |
    (refine foldl_inv ?_ _ _ ?_; intro _ _ hI))

theorem foldl_wf {w : Nat} {α : Type} {f : SMap w → α → SMap w} (hf : ∀ m x, SMap.wf m = true → SMap.wf (f m x) = true) :
    ∀ (l : List α) (m : SMap w), SMap.wf m = true → SMap.wf (l.foldl f m) = true
  | [], _, h => h
  | x :: r, m, h => foldl_wf hf r (f m x) (hf m x h)

@[simp] theorem takeTriangle_wf {c : SMap 48} {i : Nat} {rows : List Row} (h : SMap.wf c = true) :
    SMap.wf (takeTriangle c i rows) = true := by
  unfold takeTriangle
  refine foldl_wf ?_ _ _ h
  intro m x h
  simp [h]

@[simp] theorem execRotatorQuietEvent_inv (s : State) (hI : s.Inv) : ResInv (execRotatorQuietEvent s) := by
  unfold execRotatorQuietEvent
  try dsimp only
  have hc := hI.a_canon.cells_wf
  repeat' (first | (simp (maxDischargeDepth := 60) [hI]; done) | (simp (maxDischargeDepth := 60) (contextual := true) [hI]; done) | split |
    (refine foldl_inv ?_ _ _ ?_; intro _ _ hI))

@[simp] theorem execRotatorRetire_inv (s : State) (hI : s.Inv) : ResInv (execRotatorRetire s) := by
  unfold execRotatorRetire
  repeat' (first | (simp (maxDischargeDepth := 60) [hI]; done) | split)

@[simp] theorem Atoll.setGate_canon (a : Atoll) (k : Nat) (g : GateSt) (hI : a.Canon) : (Atoll.setGate a k g).Canon := by
  unfold Atoll.setGate
  repeat' (first | (simp (maxDischargeDepth := 60) [hI]; done) | split)

@[simp] theorem Atoll.setGate_n (a : Atoll) (k : Nat) (g : GateSt) : (Atoll.setGate a k g).n = a.n := by
  unfold Atoll.setGate
  try dsimp only
  repeat' (first | rfl | (simp; done) | split)

@[simp] theorem State.updGate_inv (s : State) (k : Nat) (f : GateSt → GateSt) (hI : s.Inv) : (State.updGate s k f).Inv := by
  unfold State.updGate
  simp (maxDischargeDepth := 60) [hI]

@[simp] theorem execEngineGate_inv (s : State) (hI : s.Inv) : ResInv (execEngineGate s) := by
  unfold execEngineGate
  try dsimp only
  repeat' (first | (simp (maxDischargeDepth := 60) [hI]; done) | (simp (maxDischargeDepth := 60) (contextual := true) [hI]; done) | split |
    (refine foldl_inv ?_ _ _ ?_; intro _ _ hI))

@[simp] theorem execEngineWakeDone_inv (s : State) (hI : s.Inv) : ResInv (execEngineWakeDone s) := by
  unfold execEngineWakeDone
  repeat' (first | (simp (maxDischargeDepth := 60) [hI]; done) | split)

@[simp] theorem State.wakeEngine_inv (s : State) (k : Nat) (hI : s.Inv) : (State.wakeEngine s k).Inv := by
  unfold State.wakeEngine
  repeat' (first | (simp (maxDischargeDepth := 60) [hI]; done) | split)

@[simp] theorem State.useEngine_inv (s : State) (k : Nat) (hI : s.Inv) : (State.useEngine s k).Inv := by
  unfold State.useEngine
  simp (maxDischargeDepth := 60) [hI]

@[simp] theorem execWake_inv (o : EngOp) (s : State) (hI : s.Inv) : ResInv (execWake o s) := by
  unfold execWake
  try dsimp only
  repeat' (first | (simp (maxDischargeDepth := 60) [hI]; done) | (simp (maxDischargeDepth := 60) (contextual := true) [hI]; done) | split |
    (refine foldl_inv ?_ _ _ ?_; intro _ _ hI))

@[simp] theorem execGate_inv (o : EngOp) (s : State) (hI : s.Inv) : ResInv (execGate o s) := by
  unfold execGate
  try dsimp only
  repeat' (first | (simp (maxDischargeDepth := 60) [hI]; done) | (simp (maxDischargeDepth := 60) (contextual := true) [hI]; done) | split |
    (refine foldl_inv ?_ _ _ ?_; intro _ _ hI))

@[simp] theorem State.setDivisor_inv (s : State) (k n E : Nat) (alt : Bool) (hI : s.Inv) : (State.setDivisor s k n E alt).Inv := by
  unfold State.setDivisor
  simp (maxDischargeDepth := 60) [hI]

@[simp] theorem execClkdiv_inv (o : ClkOp) (s : State) (hI : s.Inv) : ResInv (execClkdiv o s) := by
  unfold execClkdiv
  refine State.unless_inv hI ?_
  split
  · simp [hI]
  · have h : (s.updA fun a => { a with hand := a.hand ++ [o.dom.toNat] }).Inv := hI
    dsimp only
    split
    · exact State.sched_inv _ _ _ _ _ _ (State.waitFor_inv _ _ h)
    · exact State.sched_inv _ _ _ _ _ _ h

@[simp] theorem execClockHandover_inv (s : State) (hI : s.Inv) : ResInv (execClockHandover s) := by
  unfold execClockHandover
  try dsimp only
  repeat' (first | (simp (maxDischargeDepth := 60) [hI]; done) | (simp (maxDischargeDepth := 60) (contextual := true) [hI]; done) | split |
    (refine foldl_inv ?_ _ _ ?_; intro _ _ hI))

@[simp] theorem rdmeter_inv (bal : Bool) (o : RdmOp) (s : State) (hI : s.Inv) : ResInv (rdmeter bal o s) := by
  unfold rdmeter
  repeat' (first | (simp (maxDischargeDepth := 60) [hI]; done) | split)

@[simp] theorem execRdmeterUsed_inv (o : RdmOp) (s : State) (hI : s.Inv) : ResInv (execRdmeterUsed o s) := by
  unfold execRdmeterUsed
  simp (maxDischargeDepth := 60) [hI]

@[simp] theorem execRdmeterBal_inv (o : RdmOp) (s : State) (hI : s.Inv) : ResInv (execRdmeterBal o s) := by
  unfold execRdmeterBal
  simp (maxDischargeDepth := 60) [hI]

@[simp] theorem execRdmeterDrainDone_inv (s : State) (hI : s.Inv) : ResInv (execRdmeterDrainDone s) := by
  unfold execRdmeterDrainDone
  try dsimp only
  repeat' (first | (simp (maxDischargeDepth := 60) [hI]; done) | (simp (maxDischargeDepth := 60) (contextual := true) [hI]; done) | split |
    (refine foldl_inv ?_ _ _ ?_; intro _ _ hI))

@[simp] theorem State.lagoonSample_inv (s : State) (mv : Nat) (hI : s.Inv) : (State.lagoonSample s mv).Inv := by
  unfold State.lagoonSample
  simp (maxDischargeDepth := 60) [hI]

@[simp] theorem execLagoonHoldBegin_inv (s : State) (hI : s.Inv) : ResInv (execLagoonHoldBegin s) := by
  unfold execLagoonHoldBegin
  repeat' (first | (simp (maxDischargeDepth := 60) [hI]; done) | split)

@[simp] theorem execLagoonHoldEnd_inv (s : State) (hI : s.Inv) : ResInv (execLagoonHoldEnd s) := by
  unfold execLagoonHoldEnd
  repeat' (first | (simp (maxDischargeDepth := 60) [hI]; done) | split)

theorem railAtoll_canon (die mv : Nat) (a : Atoll) (ha : a.Canon) : Atoll.Canon (if a.n / 80 = die then { a with st := { a.st with laglvl := setBits (setBits a.st.laglvl 0 12 mv) 16 12 (mv - 40) } } else a) := by
  split
  · rw [Atoll.canon_mk]; exact ha
  · exact ha
theorem railAtoll_n (die mv : Nat) (a : Atoll) : Atoll.n (if a.n / 80 = die then { a with st := { a.st with laglvl := setBits (setBits a.st.laglvl 0 12 mv) 16 12 (mv - 40) } } else a) = a.n := by
  split <;> rfl
/-- A change of every atoll at once that keeps each one's number. -/
theorem State.every_inv {s : State} {f : Atoll → Atoll} {fe : Fe} (hI : s.Inv) (hfe : SMap.wf fe.evlog = true)
    (hf : ∀ a, a.Canon → (f a).Canon) (hn : ∀ a, (f a).n = a.n) :
    State.Inv { s with fe := fe, a := f s.a, others := s.others.map f } := by
  obtain ⟨h1, h2⟩ := State.others_map_inv hI hf hn
  have h3 := hI.numbered
  rw [← h2, ← hn s.a] at h3
  exact State.inv_mk.mpr ⟨hI.host_wf, hI.dev_canon, hfe, hf _ hI.a_canon, h1, h3⟩
@[simp] theorem State.setRail_inv (s : State) (die mv : Nat) (hI : s.Inv) : (State.setRail s die mv).Inv :=
  State.every_inv hI hI.evlog_wf (railAtoll_canon die mv) (railAtoll_n die mv)

@[simp] theorem execRailChange_inv (s : State) (hI : s.Inv) : ResInv (execRailChange s) := by
  unfold execRailChange
  split
  · next die mv _ =>
    have h := State.setRail_inv s die mv hI
    split
    · exact hI
    · split
      · exact State.again_inv _ _ hI
      · exact ite_inv h (State.sched_inv _ _ _ _ _ _ h)
  · exact hI

end Sys2Proof.Machine
end

