-- ==== Sys2Proof/Laws/InvCopy.lean ====
section
/-! SUPPORT. The invariant of the machine is kept by the device, the copy engine and the links (R5, R12; log 4). -/

namespace Sys2Proof.Machine

set_option linter.unusedSimpArgs false
set_option linter.unusedVariables false
set_option linter.unreachableTactic false
set_option linter.unusedTactic false

@[simp] theorem execGmAccess_inv (s : State) (hI : s.Inv) : ResInv (execGmAccess s) := by
  unfold execGmAccess
  try dsimp only
  repeat' (first | (simp (maxDischargeDepth := 60) [hI]; done) | (simp (maxDischargeDepth := 60) (contextual := true) [hI]; done) | split |
    (refine foldl_inv ?_ _ _ ?_; intro _ _ hI))

@[simp] theorem execReefAtomic_inv (s : State) (hI : s.Inv) : ResInv (execReefAtomic s) := by
  unfold execReefAtomic
  try dsimp only
  repeat' (first | (simp (maxDischargeDepth := 60) [hI]; done) | (simp (maxDischargeDepth := 60) (contextual := true) [hI]; done) | split |
    (refine foldl_inv ?_ _ _ ?_; intro _ _ hI))

@[simp] theorem execPatrolScrub_inv (s : State) (hI : s.Inv) : ResInv (execPatrolScrub s) := by
  unfold execPatrolScrub
  repeat' (first | (simp (maxDischargeDepth := 60) [hI]; done) | split)

@[simp] theorem execLayerTempSample_inv (s : State) (hI : s.Inv) : ResInv (execLayerTempSample s) := by
  unfold execLayerTempSample
  repeat' (first | (simp (maxDischargeDepth := 60) [hI]; done) | split)

@[simp] theorem State.scriptFault_inv (s : State) (c check : Nat) (hI : s.Inv) : (State.scriptFault s c check).Inv := by
  unfold State.scriptFault
  simp (maxDischargeDepth := 60) [hI]

@[simp] theorem execRefreshInterval_inv (s : State) (hI : s.Inv) : ResInv (execRefreshInterval s) := by
  unfold execRefreshInterval
  try dsimp only
  repeat' (first | (simp (maxDischargeDepth := 60) [hI]; done) | (simp (maxDischargeDepth := 60) (contextual := true) [hI]; done) | split |
    (refine foldl_inv ?_ _ _ ?_; intro _ _ hI))

@[simp] theorem execChannelFail_inv (s : State) (hI : s.Inv) : ResInv (execChannelFail s) := by
  unfold execChannelFail
  repeat' (first | (simp (maxDischargeDepth := 60) [hI]; done) | split)

@[simp] theorem execRetirementRecordWrite_inv (s : State) (hI : s.Inv) : ResInv (execRetirementRecordWrite s) := by
  unfold execRetirementRecordWrite
  repeat' (first | (simp (maxDischargeDepth := 60) [hI]; done) | split)

@[simp] theorem State.scriptDue_inv (s : State) (c : Nat) (hI : s.Inv) : (State.scriptDue s c).Inv := by
  unfold State.scriptDue
  try dsimp only
  repeat' (first | (simp (maxDischargeDepth := 60) [hI]; done) | (simp (maxDischargeDepth := 60) (contextual := true) [hI]; done) | split |
    (refine foldl_inv ?_ _ _ ?_; intro _ _ hI))

@[simp] theorem execScriptWord_inv (s : State) (hI : s.Inv) : ResInv (execScriptWord s) := by
  unfold execScriptWord
  try dsimp only
  repeat' (first | (simp (maxDischargeDepth := 60) [hI]; done) | (simp (maxDischargeDepth := 60) (contextual := true) [hI]; done) | split |
    (refine foldl_inv ?_ _ _ ?_; intro _ _ hI))

@[simp] theorem execDynWindowEnd_inv (s : State) (hI : s.Inv) : ResInv (execDynWindowEnd s) := by
  unfold execDynWindowEnd
  repeat' (first | (simp (maxDischargeDepth := 60) [hI]; done) | split)

@[simp] theorem State.kickCopies_inv (s : State) (hI : s.Inv) : (State.kickCopies s).Inv := by
  unfold State.kickCopies
  try dsimp only
  repeat' (first | (simp (maxDischargeDepth := 60) [hI]; done) | (simp (maxDischargeDepth := 60) (contextual := true) [hI]; done) | split |
    (refine foldl_inv ?_ _ _ ?_; intro _ _ hI))

@[simp] theorem State.enqueueCopy_inv (s : State) (c : CIn) (hI : s.Inv) : (State.enqueueCopy s c).Inv := by
  unfold State.enqueueCopy
  simp (maxDischargeDepth := 60) [hI]

@[simp] theorem execCpy_inv (o : COp) (s : State) (hI : s.Inv) : ResInv (execCpy o s) := by
  unfold execCpy
  simp (maxDischargeDepth := 60) [hI]

@[simp] theorem execCpyx_inv (o : COp) (s : State) (hI : s.Inv) : ResInv (execCpyx o s) := by
  unfold execCpyx
  simp (maxDischargeDepth := 60) [hI]

@[simp] theorem execCpycPack_inv (o : CcOp) (s : State) (hI : s.Inv) : ResInv (execCpycPack o s) := by
  unfold execCpycPack
  simp (maxDischargeDepth := 60) [hI]

@[simp] theorem execCpycUnpack_inv (o : CcOp) (s : State) (hI : s.Inv) : ResInv (execCpycUnpack o s) := by
  unfold execCpycUnpack
  simp (maxDischargeDepth := 60) [hI]

@[simp] theorem execCpyg_inv (o : CgOp) (s : State) (hI : s.Inv) : ResInv (execCpyg o s) := by
  unfold execCpyg
  simp (maxDischargeDepth := 60) [hI]

@[simp] theorem execCpys_inv (o : CsOp) (s : State) (hI : s.Inv) : ResInv (execCpys o s) := by
  unfold execCpys
  simp (maxDischargeDepth := 60) [hI]

@[simp] theorem execCpyz_inv (o : CzOp) (s : State) (hI : s.Inv) : ResInv (execCpyz o s) := by
  unfold execCpyz
  simp (maxDischargeDepth := 60) [hI]

@[simp] theorem execCpyv_inv (o : CvOp) (s : State) (hI : s.Inv) : ResInv (execCpyv o s) := by
  unfold execCpyv
  simp (maxDischargeDepth := 60) [hI]

@[simp] theorem execPpcmp_inv (o : PpOp) (s : State) (hI : s.Inv) : ResInv (execPpcmp o s) := by
  unfold execPpcmp
  simp (maxDischargeDepth := 60) [hI]

@[simp] theorem State.cRead_inv (s : State) (a : CArea) (row : Nat) (hI : s.Inv) : (State.cRead s a row).2.Inv := by
  unfold State.cRead
  repeat' (first | (simp (maxDischargeDepth := 60) [hI]; done) | split)

@[simp] theorem State.spSetRowOf_inv (s : State) (k row : Nat) (v : Row) (hI : s.Inv) : (State.spSetRowOf s k row v).Inv := by
  unfold State.spSetRowOf
  simp (maxDischargeDepth := 60) [hI]

@[simp] theorem State.spPut_inv (s : State) (k row : Nat) (v mask : Row) (xor : Bool) (hI : s.Inv) : (State.spPut s k row v mask xor).Inv := by
  unfold State.spPut
  exact ite_inv (State.focus_inv _ _ (State.spSetWord_inv _ _ _ (State.focus_inv _ _ hI))) (State.spSetRowOf_inv _ _ _ _ hI)

@[simp] theorem State.gmPut_inv (s : State) (w : CWr) (hI : s.Inv) : (State.gmPut s w).2.Inv := by
  unfold State.gmPut
  try dsimp only
  repeat' (first | (simp (maxDischargeDepth := 60) [hI]; done) | split)

@[simp] theorem State.updCopy_inv (s : State) (id : Nat) (f : CCmd → CCmd) (hI : s.Inv) : (State.updCopy s id f).Inv := by
  unfold State.updCopy
  simp (maxDischargeDepth := 60) [hI]

@[simp] theorem State.finishCopy_inv (s : State) (c : CCmd) (hI : s.Inv) : (State.finishCopy s c).Inv := by
  unfold State.finishCopy
  try dsimp only
  repeat' (first | (simp (maxDischargeDepth := 60) [hI]; done) | (simp (maxDischargeDepth := 60) (contextual := true) [hI]; done) | split |
    (refine foldl_inv ?_ _ _ ?_; intro _ _ hI))

@[simp] theorem execCopyStart_inv (s : State) (hI : s.Inv) : ResInv (execCopyStart s) := by
  unfold execCopyStart
  try dsimp only
  repeat' (first | (simp (maxDischargeDepth := 60) [hI]; done) | (simp (maxDischargeDepth := 60) (contextual := true) [hI]; done) | split |
    (refine foldl_inv ?_ _ _ ?_; intro _ _ hI))

@[simp] theorem State.links_inv (s : State) (l : List (Nat × Nat)) (hI : s.Inv) : State.Inv { s with links := l } := hI

@[simp] theorem State.carry_inv (s : State) (out : Bool) (a : CArea) (row t : Nat) (hI : s.Inv) : (State.carry s out a row t).2.Inv := by
  unfold State.carry
  dsimp only
  repeat' (first | (simp (maxDischargeDepth := 60) [hI]; done) | split)

theorem foldl_snd_inv {α β : Type} {f : β × State → α → β × State} (hf : ∀ r x, r.2.Inv → (f r x).2.Inv) :
    ∀ (l : List α) (r : β × State), r.2.Inv → (l.foldl f r).2.Inv
  | [], _, h => h
  | x :: l, r, h => foldl_snd_inv hf l (f r x) (hf r x h)

@[simp] theorem State.startBurst_inv (s : State) (c : CCmd) (f : CDo) (l : List CDo) (hI : s.Inv) : (State.startBurst s c f l).Inv := by
  unfold State.startBurst
  extract_lets wr st d g r t n s1
  have hr : r.2.Inv := foldl_snd_inv (f := fun r x => _) (fun r x h => by exact State.carry_inv _ _ _ _ _ h) _ _ hI
  clear_value r
  split
  · simp [hI]
  · refine foldl_inv (fun s x h => State.sched_inv _ _ _ _ _ _ h) _ _ ?_
    have hb : (if wr = true then r.2 else s).Inv := by split <;> assumption
    exact hb

@[simp] theorem State.startRemote_inv (s : State) (c : CCmd) (f : CDo) (hI : s.Inv) : (State.startRemote s c f).Inv := by
  unfold State.startRemote
  try dsimp only
  repeat' (first | (simp (maxDischargeDepth := 60) [hI]; done) | (simp (maxDischargeDepth := 60) (contextual := true) [hI]; done) | split |
    (refine foldl_inv ?_ _ _ ?_; intro _ _ hI))

@[simp] theorem State.copyPause_inv (s : State) (hI : s.Inv) : (State.copyPause s).Inv := by
  unfold State.copyPause
  try dsimp only
  repeat' (first | (simp (maxDischargeDepth := 60) [hI]; done) | (simp (maxDischargeDepth := 60) (contextual := true) [hI]; done) | split |
    (refine foldl_inv ?_ _ _ ?_; intro _ _ hI))

@[simp] theorem execCopyBurst_inv (s : State) (hI : s.Inv) : ResInv (execCopyBurst s) := by
  unfold execCopyBurst
  try dsimp only
  repeat' (first | (simp (maxDischargeDepth := 60) [hI]; done) | (simp (maxDischargeDepth := 60) (contextual := true) [hI]; done) | split |
    (refine foldl_inv ?_ _ _ ?_; intro _ _ hI))

@[simp] theorem State.retry_inv (s : State) (t ph : Nat) (hI : s.Inv) : (State.retry s t ph).Inv := by
  unfold State.retry
  try dsimp only
  repeat' (first | (simp (maxDischargeDepth := 60) [hI]; done) | (simp (maxDischargeDepth := 60) (contextual := true) [hI]; done) | split |
    (refine foldl_inv ?_ _ _ ?_; intro _ _ hI))

@[simp] theorem State.copyTake_inv (s : State) (f : CDo) (hI : s.Inv) : (State.copyTake s f).Inv := by
  unfold State.copyTake
  try dsimp only
  repeat' (first | (simp (maxDischargeDepth := 60) [hI]; done) | (simp (maxDischargeDepth := 60) (contextual := true) [hI]; done) | split |
    (refine foldl_inv ?_ _ _ ?_; intro _ _ hI))

@[simp] theorem State.copyGet_inv (s : State) (c : CCmd) (p : Nat) (r : CRd) (hI : s.Inv) : (State.copyGet s c p r).Inv := by
  unfold State.copyGet
  try dsimp only
  repeat' (first | (simp (maxDischargeDepth := 60) [hI]; done) | (simp (maxDischargeDepth := 60) (contextual := true) [hI]; done) | split |
    (refine foldl_inv ?_ _ _ ?_; intro _ _ hI))

@[simp] theorem State.copyPut_inv (s : State) (c : CCmd) (f : CDo) (w : CWr) (hI : s.Inv) : (State.copyPut s c f w).Inv := by
  unfold State.copyPut
  try dsimp only
  repeat' (first | (simp (maxDischargeDepth := 60) [hI]; done) | (simp (maxDischargeDepth := 60) (contextual := true) [hI]; done) | split |
    (refine foldl_inv ?_ _ _ ?_; intro _ _ hI))

@[simp] theorem State.copyOn_inv (s : State) (id : Nat) (f : CDo) (hI : s.Inv) : (State.copyOn s id f).Inv := by
  unfold State.copyOn
  try dsimp only
  repeat' (first | (simp (maxDischargeDepth := 60) [hI]; done) | (simp (maxDischargeDepth := 60) (contextual := true) [hI]; done) | split |
    (refine foldl_inv ?_ _ _ ?_; intro _ _ hI))

@[simp] theorem State.copyAccess_inv (s : State) (id kind key : Nat) (hI : s.Inv) : (State.copyAccess s id kind key).Inv := by
  unfold State.copyAccess
  repeat' (first | (simp (maxDischargeDepth := 60) [hI]; done) | split)

@[simp] theorem State.copyArrival_inv (s : State) (src row : Nat) (v mask : Row) (xor : Bool) (id : Nat) (hI : s.Inv) : (State.copyArrival s src row v mask xor id).Inv := by
  unfold State.copyArrival
  try dsimp only
  repeat' (first | (simp (maxDischargeDepth := 60) [hI]; done) | (simp (maxDischargeDepth := 60) (contextual := true) [hI]; done) | split |
    (refine foldl_inv ?_ _ _ ?_; intro _ _ hI))

@[simp] theorem execCopyRow_inv (s : State) (hI : s.Inv) : ResInv (execCopyRow s) := by
  unfold execCopyRow
  repeat' (first | (simp (maxDischargeDepth := 60) [hI]; done) | split)

@[simp] theorem execReefStreamRow_inv (s : State) (hI : s.Inv) : ResInv (execReefStreamRow s) := by
  unfold execReefStreamRow
  repeat' (first | (simp (maxDischargeDepth := 60) [hI]; done) | split)

@[simp] theorem State.copyAcked_inv (s : State) (id erased : Nat) (hI : s.Inv) : (State.copyAcked s id erased).Inv := by
  unfold State.copyAcked
  try dsimp only
  repeat' (first | (simp (maxDischargeDepth := 60) [hI]; done) | (simp (maxDischargeDepth := 60) (contextual := true) [hI]; done) | split |
    (refine foldl_inv ?_ _ _ ?_; intro _ _ hI))

@[simp] theorem State.stopCopy_inv (s : State) (id code : Nat) (hI : s.Inv) : (State.stopCopy s id code).Inv := by
  unfold State.stopCopy
  repeat' (first | (simp (maxDischargeDepth := 60) [hI]; done) | split)

@[simp] theorem execAtsTranslationResponse_inv (s : State) (hI : s.Inv) : ResInv (execAtsTranslationResponse s) := by
  unfold execAtsTranslationResponse
  repeat' (first | (simp (maxDischargeDepth := 60) [hI]; done) | split)

@[simp] theorem State.setCtr_inv (s : State) (tile : Nat) (w : Word) (hI : s.Inv) : (State.setCtr s tile w).Inv := by
  unfold State.setCtr
  try dsimp only
  repeat' (first | (simp (maxDischargeDepth := 60) [hI]; done) | (simp (maxDischargeDepth := 60) (contextual := true) [hI]; done) | split |
    (refine foldl_inv ?_ _ _ ?_; intro _ _ hI))

@[simp] theorem State.setLanded_inv (s : State) (tile n : Nat) (hI : s.Inv) : (State.setLanded s tile n).Inv := by
  unfold State.setLanded
  simp (maxDischargeDepth := 60) [hI]

@[simp] theorem State.endCtr_inv (s : State) (tile st code : Nat) (hI : s.Inv) : (State.endCtr s tile st code).Inv := by
  unfold State.endCtr
  simp (maxDischargeDepth := 60) [hI]

@[simp] theorem State.lkRead_inv (s : State) (row : Nat) (hI : s.Inv) : (State.lkRead s row).2.Inv := by
  unfold State.lkRead
  simp (maxDischargeDepth := 60) [hI]

@[simp] theorem State.lkWrite_inv (s : State) (row : Nat) (v : Row) (hI : s.Inv) : (State.lkWrite s row v).Inv := by
  unfold State.lkWrite
  simp (maxDischargeDepth := 60) [hI]

@[simp] theorem State.lkReadPlane_inv (s : State) (buf p : Nat) (hI : s.Inv) : (State.lkReadPlane s buf p).2.Inv := by
  unfold State.lkReadPlane
  refine foldl_snd_inv ?_ _ _ hI
  intro r x h
  simp [h]

@[simp] theorem State.lkWritePlane_inv (s : State) (buf p : Nat) (l : List Row) (hI : s.Inv) : (State.lkWritePlane s buf p l).Inv := by
  unfold State.lkWritePlane
  try dsimp only
  repeat' (first | (simp (maxDischargeDepth := 60) [hI]; done) | (simp (maxDischargeDepth := 60) (contextual := true) [hI]; done) | split |
    (refine foldl_inv ?_ _ _ ?_; intro _ _ hI))

@[simp] theorem State.streamStep_inv (s : State) (k : Nat) (i : Instr) (arg : Arg) (l : List Msg) (hI : s.Inv) : (State.streamStep s k i arg l).Inv := by
  unfold State.streamStep
  split
  · exact foldl_inv (fun s x h => State.sendFrame_inv _ _ h) _ _ hI
  · extract_lets x t
    have h : x.2.Inv := by
      refine foldl_snd_inv ?_ _ _ hI
      exact fun r y h => h
    exact State.schedAt_inv _ _ _ _ _ _ _ h

@[simp] theorem State.lkSend_inv (s : State) (c : LCmd) (p : Nat) (l : List Row) (hI : s.Inv) : (State.lkSend s c p l).Inv := by
  unfold State.lkSend
  extract_lets src s0 s1
  have h : s1.Inv := foldl_inv (fun s x h => State.ride_inv _ _ _ _ _ h) _ _ (State.chargeNow_inv _ _ hI)
  exact ite_inv (State.streamStep_inv _ _ _ _ _ h) (State.streamStep_inv _ _ _ _ _ h)

@[simp] theorem State.lkEnd_inv (s : State) (c : LCmd) (hI : s.Inv) : (State.lkEnd s c).Inv := by
  unfold State.lkEnd
  simp (maxDischargeDepth := 60) [hI]

@[simp] theorem State.lkCancel_inv (s : State) (src stile : Nat) (hI : s.Inv) : (State.lkCancel s src stile).Inv := by
  unfold State.lkCancel
  simp (maxDischargeDepth := 60) [hI]

@[simp] theorem State.lkAck_inv (s : State) (src stile : Nat) (hI : s.Inv) : (State.lkAck s src stile).Inv := by
  unfold State.lkAck
  simp (maxDischargeDepth := 60) [hI]

@[simp] theorem State.chargeSender_inv (s : State) (src amount : Nat) (hI : s.Inv) : (State.chargeSender s src amount).Inv := by
  unfold State.chargeSender
  try dsimp only
  repeat' (first | (simp (maxDischargeDepth := 60) [hI]; done) | (simp (maxDischargeDepth := 60) (contextual := true) [hI]; done) | split |
    (refine foldl_inv ?_ _ _ ?_; intro _ _ hI))

theorem State.lkHold_res {s t : State} {f : Nat} {rows : List Nat} {wr : Bool} (hI : s.Inv) (h : s.lkHold f rows wr = some t) :
    ResInv (.next t) := by
  unfold State.lkHold at h
  dsimp only at h
  split at h
  · simp at h
  · split at h
    · obtain rfl := Option.some.inj h
      refine State.agenda_inv _ _ ?_
      split
      · refine foldl_snd_inv ?_ _ _ hI
        exact fun r x h => State.ride_inv _ _ _ _ _ h
      · exact hI
    · split at h
      · obtain rfl := Option.some.inj h
        exact State.again_inv _ _ hI
      · simp at h

@[simp] theorem State.updLink_inv (s : State) (id : Nat) (f : LCmd → LCmd) (hI : s.Inv) : (State.updLink s id f).Inv := by
  unfold State.updLink
  simp (maxDischargeDepth := 60) [hI]

@[simp] theorem State.kickLinks_inv (s : State) (hI : s.Inv) : (State.kickLinks s).Inv := by
  unfold State.kickLinks
  try dsimp only
  repeat' (first | (simp (maxDischargeDepth := 60) [hI]; done) | (simp (maxDischargeDepth := 60) (contextual := true) [hI]; done) | split |
    (refine foldl_inv ?_ _ _ ?_; intro _ _ hI))

@[simp] theorem State.finishLink_inv (s : State) (c : LCmd) (code : Nat) (hI : s.Inv) : (State.finishLink s c code).Inv := by
  unfold State.finishLink
  simp (maxDischargeDepth := 60) [hI]

@[simp] theorem State.endLink_inv (s : State) (c : LCmd) (st code : Nat) (hI : s.Inv) : (State.endLink s c st code).Inv := by
  unfold State.endLink
  try dsimp only
  repeat' (first | (simp (maxDischargeDepth := 60) [hI]; done) | (simp (maxDischargeDepth := 60) (contextual := true) [hI]; done) | split |
    (refine foldl_inv ?_ _ _ ?_; intro _ _ hI))

@[simp] theorem State.updStream_inv (s : State) (x : Stream) (f : Stream → Stream) (hI : s.Inv) : (State.updStream s x f).Inv := by
  unfold State.updStream
  simp (maxDischargeDepth := 60) [hI]

@[simp] theorem State.fill_inv (s : State) (c : LCmd) (x : Stream) (hI : s.Inv) : (State.fill s c x).Inv := by
  unfold State.fill
  try dsimp only
  repeat' (first | (simp (maxDischargeDepth := 60) [hI]; done) | (simp (maxDischargeDepth := 60) (contextual := true) [hI]; done) | split |
    (refine foldl_inv ?_ _ _ ?_; intro _ _ hI))

@[simp] theorem State.kickRelay_inv (s : State) (id : Nat) (hI : s.Inv) : (State.kickRelay s id).Inv := by
  unfold State.kickRelay
  repeat' (first | (simp (maxDischargeDepth := 60) [hI]; done) | split)

@[simp] theorem State.dropStreams_inv (s : State) (c : LCmd) (cut : Bool) (hI : s.Inv) : (State.dropStreams s c cut).Inv := by
  unfold State.dropStreams
  simp (maxDischargeDepth := 60) [hI]

@[simp] theorem State.chargeDropped_inv (s : State) (c : LCmd) (hI : s.Inv) : (State.chargeDropped s c).Inv := by
  unfold State.chargeDropped
  repeat' (first | (simp (maxDischargeDepth := 60) [hI]; done) | split)

@[simp] theorem State.stopLink_inv (s : State) (c : LCmd) (gone : Option Stream) (st code : Nat) (hI : s.Inv) : (State.stopLink s c gone st code).Inv := by
  unfold State.stopLink
  extract_lets live s1 s2 s3 s4 s5
  have h1 : s1.Inv := by
    dsimp only [s1]
    split
    · exact foldl_inv (fun _ _ h => by simp [h]) _ _ hI
    · exact hI
  have h2 : s2.Inv := by dsimp only [s2]; split <;> simp [h1]
  have h3 : s3.Inv := by dsimp only [s3]; split <;> simp [h2]
  have h4 : s4.Inv := by simp [s4, h3]
  have h5 : s5.Inv := by dsimp only [s5]; split <;> simp [h4]
  exact State.endLink_inv _ _ _ _ h5

@[simp] theorem State.endRelay_inv (s : State) (c : LCmd) (hI : s.Inv) : (State.endRelay s c).Inv := by
  unfold State.endRelay
  try dsimp only
  repeat' (first | (simp (maxDischargeDepth := 60) [hI]; done) | (simp (maxDischargeDepth := 60) (contextual := true) [hI]; done) | split |
    (refine foldl_inv ?_ _ _ ?_; intro _ _ hI))

@[simp] theorem execRelayPlaneSend_inv (s : State) (hI : s.Inv) : ResInv (execRelayPlaneSend s) := by
  unfold execRelayPlaneSend
  try dsimp only
  repeat' (first | (simp (maxDischargeDepth := 60) [hI]; done) | (simp (maxDischargeDepth := 60) (contextual := true) [hI]; done) | split |
    (exact State.lkHold_res hI ‹_›) | (refine foldl_inv ?_ _ _ ?_; intro _ _ hI))

@[simp] theorem execPlaneSent_inv (s : State) (hI : s.Inv) : ResInv (execPlaneSent s) := by
  unfold execPlaneSent
  try dsimp only
  repeat' (first | (simp (maxDischargeDepth := 60) [hI]; done) | (simp (maxDischargeDepth := 60) (contextual := true) [hI]; done) | split |
    (exact State.lkHold_res hI ‹_›) | (refine foldl_inv ?_ _ _ ?_; intro _ _ hI))

@[simp] theorem State.refuseHeader_inv (s : State) (x : Stream) (hI : s.Inv) : (State.refuseHeader s x).Inv := by
  unfold State.refuseHeader
  try dsimp only
  repeat' (first | (simp (maxDischargeDepth := 60) [hI]; done) | (simp (maxDischargeDepth := 60) (contextual := true) [hI]; done) | split |
    (refine foldl_inv ?_ _ _ ?_; intro _ _ hI))

@[simp] theorem State.landPlane_inv (s : State) (c : LCmd) (x : Stream) (p : Nat) (l : List Row) (hI : s.Inv) : (State.landPlane s c x p l).Inv := by
  unfold State.landPlane
  try dsimp only
  repeat' (first | (simp (maxDischargeDepth := 60) [hI]; done) | (simp (maxDischargeDepth := 60) (contextual := true) [hI]; done) | split |
    (refine foldl_inv ?_ _ _ ?_; intro _ _ hI))

@[simp] theorem State.acceptHeader_inv (s : State) (c : LCmd) (x : Stream) (hI : s.Inv) : (State.acceptHeader s c x).Inv := by
  unfold State.acceptHeader
  extract_lets s1 s2 s3
  have h1 : s1.Inv := by
    have h0 : (s.charge (4 * ajHop)).Inv := State.charge_inv _ _ hI
    exact h0
  clear_value s1
  have h2 : s2.Inv := by
    dsimp only [s2]
    split
    · simp [h1]
    · apply State.kickRelay_inv
      split <;> simp [h1]
  clear_value s2
  have h3 : s3.Inv := by
    dsimp only [s3]
    refine foldl_inv ?_ _ _ h2
    intro s p h
    split <;> simp [h]
  clear_value s3
  split
  · split
    · simp [h3]
    · split <;> simp [h3]
  · exact h3

@[simp] theorem execTileHeaderArrival_inv (s : State) (hI : s.Inv) : ResInv (execTileHeaderArrival s) := by
  unfold execTileHeaderArrival
  try dsimp only
  repeat' (first | (simp (maxDischargeDepth := 60) [hI]; done) | (simp (maxDischargeDepth := 60) (contextual := true) [hI]; done) | split |
    (exact State.lkHold_res hI ‹_›) | (refine foldl_inv ?_ _ _ ?_; intro _ _ hI))

@[simp] theorem State.discardPlane_inv (s : State) (x : Stream) (l : List Row) (hI : s.Inv) : (State.discardPlane s x l).Inv := by
  unfold State.discardPlane
  try dsimp only
  repeat' (first | (simp (maxDischargeDepth := 60) [hI]; done) | (simp (maxDischargeDepth := 60) (contextual := true) [hI]; done) | split |
    (refine foldl_inv ?_ _ _ ?_; intro _ _ hI))

@[simp] theorem execPlaneLanded_inv (s : State) (hI : s.Inv) : ResInv (execPlaneLanded s) := by
  unfold execPlaneLanded
  try dsimp only
  repeat' (first | (simp (maxDischargeDepth := 60) [hI]; done) | (simp (maxDischargeDepth := 60) (contextual := true) [hI]; done) | split |
    (exact State.lkHold_res hI ‹_›) | (refine foldl_inv ?_ _ _ ?_; intro _ _ hI))

@[simp] theorem execCancelMessage_inv (s : State) (hI : s.Inv) : ResInv (execCancelMessage s) := by
  unfold execCancelMessage
  repeat' (first | (simp (maxDischargeDepth := 60) [hI]; done) | split)

@[simp] theorem execEndMessage_inv (s : State) (hI : s.Inv) : ResInv (execEndMessage s) := by
  unfold execEndMessage
  repeat' (first | (simp (maxDischargeDepth := 60) [hI]; done) | split)

@[simp] theorem State.postTile_inv (s : State) (id tile : Nat) (hI : s.Inv) : (State.postTile s id tile).Inv := by
  unfold State.postTile
  try dsimp only
  repeat' (first | (simp (maxDischargeDepth := 60) [hI]; done) | (simp (maxDischargeDepth := 60) (contextual := true) [hI]; done) | split |
    (refine foldl_inv ?_ _ _ ?_; intro _ _ hI))

@[simp] theorem State.startNmc_inv (s : State) (c : LCmd) (hI : s.Inv) : (State.startNmc s c).Inv := by
  unfold State.startNmc
  simp (maxDischargeDepth := 60) [hI]

@[simp] theorem State.startLink_inv (s0 : State) (c : LCmd) (hI : s0.Inv) : (State.startLink s0 c).Inv := by
  unfold State.startLink
  repeat' (first | (simp (maxDischargeDepth := 60) [hI]; done) | split)

@[simp] theorem execLinkCommandArrive_inv (s : State) (hI : s.Inv) : ResInv (execLinkCommandArrive s) := by
  unfold execLinkCommandArrive
  try dsimp only
  repeat' (first | (simp (maxDischargeDepth := 60) [hI]; done) | (simp (maxDischargeDepth := 60) (contextual := true) [hI]; done) | split |
    (exact State.lkHold_res hI ‹_›) | (refine foldl_inv ?_ _ _ ?_; intro _ _ hI))

@[simp] theorem State.enqueueLink_inv (s : State) (c : LCmd) (hI : s.Inv) : (State.enqueueLink s c).Inv := by
  unfold State.enqueueLink
  simp (maxDischargeDepth := 60) [hI]

@[simp] theorem execLsend_inv (o : LsendOp) (s : State) (hI : s.Inv) : ResInv (execLsend o s) := by
  unfold execLsend
  simp (maxDischargeDepth := 60) [hI]

@[simp] theorem execLrecv_inv (o : LrecvOp) (s : State) (hI : s.Inv) : ResInv (execLrecv o s) := by
  unfold execLrecv
  simp (maxDischargeDepth := 60) [hI]

@[simp] theorem execLradd_inv (o : LraddOp) (s : State) (hI : s.Inv) : ResInv (execLradd o s) := by
  unfold execLradd
  simp (maxDischargeDepth := 60) [hI]

@[simp] theorem execLcancel_inv (o : LTile) (s : State) (hI : s.Inv) : ResInv (execLcancel o s) := by
  unfold execLcancel
  try dsimp only
  repeat' (first | (simp (maxDischargeDepth := 60) [hI]; done) | (simp (maxDischargeDepth := 60) (contextual := true) [hI]; done) | split |
    (refine foldl_inv ?_ _ _ ?_; intro _ _ hI))

@[simp] theorem execLprec_inv (o : LprecOp) (s : State) (hI : s.Inv) : ResInv (execLprec o s) := by
  unfold execLprec
  simp (maxDischargeDepth := 60) [hI]

@[simp] theorem execLwprec_inv (o : LwprecOp) (s : State) (hI : s.Inv) : ResInv (execLwprec o s) := by
  unfold execLwprec
  repeat' (first | (simp (maxDischargeDepth := 60) [hI]; done) | split)

end Sys2Proof.Machine
end

