-- ==== Sys2Proof/Laws/InvTeam.lean ====
section
/-! SUPPORT. The invariant of the machine is kept by teams and near memory (R5, R12; log 4). -/

namespace Sys2Proof.Machine

set_option linter.unusedSimpArgs false
set_option linter.unusedVariables false
set_option linter.unreachableTactic false
set_option linter.unusedTactic false

@[simp] theorem State.eachOf_inv (s : State) (l : List Nat) (f : State → State) (hI : s.Inv)
    (hf : ∀ s, s.Inv → (f s).Inv) : (State.eachOf s l f).Inv := by
  unfold State.eachOf
  refine State.focus_inv _ _ (foldl_inv ?_ _ _ hI)
  intro s m h
  have h' := State.focus_inv s m h
  refine hf _ (State.updA_inv.mpr ⟨h'.host_wf, h'.dev_canon, h'.evlog_wf, Atoll.settle_canon _ _ h'.a_canon, h'.others_canon, ?_⟩)
  rw [Atoll.settle_n]
  exact h'.numbered

@[simp] theorem State.toFront_inv (s : State) (p : Nat) (l : List Nat) (hI : s.Inv) : (State.toFront s p l).Inv := by
  unfold State.toFront
  try dsimp only
  repeat' (first | (simp (maxDischargeDepth := 60) [hI]; done) | (simp (maxDischargeDepth := 60) (contextual := true) [hI]; done) | split |
    (refine foldl_inv ?_ _ _ ?_; intro _ _ hI))

@[simp] theorem State.tellStopped_inv (s : State) (x : Launch) (hI : s.Inv) : (State.tellStopped s x).Inv := by
  unfold State.tellStopped
  dsimp only
  split
  · exact hI
  · refine foldl_inv ?_ _ _ (by simp [hI])
    intro s g h
    exact foldl_inv (fun s p h => State.toFront_inv _ _ _ h) _ _ h

@[simp] theorem State.xtimeWaiting_inv (s : State) (info : Nat) (hI : s.Inv) : (State.xtimeWaiting s info).Inv := by
  unfold State.xtimeWaiting
  simp (maxDischargeDepth := 60) [hI]

@[simp] theorem execRealign_inv (s : State) (hI : s.Inv) : ResInv (execRealign s) := by
  unfold execRealign
  simp (maxDischargeDepth := 60) [hI]

@[simp] theorem State.realignLoad_inv (s : State) (x : Launch) (v : Word) (hI : s.Inv) : (State.realignLoad s x v).Inv := by
  unfold State.realignLoad
  try dsimp only
  repeat' (first | (simp (maxDischargeDepth := 60) [hI]; done) | (simp (maxDischargeDepth := 60) (contextual := true) [hI]; done) | split |
    (refine foldl_inv (fun _ _ hI => ?_) _ _ ?_) | (refine State.eachOf_inv _ _ _ ?_ (fun _ hI => ?_)))

@[simp] theorem execRealignRelease_inv (s : State) (hI : s.Inv) : ResInv (execRealignRelease s) := by
  unfold execRealignRelease
  try dsimp only
  repeat' (first | (simp (maxDischargeDepth := 60) [hI]; done) | (simp (maxDischargeDepth := 60) (contextual := true) [hI]; done) | split |
    (refine foldl_inv (fun _ _ hI => ?_) _ _ ?_) | (refine State.eachOf_inv _ _ _ ?_ (fun _ hI => ?_)))

@[simp] theorem execDsync_inv (o : DsyncOp) (s : State) (hI : s.Inv) : ResInv (execDsync o s) := by
  unfold execDsync
  simp (maxDischargeDepth := 60) [hI]

@[simp] theorem State.dsyncGo_inv (s : State) (l : Nat) (ms : List Nat) (hI : s.Inv) : (State.dsyncGo s l ms).Inv := by
  unfold State.dsyncGo
  try dsimp only
  repeat' (first | (simp (maxDischargeDepth := 60) [hI]; done) | (simp (maxDischargeDepth := 60) (contextual := true) [hI]; done) | split |
    (refine foldl_inv (fun _ _ hI => ?_) _ _ ?_) | (refine State.eachOf_inv _ _ _ ?_ (fun _ hI => ?_)))

@[simp] theorem State.dsyncLook_inv (s : State) (x : Launch) (l k : Nat) (hI : s.Inv) : (State.dsyncLook s x l k).Inv := by
  unfold State.dsyncLook
  try dsimp only
  repeat' (first | (simp (maxDischargeDepth := 60) [hI]; done) | (simp (maxDischargeDepth := 60) (contextual := true) [hI]; done) | split |
    (refine foldl_inv (fun _ _ hI => ?_) _ _ ?_) | (refine State.eachOf_inv _ _ _ ?_ (fun _ hI => ?_)))

@[simp] theorem execDsyncRelease_inv (s : State) (hI : s.Inv) : ResInv (execDsyncRelease s) := by
  unfold execDsyncRelease
  try dsimp only
  repeat' (first | (simp (maxDischargeDepth := 60) [hI]; done) | (simp (maxDischargeDepth := 60) (contextual := true) [hI]; done) | split |
    (refine foldl_inv (fun _ _ hI => ?_) _ _ ?_) | (refine State.eachOf_inv _ _ _ ?_ (fun _ hI => ?_)))

@[simp] theorem execXsend_inv (o : XsendOp) (s : State) (hI : s.Inv) : ResInv (execXsend o s) := by
  unfold execXsend
  simp (maxDischargeDepth := 60) [hI]

@[simp] theorem State.exchangeFreed_inv (s : State) (hI : s.Inv) : (State.exchangeFreed s).Inv := by
  unfold State.exchangeFreed
  simp (maxDischargeDepth := 60) [hI]

@[simp] theorem execXsendDepart_inv (s : State) (hI : s.Inv) : ResInv (execXsendDepart s) := by
  unfold execXsendDepart
  repeat' (first | (simp (maxDischargeDepth := 60) [hI]; done) | split)

@[simp] theorem execXrecv_inv (o : XrecvOp) (s : State) (hI : s.Inv) : ResInv (execXrecv o s) := by
  unfold execXrecv
  simp (maxDischargeDepth := 60) [hI]

@[simp] theorem State.exchangeFault_inv (s : State) (code : Nat) (k : XKey) (hI : s.Inv) : (State.exchangeFault s code k).Inv := by
  unfold State.exchangeFault
  repeat' (first | (simp (maxDischargeDepth := 60) [hI]; done) | split)

@[simp] theorem execXrecvArrival_inv (s : State) (hI : s.Inv) : ResInv (execXrecvArrival s) := by
  unfold execXrecvArrival
  try dsimp only
  repeat' (first | (simp (maxDischargeDepth := 60) [hI]; done) | (simp (maxDischargeDepth := 60) (contextual := true) [hI]; done) | split |
    (exact State.lkHold_res hI ‹_›) | (refine foldl_inv ?_ _ _ ?_; intro _ _ hI))

@[simp] theorem execExchangeReceiveTimeout_inv (s : State) (hI : s.Inv) : ResInv (execExchangeReceiveTimeout s) := by
  unfold execExchangeReceiveTimeout
  repeat' (first | (simp (maxDischargeDepth := 60) [hI]; done) | split)

@[simp] theorem execNmc_inv (o : NmcOp) (s : State) (hI : s.Inv) : ResInv (execNmc o s) := by
  unfold execNmc
  simp (maxDischargeDepth := 60) [hI]

@[simp] theorem execNmcReefCheck_inv (s : State) (hI : s.Inv) : ResInv (execNmcReefCheck s) := by
  unfold execNmcReefCheck
  repeat' (first | (simp (maxDischargeDepth := 60) [hI]; done) | split)

@[simp] theorem execNmcRowUpdate_inv (s : State) (hI : s.Inv) : ResInv (execNmcRowUpdate s) := by
  unfold execNmcRowUpdate
  try dsimp only
  repeat' (first | (simp (maxDischargeDepth := 60) [hI]; done) | (simp (maxDischargeDepth := 60) (contextual := true) [hI]; done) | split |
    (refine foldl_inv (fun _ _ hI => ?_) _ _ ?_) | (refine State.eachOf_inv _ _ _ ?_ (fun _ hI => ?_)))

@[simp] theorem State.stopNmc_inv (s : State) (id code : Nat) (hI : s.Inv) : (State.stopNmc s id code).Inv := by
  unfold State.stopNmc
  repeat' (first | (simp (maxDischargeDepth := 60) [hI]; done) | split)

@[simp] theorem execAccessCounterNotify_inv (s : State) (hI : s.Inv) : ResInv (execAccessCounterNotify s) := by
  unfold execAccessCounterNotify
  try dsimp only
  repeat' (first | (simp (maxDischargeDepth := 60) [hI]; done) | (simp (maxDischargeDepth := 60) (contextual := true) [hI]; done) | split |
    (refine foldl_inv (fun _ _ hI => ?_) _ _ ?_) | (refine State.eachOf_inv _ _ _ ?_ (fun _ hI => ?_)))

@[simp] theorem execGraphImageLoad_inv (s : State) (hI : s.Inv) : ResInv (execGraphImageLoad s) := by
  unfold execGraphImageLoad
  try dsimp only
  repeat' (first | (simp (maxDischargeDepth := 60) [hI]; done) | (simp (maxDischargeDepth := 60) (contextual := true) [hI]; done) | split |
    (refine foldl_inv (fun _ _ hI => ?_) _ _ ?_) | (refine State.eachOf_inv _ _ _ ?_ (fun _ hI => ?_)))

end Sys2Proof.Machine
end

