-- ==== Sys2Proof/Laws/InvWindow.lean ====
section
/-! SUPPORT. The invariant of the machine is kept by the debug window and the records of a save area (R5, R12; log 4). -/

namespace Sys2Proof.Machine

set_option linter.unusedSimpArgs false
set_option linter.unusedVariables false
set_option linter.unreachableTactic false
set_option linter.unusedTactic false

@[simp] theorem Atoll.putMatrix_canon (a : Atoll) (i : Nat) (v : Word) (hI : a.Canon) : (Atoll.putMatrix a i v).Canon := by
  unfold Atoll.putMatrix
  repeat' (first | (simp (maxDischargeDepth := 60) [hI]; done) | split)

@[simp] theorem Atoll.putMatrix_n (a : Atoll) (i : Nat) (v : Word) : (Atoll.putMatrix a i v).n = a.n := by
  unfold Atoll.putMatrix
  try dsimp only
  repeat' (first | rfl | (simp; done) | split)

@[simp] theorem Atoll.putCounter_canon (a : Atoll) (i : Nat) (v : Word) (hI : a.Canon) : (Atoll.putCounter a i v).Canon := by
  unfold Atoll.putCounter
  split
  · simp [hI]
  · split
    · rw [Atoll.canon_mk]; exact hI
    · split
      · rw [Atoll.canon_mk]; exact hI
      · exact hI

@[simp] theorem Atoll.putCounter_n (a : Atoll) (i : Nat) (v : Word) : (Atoll.putCounter a i v).n = a.n := by
  unfold Atoll.putCounter
  split
  · rfl
  · split
    · rfl
    · split <;> rfl

@[simp] theorem State.withVals_inv (s : State) (l : List Reg) (v : List Word) (hI : s.Inv) : (State.withVals s l v).Inv := by
  unfold State.withVals
  try dsimp only
  repeat' (first | (simp (maxDischargeDepth := 60) [hI]; done) | (simp (maxDischargeDepth := 60) (contextual := true) [hI]; done) | split |
    (refine foldl_inv (fun _ _ hI => ?_) _ _ ?_) | (refine State.eachOf_inv _ _ _ ?_ (fun _ hI => ?_)))

@[simp] theorem State.putQueue_inv (s : State) (i : Nat) (v : Word) (hI : s.Inv) : (State.putQueue s i v).Inv := by
  unfold State.putQueue
  try dsimp only
  repeat' (first | (simp (maxDischargeDepth := 60) [hI]; done) | (simp (maxDischargeDepth := 60) (contextual := true) [hI]; done) | split |
    (refine foldl_inv (fun _ _ hI => ?_) _ _ ?_) | (refine State.eachOf_inv _ _ _ ?_ (fun _ hI => ?_)))

@[simp] theorem State.unitPut_inv (s : State) (u i : Nat) (v : Word) (hI : s.Inv) : (State.unitPut s u i v).Inv := by
  unfold State.unitPut
  repeat' (first | (simp (maxDischargeDepth := 60) [hI]; done) | split)

/-- Cells of a memory between two others that end below it and begin above it. -/
theorem Dev.putCells_inv (d : Dev) (a n : Nat) (l : Mem) (hI : d.Canon) (hl : Memory.wf l = true) : (Dev.putCells d a n l).Canon := by
  refine ⟨?_, hI.2⟩
  refine SMap.wf_append _ _ (SMap.wf_filter _ _ hI.1) (SMap.wf_append _ _ (SMap.wf_filter _ _ hl) (SMap.wf_filter _ _ hI.1) ?_) ?_
  · intro c hc d hd
    have hc := (List.mem_filter.mp hc).2
    have hd := (List.mem_filter.mp hd).2
    simp only [Bool.and_eq_true, decide_eq_true_eq] at hc hd
    omega
  · intro c hc d hd
    have hc := (List.mem_filter.mp hc).2
    simp only [decide_eq_true_eq] at hc
    rcases List.mem_append.mp hd with hd | hd
    · have hd := (List.mem_filter.mp hd).2
      simp only [Bool.and_eq_true, decide_eq_true_eq] at hd
      omega
    · have hd := (List.mem_filter.mp hd).2
      simp only [decide_eq_true_eq] at hd
      omega

/-- A canonical memory that lies in a window. -/
def Within (a b : Nat) (m : Mem) : Prop := Memory.wf m = true ∧ ∀ c ∈ m, a ≤ c.1 ∧ c.1 < b

theorem Within.append {a b c : Nat} {x y : Mem} (hx : Within a b x) (hy : Within b c y) (hab : a ≤ b) (hbc : b ≤ c) :
    Within a c (x ++ y) := by
  refine ⟨SMap.wf_append _ _ hx.1 hy.1 fun p hp q hq => ?_, fun p hp => ?_⟩
  · have := hx.2 p hp
    have := hy.2 q hq
    omega
  · rcases List.mem_append.mp hp with hp | hp
    · have := hx.2 p hp; omega
    · have := hy.2 p hp; omega

theorem Within.mono {a b a' b' : Nat} {x : Mem} (hx : Within a b x) (ha : a' ≤ a) (hb : b ≤ b') : Within a' b' x :=
  ⟨hx.1, fun c hc => ⟨ha.trans (hx.2 c hc).1, (hx.2 c hc).2.trans_le hb⟩⟩

theorem wordCells_within (l : List Word) : ∀ a, Within a (a + 8 * l.length) (wordCells a l) := by
  induction l with
  | nil => intro a; exact ⟨rfl, by simp [wordCells]⟩
  | cons w r ih =>
    intro a
    simp only [wordCells, List.length_cons]
    have h1 : Within a (a + 8) (cellsOf 8 a w.toNat) := cellsOf_wf 8 a w.toNat
    exact (h1.append (ih (a + 8)) (by omega) (by omega)).mono (by omega) (by omega)

theorem shifted_wf (k : Nat) {m : Mem} (h : Memory.wf m = true) : Memory.wf (m.map fun c => (k + c.1, c.2)) = true := by
  unfold Memory.wf at *
  rw [SMap.wf_iff] at *
  refine ⟨List.pairwise_map.mpr (h.1.imp fun h => by simpa using h), fun c hc => ?_⟩
  obtain ⟨d, hd, rfl⟩ := List.mem_map.mp hc
  exact h.2 d hd

theorem State.furtherWords_length (s : State) : s.furtherWords.length = 4112 := by
  simp only [State.furtherWords, tileSet, List.length_append, List.length_cons, List.length_nil, List.length_map, List.length_flatMap,
    List.length_range, List.length_replicate, List.map_const', List.sum_replicate]
  decide

/-- Parts that follow one another from lo up to hi. -/
def PartsIn : Nat → Nat → List (Nat × Nat × Nat) → Prop
  | lo, hi, [] => lo ≤ hi
  | lo, hi, p :: r => lo ≤ p.1 ∧ PartsIn (p.1 + 8 * p.2.2) hi r

theorem PartsIn.le : ∀ {l : List (Nat × Nat × Nat)} {lo hi : Nat}, PartsIn lo hi l → lo ≤ hi
  | [], _, _, h => h
  | _ :: _, _, _, h => (h.1.trans (Nat.le_add_right _ _)).trans (PartsIn.le h.2)

theorem parts_within (s : State) (a : Nat) : ∀ (l : List (Nat × Nat × Nat)) (lo hi : Nat), PartsIn lo hi l →
    Within (a + lo) (a + hi) (l.flatMap fun p => wordCells (a + p.1) ((List.range p.2.2).map fun i => s.unitWord p.2.1 i true))
  | [], lo, hi, h => ⟨rfl, by simp⟩
  | p :: r, lo, hi, h => by
    have h0 := wordCells_within ((List.range p.2.2).map fun i => s.unitWord p.2.1 i true) (a + p.1)
    rw [List.length_map, List.length_range] at h0
    rw [List.flatMap_cons]
    have h1 := h.1
    have h2 := h.2.le
    rw [Nat.add_assoc] at h0
    exact (h0.mono (Nat.add_le_add_left h1 a) (Nat.le_refl _)).append (parts_within s a r _ hi h.2) (by omega) (by omega)

theorem recordParts_in : PartsIn 0 (368 * kib) recordParts := by
  simp only [PartsIn, recordParts]
  decide

theorem State.recordCells_wf {s : State} {a : Nat} (h : Memory.wf s.a.sp = true) : Memory.wf (s.recordCells a) = true := by
  have Q := parts_within s a _ _ _ recordParts_in
  have F := wordCells_within s.furtherWords (a + 368 * kib)
  rw [s.furtherWords_length, Nat.add_assoc] at F
  have k1 : 368 * kib + 8 * 4112 ≤ 704 * kib := by decide
  unfold State.recordCells
  generalize 368 * kib = x at *
  generalize 704 * kib = y at *
  have QF := Q.append F (Nat.add_le_add_left (Nat.zero_le _) a) (by omega)
  refine SMap.wf_append _ _ QF.1 (shifted_wf _ h) fun c hc d hd => ?_
  have h1 := QF.2 c hc
  obtain ⟨e, _, rfl⟩ := List.mem_map.mp hd
  have := h1.2
  dsimp only
  omega

@[simp] theorem Dev.putHeader_inv (d : Dev) (save rung pcount : Nat) (rect : Word) (recs : List Nat) (hI : d.Canon) :
    (Dev.putHeader d save rung pcount rect recs).Canon :=
  Dev.putCells_inv _ _ _ _ hI (wordCells_within _ _).1

@[simp] theorem Dev.resign_inv (d : Dev) (save : Nat) (recs : List Nat) (hI : d.Canon) : (Dev.resign d save recs).Canon := by
  unfold Dev.resign
  simp (maxDischargeDepth := 60) [hI]

theorem unshifted_wf (k b : Nat) {m : Mem} (h : Memory.wf m = true) :
    Memory.wf ((Mem.window m k b).map fun c => (c.1 - k, c.2)) = true := by
  have hw : SMap.wf (Mem.window m k b) = true := SMap.wf_filter _ _ h
  unfold Memory.wf at *
  rw [SMap.wf_iff] at *
  have hk : ∀ c ∈ Mem.window m k b, k ≤ c.1 := fun c hc => by
    have := (List.mem_filter.mp hc).2
    simp only [Bool.and_eq_true, decide_eq_true_eq] at this
    exact this.1
  refine ⟨List.pairwise_map.mpr (hw.1.imp_of_mem fun ha hb h => ?_), fun c hc => ?_⟩
  · have := hk _ ha
    have := hk _ hb
    dsimp only
    omega
  · obtain ⟨d, hd, rfl⟩ := List.mem_map.mp hc
    exact hw.2 d hd

theorem reload_inv {s : State} {sp : Mem} {refuse : List Nat} {held : List Stream} {st : Strand} (h : s.Inv) (hs : SMap.wf sp = true) :
    (s.updA fun x => { x with sp := sp, refuse := refuse, held := held, st := st }).Inv :=
  ⟨h.host_wf, h.dev_canon, h.evlog_wf, ⟨hs, h.a_canon.2⟩, h.others_canon, h.numbered⟩

theorem updA_congr {s : State} {f g : Atoll → Atoll} (h : f s.a = g s.a) : s.updA f = s.updA g := by
  unfold State.updA
  rw [h]

@[simp] theorem State.readRecord_inv (s : State) (a : Nat) (hI : s.Inv) : (State.readRecord s a).Inv := by
  unfold State.readRecord
  extract_lets d part f tiles s1
  have hp : ∀ s p, s.Inv → (part s p).Inv := fun s p h => foldl_inv (fun _ _ h => State.unitPut_inv _ _ _ _ h) _ _ h
  clear_value part
  have h1 : s1.Inv := foldl_inv hp _ _ (hp _ _ hI)
  clear_value s1
  have hs := unshifted_wf (a + 704 * kib) (6144 * kib) hI.dev_canon.mem_wf
  have e : s1.updA _ = s1.updA _ := updA_congr (f := fun x : Atoll =>
    { x with sp := (Mem.window d.mem (a + 704 * kib) (6144 * kib)).map fun c => (c.1 - (a + 704 * kib), c.2)
             refuse := tiles 2
             held := (tiles 6).map fun t =>
               { tile := t, src := x.n, stile := 0, p := 0, planes := [], ended := false, refused := false
                 hdr := BitVec.ofNat 1024 (joinNats 64 ((List.range 16).map fun w => (f (16 + 16 * t + w)).toNat)) }
             st := { x.st with xfault := if (f 10).getLsbD 0 then some (0x87 + fld (f 10) 8 24 * 2 ^ 8) else none, xlost := none } })
    (g := fun x => { x with sp := _, refuse := _, held := _, st := _ }) rfl
  rw [e]
  exact reload_inv h1 hs

@[simp] theorem State.readQueues_inv (s : State) (a id : Nat) (hI : s.Inv) : (State.readQueues s a id).Inv := by
  unfold State.readQueues
  simp (maxDischargeDepth := 60) [hI]

end Sys2Proof.Machine
end

