-- ==== Sys2Proof/Laws/InvFront.lean ====
section
/-! SUPPORT. The invariant of the machine is kept by the front end (R5, R12; log 4). -/

namespace Sys2Proof.Machine

set_option linter.unusedSimpArgs false
set_option linter.unusedVariables false
set_option linter.unreachableTactic false
set_option linter.unusedTactic false

@[simp] theorem State.updQueue_inv (s : State) (q : Nat) (f : Queue → Queue) (hI : s.Inv) : (State.updQueue s q f).Inv := by
  unfold State.updQueue
  simp (maxDischargeDepth := 60) [hI]

@[simp] theorem State.dropBlocker_inv (s : State) (q : Nat) (hI : s.Inv) : (State.dropBlocker s q).Inv := by
  unfold State.dropBlocker
  repeat' (first | (simp (maxDischargeDepth := 60) [hI]; done) | split)

@[simp] theorem State.setQState_inv (s : State) (q st : Nat) (hI : s.Inv) : (State.setQState s q st).Inv := by
  unfold State.setQState
  repeat' (first | (simp (maxDischargeDepth := 60) [hI]; done) | split)

@[simp] theorem State.strandQsw_inv (s : State) (x : Launch) (lo n v : Nat) (hI : s.Inv) : (State.strandQsw s x lo n v).Inv := by
  unfold State.strandQsw
  try dsimp only
  repeat' (first | (simp (maxDischargeDepth := 60) [hI]; done) | (simp (maxDischargeDepth := 60) (contextual := true) [hI]; done) | split |
    (refine foldl_inv ?_ _ _ ?_; intro _ _ hI))

@[simp] theorem State.setQsw_inv (s : State) (q lo n v : Nat) (hI : s.Inv) : (State.setQsw s q lo n v).Inv := by
  unfold State.setQsw
  try dsimp only
  repeat' (first | (simp (maxDischargeDepth := 60) [hI]; done) | (simp (maxDischargeDepth := 60) (contextual := true) [hI]; done) | split |
    (refine foldl_inv ?_ _ _ ?_; intro _ _ hI))

@[simp] theorem State.setRung_inv (s : State) (q n : Nat) (hI : s.Inv) : (State.setRung s q n).Inv := by
  unfold State.setRung
  simp (maxDischargeDepth := 60) [hI]

@[simp] theorem State.setReason_inv (s : State) (q n : Nat) (hI : s.Inv) : (State.setReason s q n).Inv := by
  unfold State.setReason
  simp (maxDischargeDepth := 60) [hI]

@[simp] theorem State.setPcount_inv (s : State) (q n : Nat) (hI : s.Inv) : (State.setPcount s q n).Inv := by
  unfold State.setPcount
  simp (maxDischargeDepth := 60) [hI]

@[simp] theorem State.updLaunch_inv (s : State) (id : Nat) (f : Launch → Launch) (hI : s.Inv) : (State.updLaunch s id f).Inv := by
  unfold State.updLaunch
  simp (maxDischargeDepth := 60) [hI]

@[simp] theorem State.pump_inv (s : State) (q : Nat) (hI : s.Inv) : (State.pump s q).Inv := by
  unfold State.pump
  try dsimp only
  repeat' (first | (simp (maxDischargeDepth := 60) [hI]; done) | (simp (maxDischargeDepth := 60) (contextual := true) [hI]; done) | split |
    (refine foldl_inv (fun _ _ hI => ?_) _ _ ?_) | (refine State.eachOf_inv _ _ _ ?_ (fun _ hI => ?_)))

theorem setWords_wf {a : Nat} : ∀ (l : List (Word × Nat)) (m : Mem), Memory.wf m = true →
    Memory.wf (l.foldl (fun m x => Mem.setWord m (a + 8 * x.2) x.1) m) = true
  | [], _, h => h
  | x :: r, m, h => setWords_wf r _ (Mem.wf_setWord m _ _ h)

@[simp] theorem State.hostWords_inv (s : State) (a : Nat) (l : List Word) (hI : s.Inv) : (State.hostWords s a l).Inv :=
  State.inv_mk.mpr ⟨setWords_wf _ _ hI.host_wf, hI.2⟩

@[simp] theorem State.writeEntry_inv (s : State) (q : Nat) (w : List Word) (hI : s.Inv) : (State.writeEntry s q w).Inv := by
  unfold State.writeEntry
  simp (maxDischargeDepth := 60) [hI]

@[simp] theorem State.complete_inv (s : State) (q : Nat) (w : List Word) (hI : s.Inv) : (State.complete s q w).Inv := by
  unfold State.complete
  try dsimp only
  repeat' (first | (simp (maxDischargeDepth := 60) [hI]; done) | (simp (maxDischargeDepth := 60) (contextual := true) [hI]; done) | split |
    (refine foldl_inv (fun _ _ hI => ?_) _ _ ?_) | (refine State.eachOf_inv _ _ _ ?_ (fun _ hI => ?_)))

@[simp] theorem State.endPacket_inv (s : State) (q tag status : Nat) (hI : s.Inv) : (State.endPacket s q tag status).Inv := by
  unfold State.endPacket
  simp (maxDischargeDepth := 60) [hI]

@[simp] theorem State.writeMeters_inv (s : State) (x : Launch) (hI : s.Inv) : (State.writeMeters s x).Inv := by
  unfold State.writeMeters
  try dsimp only
  repeat' (first | (simp (maxDischargeDepth := 60) [hI]; done) | (simp (maxDischargeDepth := 60) (contextual := true) [hI]; done) | split |
    (refine foldl_inv (fun _ _ hI => ?_) _ _ ?_) | (refine State.eachOf_inv _ _ _ ?_ (fun _ hI => ?_)))

@[simp] theorem State.kickScheduler_inv (s : State) (hI : s.Inv) : (State.kickScheduler s).Inv := by
  unfold State.kickScheduler
  repeat' (first | (simp (maxDischargeDepth := 60) [hI]; done) | split)

@[simp] theorem State.leave_inv (s : State) (x : Launch) (status st : Nat) (hI : s.Inv) : (State.leave s x status st).Inv := by
  unfold State.leave
  simp (maxDischargeDepth := 60) [hI]

@[simp] theorem State.lookDeps_inv (s : State) (x : Launch) (hI : s.Inv) : (State.lookDeps s x).Inv := by
  unfold State.lookDeps
  try dsimp only
  repeat' (first | (simp (maxDischargeDepth := 60) [hI]; done) | (simp (maxDischargeDepth := 60) (contextual := true) [hI]; done) | split |
    (refine foldl_inv (fun _ _ hI => ?_) _ _ ?_) | (refine State.eachOf_inv _ _ _ ?_ (fun _ hI => ?_)))

@[simp] theorem State.lookAll_inv (s : State) (hI : s.Inv) : (State.lookAll s).Inv := by
  unfold State.lookAll
  try dsimp only
  repeat' (first | (simp (maxDischargeDepth := 60) [hI]; done) | (simp (maxDischargeDepth := 60) (contextual := true) [hI]; done) | split |
    (refine foldl_inv (fun _ _ hI => ?_) _ _ ?_) | (refine State.eachOf_inv _ _ _ ?_ (fun _ hI => ?_)))

@[simp] theorem State.endLaunch_inv (s : State) (x : Launch) (status st : Nat) (hI : s.Inv) : (State.endLaunch s x status st).Inv := by
  unfold State.endLaunch
  simp (maxDischargeDepth := 60) [hI]

@[simp] theorem Atoll.init_canon (n : Nat) : (Atoll.init n).Canon := by simp [Atoll.init]

@[simp] theorem Atoll.clear_canon (now mv : Nat) (a : Atoll) : (Atoll.clear now mv a).Canon := by
  unfold Atoll.clear
  rw [Atoll.canon_mk]
  exact Atoll.init_canon a.n

@[simp] theorem Atoll.clear_n (now mv : Nat) (a : Atoll) : (Atoll.clear now mv a).n = a.n := rfl

@[simp] theorem State.freeChannels_inv (s : State) (slot : Nat) (hI : s.Inv) : (State.freeChannels s slot).Inv := by
  unfold State.freeChannels
  simp (maxDischargeDepth := 60) [hI]

@[simp] theorem State.releaseLaunch_inv (s : State) (x : Launch) (hI : s.Inv) : (State.releaseLaunch s x).Inv := by
  unfold State.releaseLaunch
  split
  · exact hI
  · dsimp only
    repeat' (first | (simp (maxDischargeDepth := 60) [hI]; done) | (refine foldl_inv (fun s k hI => ?_) _ _ ?_) | split |
      exact State.updAtoll_inv _ _ _ hI (fun _ _ => Atoll.clear_canon _ _ _) (fun _ => Atoll.clear_n _ _ _))

@[simp] theorem State.firstLook_inv (s : State) (x : Launch) (hI : s.Inv) : (State.firstLook s x).Inv := by
  unfold State.firstLook
  try dsimp only
  repeat' (first | (simp (maxDischargeDepth := 60) [hI]; done) | (simp (maxDischargeDepth := 60) (contextual := true) [hI]; done) | split |
    (refine foldl_inv ?_ _ _ ?_; intro _ _ hI))

end Sys2Proof.Machine
end

