-- ==== Sys2Proof/Laws/InvLaunch.lean ====
section
/-! SUPPORT. The invariant of the machine is kept by launches (R5, R12; log 4). -/

namespace Sys2Proof.Machine

set_option linter.unusedSimpArgs false
set_option linter.unusedVariables false
set_option linter.unreachableTactic false
set_option linter.unusedTactic false

@[simp] theorem State.report_inv (s : State) (x : Launch) (kind : Nat) (l : List Nat) (hI : s.Inv) : (State.report s x kind l).Inv := by
  unfold State.report
  repeat' (first | (simp (maxDischargeDepth := 60) [hI]; done) | split)

@[simp] theorem State.order_inv (s : State) (x : Launch) (p kind : Nat) (l : List Nat) (hI : s.Inv) : (State.order s x p kind l).Inv := by
  unfold State.order
  simp (maxDischargeDepth := 60) [hI]

@[simp] theorem State.orderAll_inv (s : State) (x : Launch) (kind : Nat) (l : List Nat) (hI : s.Inv) : (State.orderAll s x kind l).Inv := by
  unfold State.orderAll
  try dsimp only
  repeat' (first | (simp (maxDischargeDepth := 60) [hI]; done) | (simp (maxDischargeDepth := 60) (contextual := true) [hI]; done) | split |
    (refine foldl_inv (fun _ _ hI => ?_) _ _ ?_) | (refine State.eachOf_inv _ _ _ ?_ (fun _ hI => ?_)))

@[simp] theorem Launch.atollStart_canon (x : Launch) (s : State) (a : Atoll) (hI : a.Canon) : (Launch.atollStart x s a).Canon := by
  unfold Launch.atollStart
  simp (maxDischargeDepth := 60) [hI]

@[simp] theorem Launch.atollStart_n (x : Launch) (s : State) (a : Atoll) : (Launch.atollStart x s a).n = a.n := by
  unfold Launch.atollStart
  try dsimp only
  repeat' (first | rfl | (simp; done) | split)

@[simp] theorem State.loadRow_inv (s : State) (x : Launch) (w : Word) (row : Nat) (v : Row) (hI : s.Inv) : (State.loadRow s x w row v).Inv := by
  unfold State.loadRow
  try dsimp only
  repeat' (first | (simp (maxDischargeDepth := 60) [hI]; done) | (simp (maxDischargeDepth := 60) (contextual := true) [hI]; done) | split |
    (refine foldl_inv (fun _ _ hI => ?_) _ _ ?_) | (refine State.eachOf_inv _ _ _ ?_ (fun _ hI => ?_)))

@[simp] theorem State.loadReg_inv (s : State) (x : Launch) (w v : Word) (hI : s.Inv) : (State.loadReg s x w v).Inv := by
  unfold State.loadReg
  try dsimp only
  repeat' (first | (simp (maxDischargeDepth := 60) [hI]; done) | (simp (maxDischargeDepth := 60) (contextual := true) [hI]; done) | split |
    (refine foldl_inv (fun _ _ hI => ?_) _ _ ?_) | (refine State.eachOf_inv _ _ _ ?_ (fun _ hI => ?_)))

@[simp] theorem State.loadScript_inv (s : State) (x : Launch) (c start : Nat) (l : List Word) (hI : s.Inv) : (State.loadScript s x c start l).Inv := by
  unfold State.loadScript
  try dsimp only
  repeat' (first | (simp (maxDischargeDepth := 60) [hI]; done) | (simp (maxDischargeDepth := 60) (contextual := true) [hI]; done) | split |
    (refine foldl_inv (fun _ _ hI => ?_) _ _ ?_) | (refine State.eachOf_inv _ _ _ ?_ (fun _ hI => ?_)))

@[simp] theorem State.startAtolls_inv (s : State) (x : Launch) (hI : s.Inv) : (State.startAtolls s x).Inv := by
  unfold State.startAtolls
  try dsimp only
  repeat' (first | (simp (maxDischargeDepth := 60) [hI]; done) | (simp (maxDischargeDepth := 60) (contextual := true) [hI]; done) | split |
    (refine foldl_inv (fun _ _ hI => ?_) _ _ ?_) | (refine State.eachOf_inv _ _ _ ?_ (fun _ hI => ?_)))

@[simp] theorem State.loadTables_inv (s : State) (x : Launch) (hI : s.Inv) : (State.loadTables s x).Inv := by
  unfold State.loadTables
  try dsimp only
  repeat' (first | (simp (maxDischargeDepth := 60) [hI]; done) | (simp (maxDischargeDepth := 60) (contextual := true) [hI]; done) | split |
    (refine foldl_inv (fun _ _ hI => ?_) _ _ ?_) | (refine State.eachOf_inv _ _ _ ?_ (fun _ hI => ?_)))

@[simp] theorem State.loadScripts_inv (s : State) (x : Launch) (hI : s.Inv) : (State.loadScripts s x).Inv := by
  unfold State.loadScripts
  try dsimp only
  repeat' (first | (simp (maxDischargeDepth := 60) [hI]; done) | (simp (maxDischargeDepth := 60) (contextual := true) [hI]; done) | split |
    (refine foldl_inv (fun _ _ hI => ?_) _ _ ?_) | (refine State.eachOf_inv _ _ _ ?_ (fun _ hI => ?_)))

@[simp] theorem State.runTeam_inv (s : State) (x : Launch) (hI : s.Inv) : (State.runTeam s x).Inv := by
  unfold State.runTeam
  try dsimp only
  repeat' (first | (simp (maxDischargeDepth := 60) [hI]; done) | (simp (maxDischargeDepth := 60) (contextual := true) [hI]; done) | split |
    (refine foldl_inv (fun _ _ hI => ?_) _ _ ?_) | (refine State.eachOf_inv _ _ _ ?_ (fun _ hI => ?_)))

@[simp] theorem State.setRunning_inv (s : State) (x : Launch) (hI : s.Inv) : (State.setRunning s x).Inv := by
  unfold State.setRunning
  try dsimp only
  repeat' (first | (simp (maxDischargeDepth := 60) [hI]; done) | (simp (maxDischargeDepth := 60) (contextual := true) [hI]; done) | split |
    (refine foldl_inv (fun _ _ hI => ?_) _ _ ?_) | (refine State.eachOf_inv _ _ _ ?_ (fun _ hI => ?_)))

@[simp] theorem Atoll.rejoin_canon (k a : Atoll) (hI : a.Canon) : (Atoll.rejoin k a).Canon := by
  unfold Atoll.rejoin
  extract_lets h
  rw [Atoll.canon_mk]
  exact hI
@[simp] theorem Atoll.rejoin_n (k a : Atoll) : (Atoll.rejoin k a).n = a.n := rfl

@[simp] theorem Atoll.imported_canon (a : Atoll) (hI : a.Canon) : (Atoll.imported a).Canon := by
  unfold Atoll.imported
  simp (maxDischargeDepth := 60) [hI]

@[simp] theorem Atoll.imported_n (a : Atoll) : (Atoll.imported a).n = a.n := by
  unfold Atoll.imported
  try dsimp only
  repeat' (first | rfl | (simp; done) | split)

theorem updSt_free {s : State} {f : Strand → Strand} (h : s.Inv) : (s.updSt f).Inv := h

/-- A change of the atoll in focus that keeps its canonical form and number. -/
theorem State.updA_keeps {s : State} {f : Atoll → Atoll} (h : s.Inv) (hc : ∀ a, a.Canon → (f a).Canon) (hn : ∀ a, (f a).n = a.n) :
    (s.updA f).Inv := by
  refine State.updA_inv.mpr ⟨h.host_wf, h.dev_canon, h.evlog_wf, hc _ h.a_canon, h.others_canon, ?_⟩
  rw [hn]
  exact h.numbered

theorem Atoll.withDiv_canon (a : Atoll) (d : Divs) (h : a.Canon) : Atoll.Canon { a with div := d } := h
theorem Atoll.withDiv_n (a : Atoll) (d : Divs) : Atoll.n { a with div := d } = a.n := rfl

@[simp] theorem State.restoreAtoll_inv (s : State) (x : Launch) (qsw : Word) (hI : s.Inv) : (State.restoreAtoll s x qsw).Inv := by
  unfold State.restoreAtoll
  extract_lets m ra mv gtc s1 s2 s3 s4
  have h1 : s1.Inv := State.readRecord_inv _ _ (State.updA_keeps hI (fun _ h => Launch.atollStart_canon _ _ _ h) fun _ => Launch.atollStart_n _ _ _)
  clear_value s1 ra mv gtc
  have h2 : s2.Inv := State.updA_keeps h1 (fun a h => Atoll.withDiv_canon a _ h) fun a => Atoll.withDiv_n a _
  clear_value s2
  have h3 : s3.Inv := State.readQueues_inv _ _ _ h2
  clear_value s3
  have h4 : s4.Inv := by
    dsimp only [s4]
    split
    · exact State.updA_keeps h3 (fun a h => Atoll.rejoin_canon _ a h) fun a => Atoll.rejoin_n _ a
    · exact State.updA_keeps h3 (fun a h => Atoll.imported_canon a h) fun a => Atoll.imported_n a
  clear_value s4
  exact updSt_free h4

@[simp] theorem State.resumeCommands_inv (s : State) (hI : s.Inv) : (State.resumeCommands s).Inv := by
  unfold State.resumeCommands
  try dsimp only
  repeat' (first | (simp (maxDischargeDepth := 60) [hI]; done) | (simp (maxDischargeDepth := 60) (contextual := true) [hI]; done) | split |
    (refine foldl_inv (fun _ _ hI => ?_) _ _ ?_) | (refine State.eachOf_inv _ _ _ ?_ (fun _ hI => ?_)))

@[simp] theorem State.rebuildStreams_inv (s : State) (x : Launch) (hI : s.Inv) : (State.rebuildStreams s x).Inv := by
  unfold State.rebuildStreams
  refine foldl_inv (fun s m hI => ?_) _ _ hI
  split
  · exact hI
  · refine foldl_inv (fun s c hI => ?_) _ _ hI
    split
    · exact hI
    · split
      · exact hI
      · refine State.updAtoll_inv _ _ _ hI (fun a h => ?_) fun a => ?_
        · repeat' (first | exact h | split)
        · repeat' (first | rfl | split)

@[simp] theorem State.restoreTeam_inv (s : State) (x : Launch) (qsw : Word) (hI : s.Inv) : (State.restoreTeam s x qsw).Inv := by
  unfold State.restoreTeam
  try dsimp only
  repeat' (first | (simp (maxDischargeDepth := 60) [hI]; done) | (simp (maxDischargeDepth := 60) (contextual := true) [hI]; done) | split |
    (refine foldl_inv (fun _ _ hI => ?_) _ _ ?_) | (refine State.eachOf_inv _ _ _ ?_ (fun _ hI => ?_)))

@[simp] theorem State.claim_inv (s : State) (x : Launch) (hI : s.Inv) : (State.claim s x).Inv := by
  unfold State.claim
  try dsimp only
  repeat' (first | (simp (maxDischargeDepth := 60) [hI]; done) | (simp (maxDischargeDepth := 60) (contextual := true) [hI]; done) | split |
    (refine foldl_inv (fun _ _ hI => ?_) _ _ ?_) | (refine State.eachOf_inv _ _ _ ?_ (fun _ hI => ?_)))

@[simp] theorem State.notFitted_inv (s : State) (x : Launch) (hI : s.Inv) : (State.notFitted s x).Inv := by
  unfold State.notFitted
  repeat' (first | (simp (maxDischargeDepth := 60) [hI]; done) | split)

@[simp] theorem State.requestAll_inv (s : State) (l : List Launch) (reason : Nat) (hI : s.Inv) : (State.requestAll s l reason).Inv := by
  unfold State.requestAll
  try dsimp only
  repeat' (first | (simp (maxDischargeDepth := 60) [hI]; done) | (simp (maxDischargeDepth := 60) (contextual := true) [hI]; done) | split |
    (refine foldl_inv (fun _ _ hI => ?_) _ _ ?_) | (refine State.eachOf_inv _ _ _ ?_ (fun _ hI => ?_)))

@[simp] theorem State.blockerRequests_inv (s : State) (x : Launch) (hI : s.Inv) : (State.blockerRequests s x).Inv := by
  unfold State.blockerRequests
  extract_lets lower rect
  clear_value rect lower
  cases rect with
  | none => exact hI
  | some y =>
    dsimp only
    split
    · exact State.requestAll_inv _ _ _ hI
    · split
      · exact State.requestAll_inv _ _ _ hI
      · exact hI

@[simp] theorem State.consider_inv (s : State) (x : Launch) (hI : s.Inv) : (State.consider s x).Inv := by
  unfold State.consider
  repeat' (first | (simp (maxDischargeDepth := 60) [hI]; done) | split)

@[simp] theorem State.withdraw_inv (s : State) (x : Launch) (hI : s.Inv) : (State.withdraw s x).Inv := by
  unfold State.withdraw
  exact State.releaseLaunch_inv _ _ (foldl_inv (fun _ _ h => State.toFront_inv _ _ _ h) _ _ hI)

@[simp] theorem State.sendLoad_inv (s : State) (x : Launch) (p : Nat) (hI : s.Inv) : (State.sendLoad s x p).Inv := by
  unfold State.sendLoad
  try dsimp only
  repeat' (first | (simp (maxDischargeDepth := 60) [hI]; done) | (simp (maxDischargeDepth := 60) (contextual := true) [hI]; done) | split |
    (refine foldl_inv (fun _ _ hI => ?_) _ _ ?_) | (refine State.eachOf_inv _ _ _ ?_ (fun _ hI => ?_)))

@[simp] theorem State.performSteps_inv (s : State) (x : Launch) (hI : s.Inv) : (State.performSteps s x).Inv := by
  unfold State.performSteps
  repeat' (first | (simp (maxDischargeDepth := 60) [hI]; done) | split)

@[simp] theorem State.go_inv (s : State) (x : Launch) (hI : s.Inv) : (State.go s x).Inv := by
  unfold State.go
  try dsimp only
  repeat' (first | (simp (maxDischargeDepth := 60) [hI]; done) | (simp (maxDischargeDepth := 60) (contextual := true) [hI]; done) | split |
    (refine foldl_inv (fun _ _ hI => ?_) _ _ ?_) | (refine State.eachOf_inv _ _ _ ?_ (fun _ hI => ?_)))

@[simp] theorem execSchedulerPlace_inv (s : State) (hI : s.Inv) : ResInv (execSchedulerPlace s) := by
  unfold execSchedulerPlace
  split
  · split
    · exact hI
    · split
      · exact hI
      · split
        · exact State.endLaunch_inv _ _ _ _ (State.withdraw_inv _ _ hI)
        split
        · exact State.endLaunch_inv _ _ _ _ (State.withdraw_inv _ _ hI)
        · extract_lets q0 s0 y s1
          have h0 : s0.Inv := by
            dsimp only [s0]
            split
            · exact State.setPcount_inv _ _ _ hI
            · exact hI
          clear_value s0 y
          have h1 : s1.Inv := State.performSteps_inv _ _ (State.updLaunch_inv _ _ _ h0)
          clear_value s1
          split
          · exact State.go_inv _ _ h1
          · exact State.schedAt_inv _ _ _ _ _ _ _ (foldl_inv (fun _ _ h => State.sendLoad_inv _ _ _ h) _ _ h1)
  · extract_lets l
    refine foldl_inv (fun s x h => ?_) _ _ hI
    split
    · exact h
    · exact State.consider_inv _ _ h

@[simp] theorem execBlockerTimeout_inv (s : State) (hI : s.Inv) : ResInv (execBlockerTimeout s) := by
  unfold execBlockerTimeout
  try dsimp only
  repeat' (first | (simp (maxDischargeDepth := 60) [hI]; done) | (simp (maxDischargeDepth := 60) (contextual := true) [hI]; done) | split |
    (refine foldl_inv (fun _ _ hI => ?_) _ _ ?_) | (refine State.eachOf_inv _ _ _ ?_ (fun _ hI => ?_)))

@[simp] theorem State.writeSave_inv (s : State) (x : Launch) (hI : s.Inv) : (State.writeSave s x).Inv := by
  unfold State.writeSave
  have D : ∀ {s : State} {f : Dev → Dev}, s.Inv → (f s.dev).Canon → (s.updDev f).Inv := fun h hf =>
    State.updDev_inv.mpr ⟨h.host_wf, hf, h.2.2⟩
  extract_lets s1
  have h1 : s1.Inv := State.eachOf_inv _ _ _ hI fun s h =>
    D h (Dev.putCells_inv _ _ _ _ h.dev_canon (State.recordCells_wf h.a_canon.sp_wf))
  clear_value s1
  exact D h1 (Dev.putHeader_inv _ _ _ _ _ _ h1.dev_canon)

@[simp] theorem State.savePart_inv (s : State) (x : Launch) (hI : s.Inv) : (State.savePart s x).Inv := by
  unfold State.savePart
  simp (maxDischargeDepth := 60) [hI]

@[simp] theorem State.finishSave_inv (s : State) (x : Launch) (hI : s.Inv) : (State.finishSave s x).Inv := by
  unfold State.finishSave
  simp (maxDischargeDepth := 60) [hI]

@[simp] theorem State.ladderLook_inv (s : State) (x : Launch) (hI : s.Inv) : (State.ladderLook s x).Inv := by
  unfold State.ladderLook
  repeat' (first | (simp (maxDischargeDepth := 60) [hI]; done) | split)

@[simp] theorem execDrainComplete_inv (s : State) (hI : s.Inv) : ResInv (execDrainComplete s) := by
  unfold execDrainComplete
  repeat' (first | (simp (maxDischargeDepth := 60) [hI]; done) | split)

@[simp] theorem execSaveComplete_inv (s : State) (hI : s.Inv) : ResInv (execSaveComplete s) := by
  unfold execSaveComplete
  repeat' (first | (simp (maxDischargeDepth := 60) [hI]; done) | split)

@[simp] theorem State.beginDrain_inv (s : State) (x : Launch) (reason : Nat) (hI : s.Inv) : (State.beginDrain s x reason).Inv := by
  unfold State.beginDrain
  try dsimp only
  repeat' (first | (simp (maxDischargeDepth := 60) [hI]; done) | (simp (maxDischargeDepth := 60) (contextual := true) [hI]; done) | split |
    (refine foldl_inv (fun _ _ hI => ?_) _ _ ?_) | (refine State.eachOf_inv _ _ _ ?_ (fun _ hI => ?_)))

@[simp] theorem Atoll.loseExchanges_canon (a : Atoll) (hI : a.Canon) : (Atoll.loseExchanges a).Canon := by
  unfold Atoll.loseExchanges
  try dsimp only
  repeat' (first | (simp (maxDischargeDepth := 60) [hI]; done) | (simp (maxDischargeDepth := 60) (contextual := true) [hI]; done) | split |
    (refine foldl_inv (fun _ _ hI => ?_) _ _ ?_) | (refine State.eachOf_inv _ _ _ ?_ (fun _ hI => ?_)))

@[simp] theorem Atoll.loseExchanges_n (a : Atoll) : (Atoll.loseExchanges a).n = a.n := by
  unfold Atoll.loseExchanges
  try dsimp only
  repeat' (first | rfl | (simp; done) | split)

@[simp] theorem State.beginSave_inv (s : State) (x : Launch) (hI : s.Inv) : (State.beginSave s x).Inv := by
  unfold State.beginSave
  try dsimp only
  repeat' (first | (simp (maxDischargeDepth := 60) [hI]; done) | (simp (maxDischargeDepth := 60) (contextual := true) [hI]; done) | split |
    (refine foldl_inv (fun _ _ hI => ?_) _ _ ?_) | (refine State.eachOf_inv _ _ _ ?_ (fun _ hI => ?_)))

@[simp] theorem execLadderT1Expiry_inv (s : State) (hI : s.Inv) : ResInv (execLadderT1Expiry s) := by
  unfold execLadderT1Expiry
  repeat' (first | (simp (maxDischargeDepth := 60) [hI]; done) | split)

@[simp] theorem State.resetLaunch_inv (s : State) (x : Launch) (status st : Nat) (flt : List Word) (hI : s.Inv) : (State.resetLaunch s x status st flt).Inv := by
  unfold State.resetLaunch
  simp (maxDischargeDepth := 60) [hI]

@[simp] theorem State.forceReset_inv (s : State) (x : Launch) (status st : Nat) (hI : s.Inv) : (State.forceReset s x status st).Inv := by
  unfold State.forceReset
  repeat' (first | (simp (maxDischargeDepth := 60) [hI]; done) | split)

@[simp] theorem execLadderT2Expiry_inv (s : State) (hI : s.Inv) : ResInv (execLadderT2Expiry s) := by
  unfold execLadderT2Expiry
  repeat' (first | (simp (maxDischargeDepth := 60) [hI]; done) | split)

@[simp] theorem State.preempt_inv (s : State) (x : Launch) (reason : Nat) (hI : s.Inv) : (State.preempt s x reason).Inv := by
  unfold State.preempt
  try dsimp only
  repeat' (first | (simp (maxDischargeDepth := 60) [hI]; done) | (simp (maxDischargeDepth := 60) (contextual := true) [hI]; done) | split |
    (refine foldl_inv (fun _ _ hI => ?_) _ _ ?_) | (refine State.eachOf_inv _ _ _ ?_ (fun _ hI => ?_)))

@[simp] theorem execPreemptRequest_inv (s : State) (hI : s.Inv) : ResInv (execPreemptRequest s) := by
  unfold execPreemptRequest
  repeat' (first | (simp (maxDischargeDepth := 60) [hI]; done) | split)

@[simp] theorem execLaunchEnd_inv (s : State) (hI : s.Inv) : ResInv (execLaunchEnd s) := by
  unfold execLaunchEnd
  try dsimp only
  repeat' (first | (simp (maxDischargeDepth := 60) [hI]; done) | (simp (maxDischargeDepth := 60) (contextual := true) [hI]; done) | split |
    (refine foldl_inv (fun _ _ hI => ?_) _ _ ?_) | (refine State.eachOf_inv _ _ _ ?_ (fun _ hI => ?_)))

@[simp] theorem execStrandFaultEnd_inv (s : State) (hI : s.Inv) : ResInv (execStrandFaultEnd s) := by
  unfold execStrandFaultEnd
  repeat' (first | (simp (maxDischargeDepth := 60) [hI]; done) | split)

@[simp] theorem execPlacementClaim_inv (s : State) (hI : s.Inv) : ResInv (execPlacementClaim s) := by
  unfold execPlacementClaim
  try dsimp only
  repeat' (first | (simp (maxDischargeDepth := 60) [hI]; done) | (simp (maxDischargeDepth := 60) (contextual := true) [hI]; done) | split |
    (refine foldl_inv (fun _ _ hI => ?_) _ _ ?_) | (refine State.eachOf_inv _ _ _ ?_ (fun _ hI => ?_)))

@[simp] theorem State.dropMember_inv (s : State) (x : Launch) (hI : s.Inv) : (State.dropMember s x).Inv := by
  unfold State.dropMember
  try dsimp only
  repeat' (first | (simp (maxDischargeDepth := 60) [hI]; done) | (simp (maxDischargeDepth := 60) (contextual := true) [hI]; done) | split |
    (refine foldl_inv ?_ _ _ ?_; intro _ _ hI))

@[simp] theorem execClaimWithdraw_inv (s : State) (hI : s.Inv) : ResInv (execClaimWithdraw s) := by
  unfold execClaimWithdraw
  repeat' (first | (simp (maxDischargeDepth := 60) [hI]; done) | split)

@[simp] theorem State.refused_inv (s : State) (x : Launch) (hI : s.Inv) : (State.refused s x).Inv := by
  unfold State.refused
  extract_lets st s1 y
  have h1 : s1.Inv := State.setQState_inv _ _ _ (State.withdraw_inv _ _ hI)
  clear_value s1 st y
  split
  · exact State.claim_inv _ _ h1
  · exact State.notFitted_inv _ _ (State.updLaunch_inv _ _ _ h1)

@[simp] theorem execMemberReport_inv (s : State) (hI : s.Inv) : ResInv (execMemberReport s) := by
  unfold execMemberReport
  try dsimp only
  repeat' (first | (simp (maxDischargeDepth := 60) [hI]; done) | (simp (maxDischargeDepth := 60) (contextual := true) [hI]; done) | split |
    (refine foldl_inv (fun _ _ hI => ?_) _ _ ?_) | (refine State.eachOf_inv _ _ _ ?_ (fun _ hI => ?_)))

@[simp] theorem execMemberReportTimeout_inv (s : State) (hI : s.Inv) : ResInv (execMemberReportTimeout s) := by
  unfold execMemberReportTimeout
  repeat' (first | (simp (maxDischargeDepth := 60) [hI]; done) | split)

@[simp] theorem State.memberDone_inv (s : State) (x : Launch) (hI : s.Inv) : (State.memberDone s x).Inv := by
  unfold State.memberDone
  simp (maxDischargeDepth := 60) [hI]

@[simp] theorem State.grantSaved_inv (s : State) (x : Launch) (g : Nat) (hI : s.Inv) : (State.grantSaved s x g).Inv := by
  unfold State.grantSaved
  try dsimp only
  repeat' (first | (simp (maxDischargeDepth := 60) [hI]; done) | (simp (maxDischargeDepth := 60) (contextual := true) [hI]; done) | split |
    (refine foldl_inv (fun _ _ hI => ?_) _ _ ?_) | (refine State.eachOf_inv _ _ _ ?_ (fun _ hI => ?_)))

@[simp] theorem State.grantLive_inv (s : State) (x : Launch) (g : Nat) (hI : s.Inv) : (State.grantLive s x g).Inv := by
  unfold State.grantLive
  try dsimp only
  repeat' (first | (simp (maxDischargeDepth := 60) [hI]; done) | (simp (maxDischargeDepth := 60) (contextual := true) [hI]; done) | split |
    (refine foldl_inv ?_ _ _ ?_; intro _ _ hI))

@[simp] theorem execMemberLoad_inv (s : State) (hI : s.Inv) : ResInv (execMemberLoad s) := by
  unfold execMemberLoad
  try dsimp only
  repeat' (first | (simp (maxDischargeDepth := 60) [hI]; done) | (simp (maxDischargeDepth := 60) (contextual := true) [hI]; done) | split |
    (refine foldl_inv (fun _ _ hI => ?_) _ _ ?_) | (refine State.eachOf_inv _ _ _ ?_ (fun _ hI => ?_)))

end Sys2Proof.Machine
end

