-- ==== Sys2Proof/Laws/InvHost.lean ====
section
/-! SUPPORT. The invariant of the machine is kept by the host interface (R5, R12; log 4). -/

namespace Sys2Proof.Machine

set_option linter.unusedSimpArgs false
set_option linter.unusedVariables false
set_option linter.unreachableTactic false
set_option linter.unusedTactic false

@[simp] theorem execQtailDoorbell_inv (s : State) (hI : s.Inv) : ResInv (execQtailDoorbell s) := by
  unfold execQtailDoorbell
  repeat' (first | (simp (maxDischargeDepth := 60) [hI]; done) | split)

@[simp] theorem execNop_inv (s : State) (hI : s.Inv) : ResInv (execNop s) := by
  unfold execNop
  repeat' (first | (simp (maxDischargeDepth := 60) [hI]; done) | split)

@[simp] theorem State.enroll_inv (s : State) (x : Launch) (qsw : Word) (hI : s.Inv) : (State.enroll s x qsw).Inv := by
  unfold State.enroll
  simp (maxDischargeDepth := 60) [hI]

@[simp] theorem execLaunch_inv (s : State) (hI : s.Inv) : ResInv (execLaunch s) := by
  unfold execLaunch
  try dsimp only
  repeat' (first | (simp (maxDischargeDepth := 60) [hI]; done) | (simp (maxDischargeDepth := 60) (contextual := true) [hI]; done) | split |
    (refine foldl_inv (fun _ _ hI => ?_) _ _ ?_) | (refine State.eachOf_inv _ _ _ ?_ (fun _ hI => ?_)))

theorem State.updFe_keeps {s : State} {f : Fe → Fe} (h : s.Inv) (he : (f s.fe).evlog = s.fe.evlog) : (s.updFe f).Inv := by
  refine State.updFe_inv.mpr ⟨h.host_wf, h.dev_canon, ?_, h.2.2.2⟩
  rw [he]
  exact h.evlog_wf

@[simp] theorem execLaunchResume_inv (s : State) (hI : s.Inv) : ResInv (execLaunchResume s) := by
  unfold execLaunchResume
  split
  · extract_lets x pc
    clear_value x pc
    split
    · simp [hI]
    · exact State.kickScheduler_inv _ (State.setQState_inv _ _ _ (State.enroll_inv _ _ _ hI))
  · exact hI

@[simp] theorem execHarvest_inv (s : State) (hI : s.Inv) : ResInv (execHarvest s) := by
  unfold execHarvest
  repeat' (first | (simp (maxDischargeDepth := 60) [hI]; done) | split)

@[simp] theorem execMigdone_inv (s : State) (hI : s.Inv) : ResInv (execMigdone s) := by
  unfold execMigdone
  repeat' (first | (simp (maxDischargeDepth := 60) [hI]; done) | split)

@[simp] theorem execCcadd_inv (s : State) (hI : s.Inv) : ResInv (execCcadd s) := by
  unfold execCcadd
  try dsimp only
  repeat' (first | (simp (maxDischargeDepth := 60) [hI]; done) | (simp (maxDischargeDepth := 60) (contextual := true) [hI]; done) | split |
    (refine foldl_inv (fun _ _ hI => ?_) _ _ ?_) | (refine State.eachOf_inv _ _ _ ?_ (fun _ hI => ?_)))

@[simp] theorem execCcdel_inv (s : State) (hI : s.Inv) : ResInv (execCcdel s) := by
  unfold execCcdel
  try dsimp only
  repeat' (first | (simp (maxDischargeDepth := 60) [hI]; done) | (simp (maxDischargeDepth := 60) (contextual := true) [hI]; done) | split |
    (refine foldl_inv (fun _ _ hI => ?_) _ _ ?_) | (refine State.eachOf_inv _ _ _ ?_ (fun _ hI => ?_)))

@[simp] theorem execQcfgWrite_inv (s : State) (hI : s.Inv) : ResInv (execQcfgWrite s) := by
  have h1 : ∀ q f, (s.updQueue q f).Inv := fun q f => State.updQueue_inv _ _ _ hI
  have h2 : ∀ q f g, ((s.updQueue q f).updQueue q g).Inv := fun q f g => State.updQueue_inv _ _ _ (h1 q f)
  unfold execQcfgWrite
  repeat' (first | exact hI | exact h1 _ _ | exact State.firstLook_inv _ _ (h2 _ _ _) | exact State.pump_inv _ _ (State.setQState_inv _ _ _ (h2 _ _ _)) |
    exact State.setQState_inv _ _ _ (State.forceReset_inv _ _ _ _ (h1 _ _)) | exact State.setQState_inv _ _ _ (h1 _ _) | (extract_lets; split) | split)

@[simp] theorem execCheadWrite_inv (s : State) (hI : s.Inv) : ResInv (execCheadWrite s) := by
  unfold execCheadWrite
  try dsimp only
  repeat' (first | (simp (maxDischargeDepth := 60) [hI]; done) | (simp (maxDischargeDepth := 60) (contextual := true) [hI]; done) | split |
    (refine foldl_inv (fun _ _ hI => ?_) _ _ ?_) | (refine State.eachOf_inv _ _ _ ?_ (fun _ hI => ?_)))

@[simp] theorem execQctlPreempt_inv (s : State) (hI : s.Inv) : ResInv (execQctlPreempt s) := by
  unfold execQctlPreempt
  repeat' (first | (simp (maxDischargeDepth := 60) [hI]; done) | split)

@[simp] theorem State.releaseHeld_inv (s : State) (q : Nat) (hI : s.Inv) : (State.releaseHeld s q).Inv := by
  unfold State.releaseHeld
  repeat' (first | (simp (maxDischargeDepth := 60) [hI]; done) | split)

@[simp] theorem execQctlRelease_inv (s : State) (hI : s.Inv) : ResInv (execQctlRelease s) := by
  unfold execQctlRelease
  repeat' (first | (simp (maxDischargeDepth := 60) [hI]; done) | split)

@[simp] theorem execQctlGrant_inv (s : State) (hI : s.Inv) : ResInv (execQctlGrant s) := by
  unfold execQctlGrant
  try dsimp only
  repeat' (first | (simp (maxDischargeDepth := 60) [hI]; done) | (simp (maxDischargeDepth := 60) (contextual := true) [hI]; done) | split |
    (refine foldl_inv (fun _ _ hI => ?_) _ _ ?_) | (refine State.eachOf_inv _ _ _ ?_ (fun _ hI => ?_)))

@[simp] theorem execQctlReenable_inv (s : State) (hI : s.Inv) : ResInv (execQctlReenable s) := by
  unfold execQctlReenable
  repeat' (first | (simp (maxDischargeDepth := 60) [hI]; done) | split)

@[simp] theorem execQmapWrite_inv (s : State) (hI : s.Inv) : ResInv (execQmapWrite s) := by
  unfold execQmapWrite
  repeat' (first | (simp (maxDischargeDepth := 60) [hI]; done) | split)

theorem Numbered.reset : Numbered State.reset.a.n (State.reset.others.map Atoll.n) := by
  have e : State.reset.others.map Atoll.n = (List.range 159).map (· + 1) := by
    unfold State.reset
    simp [Atoll.init, Function.comp_def]
  rw [e, Numbered, ← List.range_succ_eq_map.symm]
  exact List.Perm.refl _

theorem State.reset_parts : State.reset.dev.Canon ∧ SMap.wf State.reset.fe.evlog = true ∧ State.reset.a.Canon ∧
    AllCanon State.reset.others := by
  refine ⟨by simp [State.reset, Dev.init], rfl, by simp [State.reset], ?_⟩
  intro b hb
  simp only [State.reset, List.mem_map] at hb
  obtain ⟨k, _, rfl⟩ := hb
  exact Atoll.init_canon _

theorem dark_of {s r : State} {f : Firm} {l : List Ev} (h : s.Inv) (h1 : r.dev.Canon) (h2 : SMap.wf r.fe.evlog = true) (h3 : r.a.Canon)
    (h4 : AllCanon r.others) (h5 : Numbered r.a.n (r.others.map Atoll.n)) :
    State.Inv { r with dev := { r.dev with retire := s.dev.retire }, fe := { r.fe with px := s.fe.px, py := s.fe.py, mesh := s.fe.mesh, firm := f }
                       host := s.host, out := s.out, agenda := l, free := s.free, seq := s.seq } :=
  State.inv_mk.mpr ⟨h.host_wf, h1, h2, h3, h4, h5⟩

@[simp] theorem State.dark_inv (s : State) (f : Firm) (hI : s.Inv) : (State.dark s f).Inv := by
  obtain ⟨h1, h2, h3, h4⟩ := State.reset_parts
  exact dark_of hI h1 h2 h3 h4 Numbered.reset

@[simp] theorem State.coldStart_inv (s : State) (hI : s.Inv) : (State.coldStart s).Inv := by
  unfold State.coldStart
  simp (maxDischargeDepth := 60) [hI]

@[simp] theorem execDevctlCold_inv (s : State) (hI : s.Inv) : ResInv (execDevctlCold s) := by
  unfold execDevctlCold
  try dsimp only
  repeat' (first | (simp (maxDischargeDepth := 60) [hI]; done) | (simp (maxDischargeDepth := 60) (contextual := true) [hI]; done) | split |
    (exact State.lkHold_res hI ‹_›) | (refine foldl_inv ?_ _ _ ?_; intro _ _ hI))

@[simp] theorem execPowerOn_inv (s : State) (hI : s.Inv) : ResInv (execPowerOn s) := by
  unfold execPowerOn
  simp (maxDischargeDepth := 60) [hI]

@[simp] theorem State.dropHeld_inv (s : State) (hI : s.Inv) : (State.dropHeld s).Inv := by
  unfold State.dropHeld
  try dsimp only
  repeat' (first | (simp (maxDischargeDepth := 60) [hI]; done) | (simp (maxDischargeDepth := 60) (contextual := true) [hI]; done) | split |
    (refine foldl_inv (fun _ _ hI => ?_) _ _ ?_) | (refine State.eachOf_inv _ _ _ ?_ (fun _ hI => ?_)))

@[simp] theorem State.endAll_inv (s : State) (st : Nat) (hI : s.Inv) : (State.endAll s st).Inv := by
  unfold State.endAll
  try dsimp only
  repeat' (first | (simp (maxDischargeDepth := 60) [hI]; done) | (simp (maxDischargeDepth := 60) (contextual := true) [hI]; done) | split |
    (refine foldl_inv (fun _ _ hI => ?_) _ _ ?_) | (refine State.eachOf_inv _ _ _ ?_ (fun _ hI => ?_)))

theorem State.everyAtoll_inv {s : State} {f : Atoll → Atoll} {fe : Fe} {d : Dev} {l : List Ev} (hI : s.Inv) (hfe : SMap.wf fe.evlog = true)
    (hd : d.Canon) (hf : ∀ a, a.Canon → (f a).Canon) (hn : ∀ a, (f a).n = a.n) :
    State.Inv { s with a := f s.a, others := s.others.map f, fe := fe, agenda := l, dev := d } := by
  obtain ⟨h1, h2⟩ := State.others_map_inv hI hf hn
  have h3 := hI.numbered
  rw [← h2, ← hn s.a] at h3
  exact State.inv_mk.mpr ⟨hI.host_wf, hd, hfe, hf _ hI.a_canon, h1, h3⟩

@[simp] theorem execDevctlWarm_inv (s : State) (hI : s.Inv) : ResInv (execDevctlWarm s) := by
  unfold execDevctlWarm
  split
  · exact hI
  extract_lets s1 src fe clear chan dev s2
  have h1 : s1.Inv := State.dropHeld_inv _ (State.updFe_keeps (State.endAll_inv _ _ hI) rfl)
  have hfe : SMap.wf fe.evlog = true := by
    dsimp only [fe]
    exact h1.evlog_wf
  clear_value fe
  have h2 : s2.Inv := State.everyAtoll_inv (f := clear) h1 hfe ⟨h1.dev_canon.mem_wf, h1.dev_canon.acc_wf, rfl⟩
    (fun a _ => Atoll.withDiv_canon _ _ (Atoll.clear_canon _ _ _)) (fun a => rfl)
  clear_value s2
  exact State.later_inv _ _ _ _ h2

@[simp] theorem Dev.retired_inv (d : Dev) (hI : d.Canon) : (Dev.retired d).Canon := by
  unfold Dev.retired
  try dsimp only
  repeat' (first | (simp (maxDischargeDepth := 60) [hI]; done) | (simp (maxDischargeDepth := 60) (contextual := true) [hI]; done) | split |
    (refine foldl_inv (fun _ _ hI => ?_) _ _ ?_) | (refine State.eachOf_inv _ _ _ ?_ (fun _ hI => ?_)))

@[simp] theorem execStartDone_inv (s : State) (hI : s.Inv) : ResInv (execStartDone s) := by
  unfold execStartDone
  try dsimp only
  repeat' (first | (simp (maxDischargeDepth := 60) [hI]; done) | (simp (maxDischargeDepth := 60) (contextual := true) [hI]; done) | split |
    (refine foldl_inv (fun _ _ hI => ?_) _ _ ?_) | (refine State.eachOf_inv _ _ _ ?_ (fun _ hI => ?_)))

@[simp] theorem execFwupdGo_inv (s : State) (hI : s.Inv) : ResInv (execFwupdGo s) := by
  unfold execFwupdGo
  split
  · extract_lets s1
    have h1 : s1.Inv := State.updFe_keeps hI rfl
    clear_value s1
    split
    · exact State.later_inv _ _ _ _ (State.updFe_keeps h1 rfl)
    · exact h1
  · exact hI

@[simp] theorem execFirmwareUpdateDone_inv (s : State) (hI : s.Inv) : ResInv (execFirmwareUpdateDone s) := by
  unfold execFirmwareUpdateDone
  extract_lets good v s1
  have h1 : s1.Inv := hI
  clear_value s1 good v
  exact State.updFe_keeps h1 rfl

@[simp] theorem execPowerLoss_inv (s : State) (hI : s.Inv) : ResInv (execPowerLoss s) := by
  unfold execPowerLoss
  extract_lets f lost
  clear_value f lost
  exact State.dark_inv _ _ hI

@[simp] theorem State.goFatal_inv (s : State) (cause : Nat) (hI : s.Inv) : (State.goFatal s cause).Inv := by
  unfold State.goFatal
  simp (maxDischargeDepth := 60) [hI]

@[simp] theorem execPairMismatch_inv (s : State) (hI : s.Inv) : ResInv (execPairMismatch s) := by
  unfold execPairMismatch
  extract_lets second s1
  have h1 : s1.Inv := State.updFe_keeps (State.record_inv _ _ _ hI) rfl
  clear_value s1 second
  split
  · simp [h1]
  · refine State.kickScheduler_inv _ (foldl_inv (fun s x h => ?_) _ _ h1)
    split
    · exact State.setQState_inv _ _ _ (State.updLaunch_inv _ _ _ (State.withdraw_inv _ _ h))
    · exact h

@[simp] theorem execWorkerFault_inv (s : State) (hI : s.Inv) : ResInv (execWorkerFault s) := by
  unfold execWorkerFault
  repeat' (first | (simp (maxDischargeDepth := 60) [hI]; done) | split)

@[simp] theorem execSupplyFault_inv (s : State) (hI : s.Inv) : ResInv (execSupplyFault s) := by
  unfold execSupplyFault
  simp (maxDischargeDepth := 60) [hI]

@[simp] theorem execReadClear_inv (s : State) (hI : s.Inv) : ResInv (execReadClear s) := by
  unfold execReadClear
  repeat' (first | (simp (maxDischargeDepth := 60) [hI]; done) | split)

theorem dite_keeps {p : Prop} [Decidable p] {x y : Res} (hx : p → ResInv x) (hy : ¬ p → ResInv y) : ResInv (if p then x else y) := by
  split
  · exact hx ‹_›
  · exact hy ‹_›

@[simp] theorem execRegisterWrite_inv (s : State) (hI : s.Inv) : ResInv (execRegisterWrite s) := by
  have K : ∀ f : Fe → Fe, (f s.fe).evlog = s.fe.evlog → ResInv (.next (s.updFe f)) := fun f h => State.updFe_keeps hI h
  have Q : ∀ q f, ResInv (.next (s.updQueue q f)) := fun q f => State.updQueue_inv s q f hI
  unfold execRegisterWrite
  split
  · next off v _ =>
    iterate 9 (refine dite_keeps (fun _ => ?_) (fun _ => ?_); first | exact K _ rfl | exact hI)
    split
    · split
      iterate 5 exact Q _ _
      exact hI
    · exact hI
  · exact hI

@[simp] theorem execDbgdataRead_inv (s : State) (hI : s.Inv) : ResInv (execDbgdataRead s) := by
  unfold execDbgdataRead
  try dsimp only
  repeat' (first | (simp (maxDischargeDepth := 60) [hI]; done) | (simp (maxDischargeDepth := 60) (contextual := true) [hI]; done) | split |
    (refine foldl_inv (fun _ _ hI => ?_) _ _ ?_) | (refine State.eachOf_inv _ _ _ ?_ (fun _ hI => ?_)))

@[simp] theorem execDbgdataWrite_inv (s : State) (hI : s.Inv) : ResInv (execDbgdataWrite s) := by
  unfold execDbgdataWrite
  try dsimp only
  repeat' (first | (simp (maxDischargeDepth := 60) [hI]; done) | (simp (maxDischargeDepth := 60) (contextual := true) [hI]; done) | split |
    (refine foldl_inv (fun _ _ hI => ?_) _ _ ?_) | (refine State.eachOf_inv _ _ _ ?_ (fun _ hI => ?_)))

@[simp] theorem execDbgctlStop_inv (s : State) (hI : s.Inv) : ResInv (execDbgctlStop s) := by
  unfold execDbgctlStop
  try dsimp only
  repeat' (first | (simp (maxDischargeDepth := 60) [hI]; done) | (simp (maxDischargeDepth := 60) (contextual := true) [hI]; done) | split |
    (refine foldl_inv (fun _ _ hI => ?_) _ _ ?_) | (refine State.eachOf_inv _ _ _ ?_ (fun _ hI => ?_)))

@[simp] theorem execDbgctlBrken_inv (s : State) (hI : s.Inv) : ResInv (execDbgctlBrken s) := by
  unfold execDbgctlBrken
  repeat' (first | (simp (maxDischargeDepth := 60) [hI]; done) | split)

@[simp] theorem execDbgctlResume_inv (s : State) (hI : s.Inv) : ResInv (execDbgctlResume s) := by
  unfold execDbgctlResume
  repeat' (first | (simp (maxDischargeDepth := 60) [hI]; done) | split)

@[simp] theorem execAgeUpdate_inv (s : State) (hI : s.Inv) : ResInv (execAgeUpdate s) := by
  unfold execAgeUpdate
  try dsimp only
  repeat' (first | (simp (maxDischargeDepth := 60) [hI]; done) | (simp (maxDischargeDepth := 60) (contextual := true) [hI]; done) | split |
    (refine foldl_inv (fun _ _ hI => ?_) _ _ ?_) | (refine State.eachOf_inv _ _ _ ?_ (fun _ hI => ?_)))

@[simp] theorem execJunctionTempReport_inv (s : State) (hI : s.Inv) : ResInv (execJunctionTempReport s) := by
  unfold execJunctionTempReport
  try dsimp only
  repeat' (first | (simp (maxDischargeDepth := 60) [hI]; done) | (simp (maxDischargeDepth := 60) (contextual := true) [hI]; done) | split |
    (refine foldl_inv (fun _ _ hI => ?_) _ _ ?_) | (refine State.eachOf_inv _ _ _ ?_ (fun _ hI => ?_)))

@[simp] theorem State.mapHandles_inv (s : State) (f : Word → Word) (hI : s.Inv) : (State.mapHandles s f).Inv := by
  unfold State.mapHandles
  try dsimp only
  repeat' (first | (simp (maxDischargeDepth := 60) [hI]; done) | (simp (maxDischargeDepth := 60) (contextual := true) [hI]; done) | split |
    (refine foldl_inv ?_ _ _ ?_; intro _ _ hI))

@[simp] theorem State.stopUsers_inv (s : State) (f : CArea → Bool) (hI : s.Inv) : (State.stopUsers s f).Inv := by
  unfold State.stopUsers
  try dsimp only
  repeat' (first | (simp (maxDischargeDepth := 60) [hI]; done) | (simp (maxDischargeDepth := 60) (contextual := true) [hI]; done) | split |
    (refine foldl_inv ?_ _ _ ?_; intro _ _ hI))

@[simp] theorem State.revokeHere_inv (s : State) (sp frame : Nat) (hI : s.Inv) : (State.revokeHere s sp frame).Inv := by
  unfold State.revokeHere
  try dsimp only
  repeat' (first | (simp (maxDischargeDepth := 60) [hI]; done) | (simp (maxDischargeDepth := 60) (contextual := true) [hI]; done) | split |
    (refine foldl_inv (fun _ _ hI => ?_) _ _ ?_) | (refine State.eachOf_inv _ _ _ ?_ (fun _ hI => ?_)))

@[simp] theorem State.revokeSaved_inv (s : State) (x : Launch) (sp frame : Nat) (hI : s.Inv) : (State.revokeSaved s x sp frame).Inv := by
  unfold State.revokeSaved
  extract_lets words put stopC stopL s1
  have hp : ∀ d a, d.Canon → (put d a).Canon := by
    intro d a h
    refine foldl_dev (fun d k h => ?_) _ _ h
    dsimp only
    split
    · exact ⟨Mem.wf_setWord _ _ _ h.1, h.2⟩
    · exact h
  clear_value put
  have h1 : s1.Inv := State.updDev_inv.mpr ⟨hI.host_wf,
    Dev.resign_inv _ _ _ (foldl_dev (fun d j h => hp d _ h) _ _ hI.dev_canon), hI.2.2⟩
  clear_value s1
  exact State.updLaunch_inv _ _ _ h1

@[simp] theorem execRevokePage_inv (s : State) (hI : s.Inv) : ResInv (execRevokePage s) := by
  unfold execRevokePage
  split
  · next sp frame _ =>
    extract_lets s1 s2
    have h1 : s1.Inv := State.eachOf_inv _ _ _ hI fun s h => by
      split
      · exact h
      · exact State.revokeHere_inv _ _ _ h
    clear_value s1
    have h2 : s2.Inv := foldl_inv (fun s x h => State.revokeSaved_inv _ _ _ _ h) _ _ h1
    clear_value s2
    exact State.later_inv _ _ _ _ (State.updFe_keeps h2 rfl)
  · exact hI

@[simp] theorem execRevocationComplete_inv (s : State) (hI : s.Inv) : ResInv (execRevocationComplete s) := by
  unfold execRevocationComplete
  try dsimp only
  repeat' (first | (simp (maxDischargeDepth := 60) [hI]; done) | (simp (maxDischargeDepth := 60) (contextual := true) [hI]; done) | split |
    (refine foldl_inv (fun _ _ hI => ?_) _ _ ?_) | (refine State.eachOf_inv _ _ _ ?_ (fun _ hI => ?_)))

@[simp] theorem State.dropFetch_inv (s : State) (q : Nat) (hI : s.Inv) : (State.dropFetch s q).Inv := by
  unfold State.dropFetch
  try dsimp only
  repeat' (first | (simp (maxDischargeDepth := 60) [hI]; done) | (simp (maxDischargeDepth := 60) (contextual := true) [hI]; done) | split |
    (refine foldl_inv ?_ _ _ ?_; intro _ _ hI))

@[simp] theorem State.revokePasid_inv (s : State) (x : Launch) (p : Nat) (hI : s.Inv) : (State.revokePasid s x p).Inv := by
  unfold State.revokePasid
  exact State.eachOf_inv _ _ _ hI fun s h => State.stopUsers_inv _ _ (State.mapHandles_inv _ _ h)

@[simp] theorem execPasidTeardown_inv (s : State) (hI : s.Inv) : ResInv (execPasidTeardown s) := by
  unfold execPasidTeardown
  try dsimp only
  repeat' (first | (simp (maxDischargeDepth := 60) [hI]; done) | (simp (maxDischargeDepth := 60) (contextual := true) [hI]; done) | split |
    (refine foldl_inv (fun _ _ hI => ?_) _ _ ?_) | (refine State.eachOf_inv _ _ _ ?_ (fun _ hI => ?_)))

@[simp] theorem State.mapPage_inv (s : State) (root : Nat) (va : Nat) (e : Option PageMap) (hI : s.Inv) : (State.mapPage s root va e).Inv := by
  unfold State.mapPage
  simp (maxDischargeDepth := 60) [hI]

@[simp] theorem execPageRequestResponse_inv (s : State) (hI : s.Inv) : ResInv (execPageRequestResponse s) := by
  unfold execPageRequestResponse
  split
  · extract_lets e s1
    have h1 : s1.Inv := by simp [s1, hI]
    clear_value s1 e
    refine State.eachOf_inv _ _ _ h1 fun s h => ?_
    split
    · exact ite_inv h (ite_inv (State.returnTrap_inv _ (updSt_free h)) (State.strandFault_inv _ _ h))
    · exact h
  · exact hI

@[simp] theorem execMemoryAssignment_inv (s : State) (hI : s.Inv) : ResInv (execMemoryAssignment s) := by
  unfold execMemoryAssignment
  repeat' (first | (simp (maxDischargeDepth := 60) [hI]; done) | split)

@[simp] theorem execPasidAssignment_inv (s : State) (hI : s.Inv) : ResInv (execPasidAssignment s) := by
  unfold execPasidAssignment
  repeat' (first | (simp (maxDischargeDepth := 60) [hI]; done) | split)

@[simp] theorem execHostLinkRetrain_inv (s : State) (hI : s.Inv) : ResInv (execHostLinkRetrain s) := by
  unfold execHostLinkRetrain
  try dsimp only
  repeat' (first | (simp (maxDischargeDepth := 60) [hI]; done) | (simp (maxDischargeDepth := 60) (contextual := true) [hI]; done) | split |
    (exact State.lkHold_res hI ‹_›) | (refine foldl_inv ?_ _ _ ?_; intro _ _ hI))

@[simp] theorem execSpdmRequest_inv (s : State) (hI : s.Inv) : ResInv (execSpdmRequest s) := by
  unfold execSpdmRequest
  repeat' (first | (simp (maxDischargeDepth := 60) [hI]; done) | split)

@[simp] theorem execTdispRequest_inv (s : State) (hI : s.Inv) : ResInv (execTdispRequest s) := by
  unfold execTdispRequest
  repeat' (first | (simp (maxDischargeDepth := 60) [hI]; done) | split)

@[simp] theorem State.extReply_inv (s : State) (d : Nat) (r : Dst) (v : Word) (chg byte : Nat) (arr : Bool) (hI : s.Inv) : (State.extReply s d r v chg byte arr).Inv := by
  unfold State.extReply
  try dsimp only
  repeat' (first | (simp (maxDischargeDepth := 60) [hI]; done) | (simp (maxDischargeDepth := 60) (contextual := true) [hI]; done) | split |
    (refine foldl_inv (fun _ _ hI => ?_) _ _ ?_) | (refine State.eachOf_inv _ _ _ ?_ (fun _ hI => ?_)))

@[simp] theorem State.planeRow_inv (s : State) (d tile src stile p k : Nat) (row : Row) (hI : s.Inv) :
    (State.planeRow s d tile src stile p k row).Inv := by
  unfold State.planeRow
  extract_lets is had l s1
  have h1 : s1.Inv := State.updAtoll_inv _ _ _ hI (fun _ h => h) fun _ => rfl
  exact ite_inv h1 (State.schedAt_inv _ _ _ _ _ _ _ h1)

@[simp] theorem State.deliverFront_inv (s : State) (l : List Nat) (hI : s.Inv) : (State.deliverFront s l).Inv := by
  unfold State.deliverFront
  repeat' (first | (simp (maxDischargeDepth := 60) [hI]; done) | split)

@[simp] theorem State.deliver_inv (s : State) (d : Nat) (f : Frame) (hI : s.Inv) : (State.deliver s d f).Inv := by
  unfold State.deliver
  try dsimp only
  repeat' (first | (simp (maxDischargeDepth := 60) [hI]; done) | (simp (maxDischargeDepth := 60) (contextual := true) [hI]; done) | split |
    (exact State.lkHold_res hI ‹_›) | (refine foldl_inv ?_ _ _ ?_; intro _ _ hI))

@[simp] theorem execStraitFrameReceive_inv (s : State) (hI : s.Inv) : ResInv (execStraitFrameReceive s) := by
  unfold execStraitFrameReceive
  try dsimp only
  repeat' (first | (simp (maxDischargeDepth := 60) [hI]; done) | (simp (maxDischargeDepth := 60) (contextual := true) [hI]; done) | split |
    (refine foldl_inv (fun _ _ hI => ?_) _ _ ?_) | (refine State.eachOf_inv _ _ _ ?_ (fun _ hI => ?_)))

@[simp] theorem State.groupLost_inv (s : State) (grp : Nat) (hI : s.Inv) : (State.groupLost s grp).Inv := by
  unfold State.groupLost
  extract_lets s1 s2
  have h1 : s1.Inv := State.record_inv _ _ _ hI
  clear_value s1
  refine State.eachOf_inv _ _ _ h1 fun s h => ?_
  extract_lets t
  have ht : t.Inv := foldl_inv (fun s c h => State.stopCopy_inv _ _ _ h) _ _ h
  clear_value t
  refine foldl_inv (fun s c h => ?_) _ _ ht
  split
  · exact State.stopLink_inv _ _ _ _ _ h
  · exact h

@[simp] theorem State.endSpanning_inv (s : State) (grp : Nat) (hI : s.Inv) : (State.endSpanning s grp).Inv := by
  unfold State.endSpanning
  try dsimp only
  repeat' (first | (simp (maxDischargeDepth := 60) [hI]; done) | (simp (maxDischargeDepth := 60) (contextual := true) [hI]; done) | split |
    (refine foldl_inv (fun _ _ hI => ?_) _ _ ?_) | (refine State.eachOf_inv _ _ _ ?_ (fun _ hI => ?_)))

@[simp] theorem State.portOut_inv (s : State) (n cause : Nat) (hI : s.Inv) : (State.portOut s n cause).Inv := by
  unfold State.portOut
  try dsimp only
  repeat' (first | (simp (maxDischargeDepth := 60) [hI]; done) | (simp (maxDischargeDepth := 60) (contextual := true) [hI]; done) | split |
    (refine foldl_inv (fun _ _ hI => ?_) _ _ ?_) | (refine State.eachOf_inv _ _ _ ?_ (fun _ hI => ?_)))

@[simp] theorem execReplayRequest_inv (s : State) (hI : s.Inv) : ResInv (execReplayRequest s) := by
  unfold execReplayRequest
  try dsimp only
  repeat' (first | (simp (maxDischargeDepth := 60) [hI]; done) | (simp (maxDischargeDepth := 60) (contextual := true) [hI]; done) | split |
    (refine foldl_inv (fun _ _ hI => ?_) _ _ ?_) | (refine State.eachOf_inv _ _ _ ?_ (fun _ hI => ?_)))

@[simp] theorem execRclkLockLoss_inv (s : State) (hI : s.Inv) : ResInv (execRclkLockLoss s) := by
  unfold execRclkLockLoss
  repeat' (first | (simp (maxDischargeDepth := 60) [hI]; done) | split)

@[simp] theorem execSparePortBind_inv (s : State) (hI : s.Inv) : ResInv (execSparePortBind s) := by
  unfold execSparePortBind
  try dsimp only
  repeat' (first | (simp (maxDischargeDepth := 60) [hI]; done) | (simp (maxDischargeDepth := 60) (contextual := true) [hI]; done) | split |
    (refine foldl_inv (fun _ _ hI => ?_) _ _ ?_) | (refine State.eachOf_inv _ _ _ ?_ (fun _ hI => ?_)))

end Sys2Proof.Machine
end

