-- ==== Sys2Proof/Laws/InvIssue.lean ====
section
/-! SUPPORT. The invariant of the machine is kept by fetch, issue, the scheduler and the scalar instructions (R5, R12; log 4). -/

namespace Sys2Proof.Machine

set_option linter.unusedSimpArgs false
set_option linter.unusedVariables false
set_option linter.unreachableTactic false
set_option linter.unusedTactic false

@[simp] theorem State.lateRetry_inv (s : State) (spare : Dom) (c : Nat) (hI : s.Inv) : (State.lateRetry s spare c).Inv := by
  unfold State.lateRetry
  repeat' (first | (simp (maxDischargeDepth := 60) [hI]; done) | split)

@[simp] theorem State.quotaCheckStop_inv (s : State) (hI : s.Inv) : (State.quotaCheckStop s).Inv := by
  unfold State.quotaCheckStop
  repeat' (first | (simp (maxDischargeDepth := 60) [hI]; done) | split)

@[simp] theorem State.pager_inv (s : State) (hI : s.Inv) : (State.pager s).Inv := by
  unfold State.pager
  exact ite_inv (State.strandFault_inv _ _ hI) (ite_inv (State.returnTrap_inv _ hI) (State.emit_inv _ _ _ (State.waitFor_inv _ _ hI)))

@[simp] theorem State.askLine_inv (s : State) (line : Nat) (hI : s.Inv) : (State.askLine s line).Inv := by
  unfold State.askLine
  try dsimp only
  repeat' (first | (simp (maxDischargeDepth := 60) [hI]; done) | (simp (maxDischargeDepth := 60) (contextual := true) [hI]; done) | split |
    (refine foldl_inv ?_ _ _ ?_; intro _ _ hI))

@[simp] theorem State.missLine_inv (s : State) (line : Nat) (hI : s.Inv) : (State.missLine s line).Inv := by
  unfold State.missLine
  try dsimp only
  repeat' (first | (simp (maxDischargeDepth := 60) [hI]; done) | (simp (maxDischargeDepth := 60) (contextual := true) [hI]; done) | split |
    (refine foldl_inv (fun _ _ hI => ?_) _ _ ?_) | (refine State.eachOf_inv _ _ _ ?_ (fun _ hI => ?_)))

@[simp] theorem State.numbered_inv (s : State) (hI : s.Inv) : (State.numbered s).Inv := by
  exact hI

@[simp] theorem State.formed_inv (s : State) (l : List Word) (hI : s.Inv) : (State.formed s l).Inv := by
  exact hI

@[simp] theorem State.outsideTrap_inv (s : State) (k : Nat) (hI : s.Inv) : (State.outsideTrap s k).Inv := by
  unfold State.outsideTrap
  simp (maxDischargeDepth := 60) [hI]

@[simp] theorem execBundleFetch_inv (s0 : State) (hI : s0.Inv) : ResInv (execBundleFetch s0) := by
  unfold execBundleFetch
  try dsimp only
  repeat' (first | (simp (maxDischargeDepth := 60) [hI]; done) | (simp (maxDischargeDepth := 60) (contextual := true) [hI]; done) | split |
    (refine foldl_inv (fun _ _ hI => ?_) _ _ ?_) | (refine State.eachOf_inv _ _ _ ?_ (fun _ hI => ?_)))

@[simp] theorem State.atSyl_inv (s : State) (l : List (Option Syl)) (k : Nat) (hI : s.Inv) : (State.atSyl s l k).Inv := by
  unfold State.atSyl
  simp (maxDischargeDepth := 60) [hI]

@[simp] theorem State.opened_inv (s : State) (l : List (Nat × Instr)) (hI : s.Inv) : (State.opened s l).Inv := by
  unfold State.opened
  repeat' (first | (simp (maxDischargeDepth := 60) [hI]; done) | split)

@[simp] theorem State.wakeFor_inv (s : State) (l : List (Nat × Instr)) (hI : s.Inv) : (State.wakeFor s l).Inv := by
  unfold State.wakeFor
  try dsimp only
  repeat' (first | (simp (maxDischargeDepth := 60) [hI]; done) | (simp (maxDischargeDepth := 60) (contextual := true) [hI]; done) | split |
    (refine foldl_inv (fun _ _ hI => ?_) _ _ ?_) | (refine State.eachOf_inv _ _ _ ?_ (fun _ hI => ?_)))

@[simp] theorem State.engage_inv (s : State) (k : Nat) (hI : s.Inv) : (State.engage s k).Inv := by
  unfold State.engage
  try dsimp only
  repeat' (first | (simp (maxDischargeDepth := 60) [hI]; done) | (simp (maxDischargeDepth := 60) (contextual := true) [hI]; done) | split |
    (refine foldl_inv ?_ _ _ ?_; intro _ _ hI))

@[simp] theorem State.keepClass_inv (s : State) (i : Instr) (hI : s.Inv) : (State.keepClass s i).Inv := by
  unfold State.keepClass
  try dsimp only
  repeat' (first | (simp (maxDischargeDepth := 60) [hI]; done) | (simp (maxDischargeDepth := 60) (contextual := true) [hI]; done) | split |
    (refine foldl_inv ?_ _ _ ?_; intro _ _ hI))

/-- Every meaning keeps the invariant. -/
def ExecInv (exec : Instr → State → Res) : Prop := ∀ i s, s.Inv → ResInv (exec i s)

theorem issueOne_inv {exec : Instr → State → Res} (hx : ExecInv exec) (q : List (Option Syl)) (r : Res) (x : Nat × Instr) (h : ResInv r) :
    ResInv (issueOne exec q r x) := by
  unfold issueOne
  split
  · refine hx _ _ (State.keepClass_inv _ _ (State.atSyl_inv _ _ _ ?_))
    split
    · exact State.engage_inv _ _ h
    · exact h
  · exact h

theorem issueFold_inv {exec : Instr → State → Res} (hx : ExecInv exec) (q : List (Option Syl)) :
    ∀ (l : List (Nat × Instr)) (r : Res), ResInv r → ResInv (l.foldl (issueOne exec q) r)
  | [], _, h => h
  | x :: l, r, h => issueFold_inv hx q l _ (issueOne_inv hx q r x h)

@[simp] theorem State.settled_inv (s : State) (hI : s.Inv) : (State.settled s).Inv := by
  unfold State.settled
  try dsimp only
  repeat' (first | (simp (maxDischargeDepth := 60) [hI]; done) | (simp (maxDischargeDepth := 60) (contextual := true) [hI]; done) | split |
    (refine foldl_inv (fun _ _ hI => ?_) _ _ ?_) | (refine State.eachOf_inv _ _ _ ?_ (fun _ hI => ?_)))

theorem issueWhole_inv {exec : Instr → State → Res} (hx : ExecInv exec) (q : List (Option Syl)) (eff : List (Nat × Instr)) (s : State)
    (hI : s.Inv) : ResInv (issueWhole exec q eff s) := by
  unfold issueWhole
  extract_lets s1
  have h1 : s1.Inv := State.fetchAt_inv _ _ (updSt_free (State.chargeAt_inv _ _ _ hI))
  clear_value s1
  have hf := issueFold_inv hx q ([0, 1, 2].flatMap fun k => eff.filter fun x => stageOf x.2 == k) (.next s1) h1
  split
  · next e => rw [e] at hf; exact State.settled_inv _ hf
  · exact hf

theorem issueReady_inv {exec : Instr → State → Res} (hx : ExecInv exec) (q : List (Option Syl)) (eff : List (Nat × Instr)) (s : State)
    (hI : s.Inv) : ResInv (issueReady exec q eff s) := by
  have hw := issueWhole_inv hx q eff s hI
  unfold issueReady
  split
  · simp [hI]
  · repeat' (first | exact hw | (simp [hI]; done) | (dsimp only; split) | split)

theorem issueAll_inv {exec : Instr → State → Res} (hx : ExecInv exec) (s : State) (hI : s.Inv) : ResInv (issueAll exec s) := by
  unfold issueAll
  dsimp only
  split
  · exact State.fetchAt_inv _ _ (State.wakeFor_inv _ _ hI)
  · split
    · next x _ =>
      have h := hx x.2 (s.atSyl s.issueQ x.1) (State.atSyl_inv _ _ _ hI)
      split
      · next e => rw [e] at h; exact h
      · exact h
    · exact issueReady_inv hx _ _ s hI

@[simp] theorem State.enter_inv (s : State) (e : Ev) (hI : s.Inv) : (State.enter s e).Inv := by
  unfold State.enter
  have h := State.focus_inv s e.atoll hI
  refine State.updA_inv.mpr ⟨h.host_wf, h.dev_canon, h.evlog_wf, Atoll.rotate_canon _ _ (Atoll.settle_canon _ _ h.a_canon), h.others_canon, ?_⟩
  rw [Atoll.rotate_n _ _ (Atoll.settle_canon _ _ h.a_canon), Atoll.settle_n]
  exact h.numbered

@[simp] theorem State.take_inv (s : State) (e : Ev) (r : List Ev) (hI : s.Inv) : (State.take s e r).Inv :=
  State.enter_inv _ _ hI

@[simp] theorem State.lateCycle_inv (s : State) (held : Bool) (b : Option Late) (code : Nat) (hI : s.Inv) :
    (State.lateCycle s held b code).Inv := by
  unfold State.lateCycle
  extract_lets s1 s2
  have h1 : s1.Inv := ite_inv (State.updSt_inv hI) hI
  clear_value s1
  refine State.lateOf_inv _ _ _ ?_
  dsimp only [s2]
  split
  · split
    · exact State.askLine_inv _ _ (State.wakeFor_inv _ _ h1)
    · exact State.wakeFor_inv _ _ h1
  · exact h1

theorem regionLook_inv (exec : Instr → State → Res) (s : State) (hI : s.Inv) : (regionLook exec s).Inv := by
  unfold regionLook
  split
  · exact hI
  · have h : (s.lookAt (s.coreT 1)).Inv := State.agenda_inv _ _ hI
    generalize s.lookAt (s.coreT 1) = s1 at h
    extract_lets s2 p b own
    clear_value own b p
    split
    · exact h
    · exact State.lateCycle_inv _ _ _ _ h

theorem afterStep_inv {exec : Instr → State → Res} (hx : ExecInv exec) (i : Instr) (s : State) (hI : s.Inv) :
    ResInv (afterStep exec i s) := by
  unfold afterStep
  repeat' split
  · exact issueAll_inv hx s hI
  · exact regionLook_inv _ _ hI
  · exact hI

@[simp] theorem scalar3_inv (l : Nat) (f : Word → Word → Word) (o : R3) (s : State) (hI : s.Inv) : (scalar3 l f o s).Inv := by
  unfold scalar3
  simp (maxDischargeDepth := 60) [hI]

@[simp] theorem scalarImm_inv (f : Word → Word → Word) (o : I3) (s : State) (hI : s.Inv) : (scalarImm f o s).Inv := by
  unfold scalarImm
  simp (maxDischargeDepth := 60) [hI]

@[simp] theorem scalarShift_inv (f : Word → Nat → Word) (o : ISh) (s : State) (hI : s.Inv) : (scalarShift f o s).Inv := by
  unfold scalarShift
  simp (maxDischargeDepth := 60) [hI]

@[simp] theorem execAdd_inv (o : R3) (s : State) (hI : s.Inv) : ResInv (execAdd o s) := by
  unfold execAdd
  simp (maxDischargeDepth := 60) [hI]

@[simp] theorem execSub_inv (o : R3) (s : State) (hI : s.Inv) : ResInv (execSub o s) := by
  unfold execSub
  simp (maxDischargeDepth := 60) [hI]

@[simp] theorem execAnd_inv (o : R3) (s : State) (hI : s.Inv) : ResInv (execAnd o s) := by
  unfold execAnd
  simp (maxDischargeDepth := 60) [hI]

@[simp] theorem execOr_inv (o : R3) (s : State) (hI : s.Inv) : ResInv (execOr o s) := by
  unfold execOr
  simp (maxDischargeDepth := 60) [hI]

@[simp] theorem execXor_inv (o : R3) (s : State) (hI : s.Inv) : ResInv (execXor o s) := by
  unfold execXor
  simp (maxDischargeDepth := 60) [hI]

@[simp] theorem execAndn_inv (o : R3) (s : State) (hI : s.Inv) : ResInv (execAndn o s) := by
  unfold execAndn
  simp (maxDischargeDepth := 60) [hI]

@[simp] theorem execShl_inv (o : R3) (s : State) (hI : s.Inv) : ResInv (execShl o s) := by
  unfold execShl
  simp (maxDischargeDepth := 60) [hI]

@[simp] theorem execShr_inv (o : R3) (s : State) (hI : s.Inv) : ResInv (execShr o s) := by
  unfold execShr
  simp (maxDischargeDepth := 60) [hI]

@[simp] theorem execSra_inv (o : R3) (s : State) (hI : s.Inv) : ResInv (execSra o s) := by
  unfold execSra
  simp (maxDischargeDepth := 60) [hI]

@[simp] theorem execMul_inv (o : R3) (s : State) (hI : s.Inv) : ResInv (execMul o s) := by
  unfold execMul
  simp (maxDischargeDepth := 60) [hI]

@[simp] theorem execMulh_inv (o : R3) (s : State) (hI : s.Inv) : ResInv (execMulh o s) := by
  unfold execMulh
  simp (maxDischargeDepth := 60) [hI]

@[simp] theorem execMulhu_inv (o : R3) (s : State) (hI : s.Inv) : ResInv (execMulhu o s) := by
  unfold execMulhu
  simp (maxDischargeDepth := 60) [hI]

@[simp] theorem execDiv_inv (o : R3) (s : State) (hI : s.Inv) : ResInv (execDiv o s) := by
  unfold execDiv
  simp (maxDischargeDepth := 60) [hI]

@[simp] theorem execDivu_inv (o : R3) (s : State) (hI : s.Inv) : ResInv (execDivu o s) := by
  unfold execDivu
  simp (maxDischargeDepth := 60) [hI]

@[simp] theorem execRem_inv (o : R3) (s : State) (hI : s.Inv) : ResInv (execRem o s) := by
  unfold execRem
  simp (maxDischargeDepth := 60) [hI]

@[simp] theorem execMin_inv (o : R3) (s : State) (hI : s.Inv) : ResInv (execMin o s) := by
  unfold execMin
  simp (maxDischargeDepth := 60) [hI]

@[simp] theorem execMax_inv (o : R3) (s : State) (hI : s.Inv) : ResInv (execMax o s) := by
  unfold execMax
  simp (maxDischargeDepth := 60) [hI]

@[simp] theorem execMinu_inv (o : R3) (s : State) (hI : s.Inv) : ResInv (execMinu o s) := by
  unfold execMinu
  simp (maxDischargeDepth := 60) [hI]

@[simp] theorem execMaxu_inv (o : R3) (s : State) (hI : s.Inv) : ResInv (execMaxu o s) := by
  unfold execMaxu
  simp (maxDischargeDepth := 60) [hI]

@[simp] theorem execClz_inv (o : R2) (s : State) (hI : s.Inv) : ResInv (execClz o s) := by
  unfold execClz
  simp (maxDischargeDepth := 60) [hI]

@[simp] theorem execPopc_inv (o : R2) (s : State) (hI : s.Inv) : ResInv (execPopc o s) := by
  unfold execPopc
  simp (maxDischargeDepth := 60) [hI]

@[simp] theorem execSel_inv (o : RSel) (s : State) (hI : s.Inv) : ResInv (execSel o s) := by
  unfold execSel
  simp (maxDischargeDepth := 60) [hI]

@[simp] theorem execCmpeq_inv (o : RCmp) (s : State) (hI : s.Inv) : ResInv (execCmpeq o s) := by
  unfold execCmpeq
  simp (maxDischargeDepth := 60) [hI]

@[simp] theorem execCmpne_inv (o : RCmp) (s : State) (hI : s.Inv) : ResInv (execCmpne o s) := by
  unfold execCmpne
  simp (maxDischargeDepth := 60) [hI]

@[simp] theorem execCmplt_inv (o : RCmp) (s : State) (hI : s.Inv) : ResInv (execCmplt o s) := by
  unfold execCmplt
  simp (maxDischargeDepth := 60) [hI]

@[simp] theorem execCmpltu_inv (o : RCmp) (s : State) (hI : s.Inv) : ResInv (execCmpltu o s) := by
  unfold execCmpltu
  simp (maxDischargeDepth := 60) [hI]

@[simp] theorem execCmple_inv (o : RCmp) (s : State) (hI : s.Inv) : ResInv (execCmple o s) := by
  unfold execCmple
  simp (maxDischargeDepth := 60) [hI]

@[simp] theorem execCmpleu_inv (o : RCmp) (s : State) (hI : s.Inv) : ResInv (execCmpleu o s) := by
  unfold execCmpleu
  simp (maxDischargeDepth := 60) [hI]

@[simp] theorem execPand_inv (o : P3) (s : State) (hI : s.Inv) : ResInv (execPand o s) := by
  unfold execPand
  simp (maxDischargeDepth := 60) [hI]

@[simp] theorem execPor_inv (o : P3) (s : State) (hI : s.Inv) : ResInv (execPor o s) := by
  unfold execPor
  simp (maxDischargeDepth := 60) [hI]

@[simp] theorem execPnot_inv (o : P2) (s : State) (hI : s.Inv) : ResInv (execPnot o s) := by
  unfold execPnot
  simp (maxDischargeDepth := 60) [hI]

@[simp] theorem execAddi_inv (o : I3) (s : State) (hI : s.Inv) : ResInv (execAddi o s) := by
  unfold execAddi
  simp (maxDischargeDepth := 60) [hI]

@[simp] theorem execAndi_inv (o : I3) (s : State) (hI : s.Inv) : ResInv (execAndi o s) := by
  unfold execAndi
  simp (maxDischargeDepth := 60) [hI]

@[simp] theorem execOri_inv (o : I3) (s : State) (hI : s.Inv) : ResInv (execOri o s) := by
  unfold execOri
  simp (maxDischargeDepth := 60) [hI]

@[simp] theorem execXori_inv (o : I3) (s : State) (hI : s.Inv) : ResInv (execXori o s) := by
  unfold execXori
  simp (maxDischargeDepth := 60) [hI]

@[simp] theorem execShli_inv (o : ISh) (s : State) (hI : s.Inv) : ResInv (execShli o s) := by
  unfold execShli
  simp (maxDischargeDepth := 60) [hI]

@[simp] theorem execShri_inv (o : ISh) (s : State) (hI : s.Inv) : ResInv (execShri o s) := by
  unfold execShri
  simp (maxDischargeDepth := 60) [hI]

@[simp] theorem execSrai_inv (o : ISh) (s : State) (hI : s.Inv) : ResInv (execSrai o s) := by
  unfold execSrai
  simp (maxDischargeDepth := 60) [hI]

@[simp] theorem execLi_inv (o : ILi) (s : State) (hI : s.Inv) : ResInv (execLi o s) := by
  unfold execLi
  simp (maxDischargeDepth := 60) [hI]

@[simp] theorem execLih_inv (o : ILi) (s : State) (hI : s.Inv) : ResInv (execLih o s) := by
  unfold execLih
  simp (maxDischargeDepth := 60) [hI]

end Sys2Proof.Machine
end

