-- ==== Sys2Proof/Laws/InvExec.lean ====
section
/-! SUPPORT. The invariant of the machine is kept by the meaning of each instruction (R5, R12; log 4). -/

namespace Sys2Proof.Machine

/-- Every instruction keeps the invariant. -/
theorem exec_inv : ExecInv exec := by
  intro i s h
  cases i with
  | add o => exact execAdd_inv _ _ h
  | sub o => exact execSub_inv _ _ h
  | and o => exact execAnd_inv _ _ h
  | or o => exact execOr_inv _ _ h
  | xor o => exact execXor_inv _ _ h
  | andn o => exact execAndn_inv _ _ h
  | shl o => exact execShl_inv _ _ h
  | shr o => exact execShr_inv _ _ h
  | sra o => exact execSra_inv _ _ h
  | mul o => exact execMul_inv _ _ h
  | mulh o => exact execMulh_inv _ _ h
  | mulhu o => exact execMulhu_inv _ _ h
  | div o => exact execDiv_inv _ _ h
  | divu o => exact execDivu_inv _ _ h
  | rem o => exact execRem_inv _ _ h
  | min o => exact execMin_inv _ _ h
  | max o => exact execMax_inv _ _ h
  | minu o => exact execMinu_inv _ _ h
  | maxu o => exact execMaxu_inv _ _ h
  | clz o => exact execClz_inv _ _ h
  | popc o => exact execPopc_inv _ _ h
  | sel o => exact execSel_inv _ _ h
  | cmpeq o => exact execCmpeq_inv _ _ h
  | cmpne o => exact execCmpne_inv _ _ h
  | cmplt o => exact execCmplt_inv _ _ h
  | cmpltu o => exact execCmpltu_inv _ _ h
  | cmple o => exact execCmple_inv _ _ h
  | cmpleu o => exact execCmpleu_inv _ _ h
  | pand o => exact execPand_inv _ _ h
  | por o => exact execPor_inv _ _ h
  | pnot o => exact execPnot_inv _ _ h
  | addi o => exact execAddi_inv _ _ h
  | andi o => exact execAndi_inv _ _ h
  | ori o => exact execOri_inv _ _ h
  | xori o => exact execXori_inv _ _ h
  | shli o => exact execShli_inv _ _ h
  | shri o => exact execShri_inv _ _ h
  | srai o => exact execSrai_inv _ _ h
  | li o => exact execLi_inv _ _ h
  | lih o => exact execLih_inv _ _ h
  | br o => exact execBr_inv _ _ h
  | jmp o => exact execJmp_inv _ _ h
  | call o => exact execCall_inv _ _ h
  | ret o => exact execRet_inv _ _ h
  | loop o => exact execLoop_inv _ _ h
  | rgn o => exact execRgn_inv _ _ h
  | mfsr o => exact execMfsr_inv _ _ h
  | mtsr o => exact execMtsr_inv _ _ h
  | trap o => exact execTrap_inv _ _ h
  | iinvLine o => exact execIinvLine_inv _ _ h
  | iinvPage o => exact execIinvPage_inv _ _ h
  | rdgtc o => exact execRdgtc_inv _ _ h
  | brk o => exact execBrk_inv _ _ h
  | lds o => exact execLds_inv _ _ h
  | sts o => exact execSts_inv _ _ h
  | gld o => exact execGld_inv _ _ h
  | gst o => exact execGst_inv _ _ h
  | xlat o => exact execXlat_inv _ _ h
  | hinv o => exact execHinv_inv _ _ h
  | fence o => exact execFence_inv _ _ h
  | binit o => exact execBinit_inv _ _ h
  | arrive o => exact execArrive_inv _ _ h
  | bwait o => exact execBwait_inv _ _ h
  | btest o => exact execBtest_inv _ _ h
  | await o => exact execAwait_inv _ _ h
  | amoadd o => exact execAmoadd_inv _ _ h
  | amoxor o => exact execAmoxor_inv _ _ h
  | amomin o => exact execAmomin_inv _ _ h
  | amomax o => exact execAmomax_inv _ _ h
  | amoswp o => exact execAmoswp_inv _ _ h
  | amocas o => exact execAmocas_inv _ _ h
  | pfx o => exact execPfx_inv o _ h
  | vadd o => exact execVadd_inv _ _ h
  | evadd o => exact execEvadd_inv _ _ h
  | vsub o => exact execVsub_inv _ _ h
  | evsub o => exact execEvsub_inv _ _ h
  | vmac o => exact execVmac_inv _ _ h
  | evmac o => exact execEvmac_inv _ _ h
  | vmas o => exact execVmas_inv _ _ h
  | evmas o => exact execEvmas_inv _ _ h
  | vneg o => exact execVneg_inv _ _ h
  | evneg o => exact execEvneg_inv _ _ h
  | vnot o => exact execVnot_inv _ _ h
  | evnot o => exact execEvnot_inv _ _ h
  | vxor o => exact execVxor_inv _ _ h
  | evxor o => exact execEvxor_inv _ _ h
  | vxand o => exact execVxand_inv _ _ h
  | evxand o => exact execEvxand_inv _ _ h
  | vswap o => exact execVswap_inv _ _ h
  | vcswap o => exact execVcswap_inv _ _ h
  | vshl o => exact execVshl_inv _ _ h
  | evshl o => exact execEvshl_inv _ _ h
  | vshr o => exact execVshr_inv _ _ h
  | evshr o => exact execEvshr_inv _ _ h
  | vsra o => exact execVsra_inv _ _ h
  | evsra o => exact execEvsra_inv _ _ h
  | vrotl o => exact execVrotl_inv _ _ h
  | evrotl o => exact execEvrotl_inv _ _ h
  | vand o => exact execVand_inv _ _ h
  | evand o => exact execEvand_inv _ _ h
  | vor o => exact execVor_inv _ _ h
  | evor o => exact execEvor_inv _ _ h
  | vmin o => exact execVmin_inv _ _ h
  | evmin o => exact execEvmin_inv _ _ h
  | vmax o => exact execVmax_inv _ _ h
  | evmax o => exact execEvmax_inv _ _ h
  | vabs o => exact execVabs_inv _ _ h
  | evabs o => exact execEvabs_inv _ _ h
  | vmul o => exact execVmul_inv _ _ h
  | evmul o => exact execEvmul_inv _ _ h
  | vpopc o => exact execVpopc_inv _ _ h
  | evpopc o => exact execEvpopc_inv _ _ h
  | vclz o => exact execVclz_inv _ _ h
  | evclz o => exact execEvclz_inv _ _ h
  | vcmpeq o => exact execVcmpeq_inv _ _ h
  | evcmpeq o => exact execEvcmpeq_inv _ _ h
  | vcmplt o => exact execVcmplt_inv _ _ h
  | evcmplt o => exact execEvcmplt_inv _ _ h
  | vcmple o => exact execVcmple_inv _ _ h
  | evcmple o => exact execEvcmple_inv _ _ h
  | vsel o => exact execVsel_inv _ _ h
  | evsel o => exact execEvsel_inv _ _ h
  | vassz o => exact execVassz_inv _ _ h
  | vzmask o => exact execVzmask_inv _ _ h
  | evzmask o => exact execEvzmask_inv _ _ h
  | vfadd o => exact execVfadd_inv _ _ h
  | evfadd o => exact execEvfadd_inv _ _ h
  | vfsub o => exact execVfsub_inv _ _ h
  | evfsub o => exact execEvfsub_inv _ _ h
  | vfmul o => exact execVfmul_inv _ _ h
  | evfmul o => exact execEvfmul_inv _ _ h
  | vfma o => exact execVfma_inv _ _ h
  | evfma o => exact execEvfma_inv _ _ h
  | vfmin o => exact execVfmin_inv _ _ h
  | evfmin o => exact execEvfmin_inv _ _ h
  | vfmax o => exact execVfmax_inv _ _ h
  | evfmax o => exact execEvfmax_inv _ _ h
  | vfneg o => exact execVfneg_inv _ _ h
  | evfneg o => exact execEvfneg_inv _ _ h
  | vfabs o => exact execVfabs_inv _ _ h
  | evfabs o => exact execEvfabs_inv _ _ h
  | vfrcp o => exact execVfrcp_inv _ _ h
  | evfrcp o => exact execEvfrcp_inv _ _ h
  | vfrsq o => exact execVfrsq_inv _ _ h
  | evfrsq o => exact execEvfrsq_inv _ _ h
  | vfexp2 o => exact execVfexp2_inv _ _ h
  | evfexp2 o => exact execEvfexp2_inv _ _ h
  | vflog2 o => exact execVflog2_inv _ _ h
  | evflog2 o => exact execEvflog2_inv _ _ h
  | vftanh o => exact execVftanh_inv _ _ h
  | evftanh o => exact execEvftanh_inv _ _ h
  | vfcmp o => exact execVfcmp_inv _ _ h
  | evfcmp o => exact execEvfcmp_inv _ _ h
  | vcvt o => exact execVcvt_inv _ _ h
  | evcvt o => exact execEvcvt_inv _ _ h
  | vcvr o => exact execVcvr_inv _ _ h
  | evcvr o => exact execEvcvr_inv _ _ h
  | vmerge o => exact execVmerge_inv _ _ h
  | evmerge o => exact execEvmerge_inv _ _ h
  | vshoal o => exact execVshoal_inv _ _ h
  | evshoal o => exact execEvshoal_inv _ _ h
  | vscale o => exact execVscale_inv _ _ h
  | evscale o => exact execEvscale_inv _ _ h
  | vbpenc o => exact execVbpenc_inv _ _ h
  | evbpenc o => exact execEvbpenc_inv _ _ h
  | vbpdec o => exact execVbpdec_inv _ _ h
  | evbpdec o => exact execEvbpdec_inv _ _ h
  | vredadd o => exact execVredadd_inv _ _ h
  | evredadd o => exact execEvredadd_inv _ _ h
  | vredmax o => exact execVredmax_inv _ _ h
  | evredmax o => exact execEvredmax_inv _ _ h
  | vredmin o => exact execVredmin_inv _ _ h
  | evredmin o => exact execEvredmin_inv _ _ h
  | vscan o => exact execVscan_inv _ _ h
  | evscan o => exact execEvscan_inv _ _ h
  | vld o => exact execVld_inv _ _ h
  | evld o => exact execEvld_inv _ _ h
  | vst o => exact execVst_inv _ _ h
  | evst o => exact execEvst_inv _ _ h
  | vldx o => exact execVldx_inv _ _ h
  | evldx o => exact execEvldx_inv _ _ h
  | vperm o => exact execVperm_inv _ _ h
  | evperm o => exact execEvperm_inv _ _ h
  | vrmg o => exact execVrmg_inv _ _ h
  | evrmg o => exact execEvrmg_inv _ _ h
  | vbcast o => exact execVbcast_inv _ _ h
  | evbcast o => exact execEvbcast_inv _ _ h
  | vext o => exact execVext_inv _ _ h
  | vins o => exact execVins_inv _ _ h
  | evins o => exact execEvins_inv _ _ h
  | hpush o => exact execHpush_inv _ _ h
  | hpop o => exact execHpop_inv _ _ h
  | mand o => exact execMand_inv _ _ h
  | emand o => exact execEmand_inv _ _ h
  | mor o => exact execMor_inv _ _ h
  | emor o => exact execEmor_inv _ _ h
  | mnot o => exact execMnot_inv _ _ h
  | emnot o => exact execEmnot_inv _ _ h
  | mringSet o => exact execMringSet_inv _ _ h
  | mringRead o => exact execMringRead_inv _ _ h
  | mringLoad o => exact execMringLoad_inv _ _ h
  | mtail o => exact execMtail_inv _ _ h
  | fmtq o => exact execFmtq_inv _ _ h
  | mwld o => exact execMwld_inv _ _ h
  | mmacr o => exact execMmacr_inv _ _ h
  | mmasr o => exact execMmasr_inv _ _ h
  | emmul o => exact execEmmul_inv _ _ h
  | emfma o => exact execEmfma_inv _ _ h
  | emclr o => exact execEmclr_inv _ _ h
  | rtqr o => exact execRtqr_inv _ _ h
  | rtapl o => exact execRtapl_inv _ _ h
  | rtinvQr o => exact execRtinvQr_inv _ _ h
  | rtinvApl o => exact execRtinvApl_inv _ _ h
  | rtsolve o => exact execRtsolve_inv _ _ h
  | rtrd o => exact execRtrd_inv _ _ h
  | rtwr o => exact execRtwr_inv _ _ h
  | rtgainSet o => exact execRtgainSet_inv _ _ h
  | rtgainRead o => exact execRtgainRead_inv _ _ h
  | ertclr o => exact execErtclr_inv _ _ h
  | cpy o => exact execCpy_inv _ _ h
  | cpyx o => exact execCpyx_inv _ _ h
  | cpycPack o => exact execCpycPack_inv _ _ h
  | cpycUnpack o => exact execCpycUnpack_inv _ _ h
  | cpyg o => exact execCpyg_inv _ _ h
  | cpys o => exact execCpys_inv _ _ h
  | cpyz o => exact execCpyz_inv _ _ h
  | cpyv o => exact execCpyv_inv _ _ h
  | ppcmp o => exact execPpcmp_inv _ _ h
  | lsend o => exact execLsend_inv _ _ h
  | lrecv o => exact execLrecv_inv _ _ h
  | lradd o => exact execLradd_inv _ _ h
  | lcancel o => exact execLcancel_inv _ _ h
  | lprec o => exact execLprec_inv _ _ h
  | lwprec o => exact execLwprec_inv _ _ h
  | nmc o => exact execNmc_inv _ _ h
  | wake o => exact execWake_inv _ _ h
  | gate o => exact execGate_inv _ _ h
  | clkdiv o => exact execClkdiv_inv _ _ h
  | rdmeterUsed o => exact execRdmeterUsed_inv _ _ h
  | rdmeterBal o => exact execRdmeterBal_inv _ _ h
  | dsync o => exact execDsync_inv _ _ h
  | xsend o => exact execXsend_inv _ _ h
  | xrecv o => exact execXrecv_inv _ _ h
  | idle => exact execIdle_inv _ h
  | rgnend => exact execRgnend_inv _ h
  | rti => exact execRti_inv _ h
  | halt => exact execHalt_inv _ h
  | iinvAll => exact execIinvAll_inv _ h
  | realign => exact execRealign_inv _ h
  | bundleFetch => exact execBundleFetch_inv _ h
  | scalarResultLand => exact execScalarResultLand_inv _ h
  | vectorResultLand => exact execVectorResultLand_inv _ h
  | regionOverrun => exact execRegionOverrun_inv _ h
  | pendingDataTrap => exact execPendingDataTrap_inv _ h
  | strandEvent => exact execStrandEvent_inv _ h
  | idleTimeout => exact execIdleTimeout_inv _ h
  | awaitTimeout => exact execAwaitTimeout_inv _ h
  | scalarStationAccess => exact execScalarStationAccess_inv _ h
  | scalarRowReturn => exact execScalarRowReturn_inv _ h
  | remoteAccessArrival => exact execRemoteAccessArrival_inv _ h
  | remoteReply => exact execRemoteReply_inv _ h
  | barrierArrival => exact execBarrierArrival_inv _ h
  | arriveOutcome => exact execArriveOutcome_inv _ h
  | fenceComplete => exact execFenceComplete_inv _ h
  | xlatWalkDone => exact execXlatWalkDone_inv _ h
  | rdmeterDrainDone => exact execRdmeterDrainDone_inv _ h
  | strandStop => exact execStrandStop_inv _ h
  | istoreFill => exact execIstoreFill_inv _ h
  | historyTransferDone => exact execHistoryTransferDone_inv _ h
  | clockHandover => exact execClockHandover_inv _ h
  | engineGate => exact execEngineGate_inv _ h
  | engineWakeDone => exact execEngineWakeDone_inv _ h
  | lagoonHoldBegin => exact execLagoonHoldBegin_inv _ h
  | lagoonHoldEnd => exact execLagoonHoldEnd_inv _ h
  | railChange => exact execRailChange_inv _ h
  | realignRelease => exact execRealignRelease_inv _ h
  | dsyncRelease => exact execDsyncRelease_inv _ h
  | xsendDepart => exact execXsendDepart_inv _ h
  | xrecvArrival => exact execXrecvArrival_inv _ h
  | exchangeReceiveTimeout => exact execExchangeReceiveTimeout_inv _ h
  | exchangeFaultTaken => exact execExchangeFaultTaken_inv _ h
  | vldRowRead => exact execVldRowRead_inv _ h
  | vldDeposit => exact execVldDeposit_inv _ h
  | vstRowWrite => exact execVstRowWrite_inv _ h
  | matrixActivationRead => exact execMatrixActivationRead_inv _ h
  | matrixAccumulatorRead => exact execMatrixAccumulatorRead_inv _ h
  | matrixWeightCapture => exact execMatrixWeightCapture_inv _ h
  | weightLoadChange => exact execWeightLoadChange_inv _ h
  | matrixWriteback => exact execMatrixWriteback_inv _ h
  | matrixRetire => exact execMatrixRetire_inv _ h
  | rotatorRowRead => exact execRotatorRowRead_inv _ h
  | rotatorRowWrite => exact execRotatorRowWrite_inv _ h
  | rotatorQuietEvent => exact execRotatorQuietEvent_inv _ h
  | rotatorRetire => exact execRotatorRetire_inv _ h
  | copyStart => exact execCopyStart_inv _ h
  | copyBurst => exact execCopyBurst_inv _ h
  | copyRow => exact execCopyRow_inv _ h
  | reefStreamRow => exact execReefStreamRow_inv _ h
  | gmAccess => exact execGmAccess_inv _ h
  | reefAtomic => exact execReefAtomic_inv _ h
  | nmcReefCheck => exact execNmcReefCheck_inv _ h
  | nmcRowUpdate => exact execNmcRowUpdate_inv _ h
  | accessCounterNotify => exact execAccessCounterNotify_inv _ h
  | patrolScrub => exact execPatrolScrub_inv _ h
  | refreshInterval => exact execRefreshInterval_inv _ h
  | layerTempSample => exact execLayerTempSample_inv _ h
  | scriptWord => exact execScriptWord_inv _ h
  | dynWindowEnd => exact execDynWindowEnd_inv _ h
  | channelFail => exact execChannelFail_inv _ h
  | straitFrameReceive => exact execStraitFrameReceive_inv _ h
  | replayRequest => exact execReplayRequest_inv _ h
  | rclkLockLoss => exact execRclkLockLoss_inv _ h
  | tileHeaderArrival => exact execTileHeaderArrival_inv _ h
  | planeLanded => exact execPlaneLanded_inv _ h
  | relayPlaneSend => exact execRelayPlaneSend_inv _ h
  | cancelMessage => exact execCancelMessage_inv _ h
  | endMessage => exact execEndMessage_inv _ h
  | linkCommandArrive => exact execLinkCommandArrive_inv _ h
  | revokePage => exact execRevokePage_inv _ h
  | revocationComplete => exact execRevocationComplete_inv _ h
  | pasidTeardown => exact execPasidTeardown_inv _ h
  | junctionTempReport => exact execJunctionTempReport_inv _ h
  | preemptRequest => exact execPreemptRequest_inv _ h
  | drainComplete => exact execDrainComplete_inv _ h
  | ladderT1Expiry => exact execLadderT1Expiry_inv _ h
  | saveComplete => exact execSaveComplete_inv _ h
  | ladderT2Expiry => exact execLadderT2Expiry_inv _ h
  | schedulerPlace => exact execSchedulerPlace_inv _ h
  | blockerTimeout => exact execBlockerTimeout_inv _ h
  | placementClaim => exact execPlacementClaim_inv _ h
  | claimWithdraw => exact execClaimWithdraw_inv _ h
  | memberReport => exact execMemberReport_inv _ h
  | memberReportTimeout => exact execMemberReportTimeout_inv _ h
  | launchEnd => exact execLaunchEnd_inv _ h
  | strandFaultEnd => exact execStrandFaultEnd_inv _ h
  | qtailDoorbell => exact execQtailDoorbell_inv _ h
  | nop => exact execNop_inv _ h
  | launch => exact execLaunch_inv _ h
  | launchResume => exact execLaunchResume_inv _ h
  | harvest => exact execHarvest_inv _ h
  | migdone => exact execMigdone_inv _ h
  | ccadd => exact execCcadd_inv _ h
  | ccdel => exact execCcdel_inv _ h
  | qcfgWrite => exact execQcfgWrite_inv _ h
  | cheadWrite => exact execCheadWrite_inv _ h
  | qctlPreempt => exact execQctlPreempt_inv _ h
  | qctlRelease => exact execQctlRelease_inv _ h
  | qctlGrant => exact execQctlGrant_inv _ h
  | qctlReenable => exact execQctlReenable_inv _ h
  | qmapWrite => exact execQmapWrite_inv _ h
  | devctlCold => exact execDevctlCold_inv _ h
  | devctlWarm => exact execDevctlWarm_inv _ h
  | powerOn => exact execPowerOn_inv _ h
  | startDone => exact execStartDone_inv _ h
  | fwupdGo => exact execFwupdGo_inv _ h
  | firmwareUpdateDone => exact execFirmwareUpdateDone_inv _ h
  | dbgctlStop => exact execDbgctlStop_inv _ h
  | dbgctlBrken => exact execDbgctlBrken_inv _ h
  | dbgctlResume => exact execDbgctlResume_inv _ h
  | dbgdataRead => exact execDbgdataRead_inv _ h
  | dbgdataWrite => exact execDbgdataWrite_inv _ h
  | readClear => exact execReadClear_inv _ h
  | registerWrite => exact execRegisterWrite_inv _ h
  | ageUpdate => exact execAgeUpdate_inv _ h
  | pairMismatch => exact execPairMismatch_inv _ h
  | workerFault => exact execWorkerFault_inv _ h
  | supplyFault => exact execSupplyFault_inv _ h
  | powerLoss => exact execPowerLoss_inv _ h
  | sparePortBind => exact execSparePortBind_inv _ h
  | planeSent => exact execPlaneSent_inv _ h
  | pageRequestResponse => exact execPageRequestResponse_inv _ h
  | atsTranslationResponse => exact execAtsTranslationResponse_inv _ h
  | hostLinkRetrain => exact execHostLinkRetrain_inv _ h
  | spdmRequest => exact execSpdmRequest_inv _ h
  | tdispRequest => exact execTdispRequest_inv _ h
  | graphImageLoad => exact execGraphImageLoad_inv _ h
  | memberLoad => exact execMemberLoad_inv _ h
  | memoryAssignment => exact execMemoryAssignment_inv _ h
  | pasidAssignment => exact execPasidAssignment_inv _ h
  | retirementRecordWrite => exact execRetirementRecordWrite_inv _ h

end Sys2Proof.Machine
end

