-- ==== Sys2Proof/Laws/PerInstr.lean ====
section
/-! SUPPORT. Decoding undoes encoding, instruction by instruction (R30, R31, R38 to R69). -/

set_option linter.unusedSimpArgs false

namespace Sys2Proof

/-- The fields of a word made of S, class, opcode and an operand field of 51 bits (R30). -/
theorem header_fields (b c op r : Nat) (hb : b < 2) (hc : c < 16) (ho : op < 256) (hr : r < 2 ^ 51) :
    let x := b * 2 ^ 63 + (c * 2 ^ 59 + (op * 2 ^ 51 + r))
    x < 2 ^ 64 ∧ x / 2 ^ 59 % 16 = c ∧ x / 2 ^ 51 % 256 = op ∧ x % 2 ^ 51 = r := by
  intro x
  simp only [x]
  refine ⟨?_, ?_, ?_, ?_⟩ <;> omega

theorem pack_append_one : ∀ (l : List Fld) (w v : Nat), pack (l ++ [(w, v)]) = pack l * 2 ^ w + v % 2 ^ w
  | [], w, v => by simp [pack, fldWidth]
  | (a, b) :: r, w, v => by
    have e : fldWidth ((r ++ [(w, v)]).map (·.1)) = fldWidth (r.map (·.1)) + w := by
      induction r with
      | nil => simp [fldWidth]
      | cons x r ih => simp only [List.cons_append, List.map_cons, fldWidth, ih]; omega
    simp only [List.cons_append, pack, pack_append_one r, e, pow_add]
    ring

theorem fldWidth_append_one (l : List Fld) (w v : Nat) :
    fldWidth ((l ++ [(w, v)]).map (·.1)) = fldWidth (l.map (·.1)) + w := by
  induction l with
  | nil => simp [fldWidth]
  | cons x r ih => simp only [List.cons_append, List.map_cons, fldWidth, ih]; omega

/-- A syllable whose operand fields fill their place and decode to it is read back from its word. -/
theorem decode_encode_of (i : Instr) (g : Prd) (last : Bool) (c op : Nat) (l : List Fld) (hf : i.fields = some (c, op, l))
    (hc : c < 16) (ho : op < 256) (hw : fldWidth (l.map (·.1)) = if c ≤ 4 then 47 else 51)
    (hd : decodeOp c op (pack l) = some (some i)) (h : Syl.wf ⟨g, i⟩ = true) :
    decode (encode ⟨g, i⟩ last) = .ok ⟨g, i⟩ := by
  have hwf : i.wf = true := by
    simp only [Syl.wf, Bool.and_eq_true] at h
    exact h.1.2
  have hb : last.toNat < 2 := by cases last <;> decide
  have hl := pack_lt l
  have hgl := g.isLt
  by_cases h4 : c ≤ 4
  · rw [if_pos h4] at hw
    rw [hw] at hl
    have hr : pack l * 2 ^ 4 + g.toNat < 2 ^ 51 := by omega
    have e : (encode ⟨g, i⟩ last).toNat = last.toNat * 2 ^ 63 + (c * 2 ^ 59 + (op * 2 ^ 51 + (pack l * 2 ^ 4 + g.toNat))) := by
      have hx := (header_fields last.toNat c op _ hb hc ho hr).1
      simp only [encode, hf, if_pos h4, BitVec.toNat_ofNat, List.cons_append, pack, List.map_cons, fldWidth, pack_append_one,
        fldWidth_append_one, hw, Nat.mod_eq_of_lt hgl]
      rw [Nat.mod_eq_of_lt (show last.toNat < 2 ^ 1 from hb), Nat.mod_eq_of_lt (show c < 2 ^ 4 from hc),
        Nat.mod_eq_of_lt (show op < 2 ^ 8 from ho)]
      exact Nat.mod_eq_of_lt hx
    obtain ⟨-, h1, h2, h3⟩ := header_fields last.toNat c op _ hb hc ho hr
    have k1 : sylClass (encode ⟨g, i⟩ last) = c := by rw [sylClass, e]; exact h1
    have k2 : sylOpcode (encode ⟨g, i⟩ last) = op := by rw [sylOpcode, e]; exact h2
    have k3 : sylOperands (encode ⟨g, i⟩ last) = pack l := by rw [sylOperands, k1, if_pos h4, e, h3]; omega
    have k4 : sylGuard (encode ⟨g, i⟩ last) = g.toNat := by rw [sylGuard, k1, if_pos h4, e]; omega
    simp [decode, k1, k2, k3, k4, hd, hwf]
  · rw [if_neg h4] at hw
    rw [hw] at hl
    have e : (encode ⟨g, i⟩ last).toNat = last.toNat * 2 ^ 63 + (c * 2 ^ 59 + (op * 2 ^ 51 + pack l)) := by
      have hx := (header_fields last.toNat c op _ hb hc ho hl).1
      simp only [encode, hf, if_neg h4, BitVec.toNat_ofNat, List.append_nil, pack, List.map_cons, fldWidth, hw]
      rw [Nat.mod_eq_of_lt (show last.toNat < 2 ^ 1 from hb), Nat.mod_eq_of_lt (show c < 2 ^ 4 from hc),
        Nat.mod_eq_of_lt (show op < 2 ^ 8 from ho)]
      exact Nat.mod_eq_of_lt hx
    obtain ⟨-, h1, h2, h3⟩ := header_fields last.toNat c op _ hb hc ho hl
    have k1 : sylClass (encode ⟨g, i⟩ last) = c := by rw [sylClass, e]; exact h1
    have k2 : sylOpcode (encode ⟨g, i⟩ last) = op := by rw [sylOpcode, e]; exact h2
    have k3 : sylOperands (encode ⟨g, i⟩ last) = pack l := by rw [sylOperands, k1, if_neg h4, e, h3]
    have k4 : sylGuard (encode ⟨g, i⟩ last) = 0 := by rw [sylGuard, k1, if_neg h4]
    have hg : g = 0#4 := by
      simp only [Syl.wf, Instr.guarded, hf, decide_eq_false h4, Bool.false_or, Bool.and_eq_true, beq_iff_eq] at h
      exact h.2
    subst hg
    simp [decode, k1, k2, k3, k4, hd, hwf]

/-- A step that is no syllable is not well formed as one. -/
theorem not_wf_of_none (i : Instr) (g : Prd) (hf : i.fields = none) : Syl.wf ⟨g, i⟩ ≠ true := by
  simp [Syl.wf, Instr.isSyllable, hf]

/-- A form gives the operands that its fields hold. -/
theorem form_some {α : Type} {wid : List Nat} {get : List Nat → Option α} {c : α → Instr} {x : Nat} {o : α}
    (h : get (unpack wid x) = some o) : form wid get c x = some (c o) := by rw [form, h]; rfl

theorem form_none {α : Type} {wid : List Nat} {get : List Nat → Option α} {c : α → Instr} {x : Nat}
    (h : get (unpack wid x) = none) : form wid get c x = none := by rw [form, h]; rfl

theorem getIin1_fldsIin2 (o : SyA) : getIin1 (unpack widIin1 (pack (fldsIin2 o))) = none := by
  have h := unpack_pack (fldsIin2 o)
  simp only [fldsIin2, List.map_cons, List.map_nil, bvFld, boolFld, stampFld_fst] at h ⊢
  unfold widIin1
  rw [h]
  simp [getIin1]

theorem getMrset_fldsMrread (o : MRing1) : getMrset (unpack widMrset (pack (fldsMrread o))) = none := by
  have h := unpack_pack (fldsMrread o)
  simp only [fldsMrread, List.map_cons, List.map_nil, bvFld, boolFld, stampFld_fst] at h ⊢
  unfold widMrset
  rw [h]
  simp [getMrset]

theorem getMrset_fldsMrload (o : MRing1) : getMrset (unpack widMrset (pack (fldsMrload o))) = none := by
  have h := unpack_pack (fldsMrload o)
  simp only [fldsMrload, List.map_cons, List.map_nil, bvFld, boolFld, stampFld_fst] at h ⊢
  unfold widMrset
  rw [h]
  simp [getMrset]

theorem getMrread_fldsMrload (o : MRing1) : getMrread (unpack widMrread (pack (fldsMrload o))) = none := by
  have h := unpack_pack (fldsMrload o)
  simp only [fldsMrload, List.map_cons, List.map_nil, bvFld, boolFld, stampFld_fst] at h ⊢
  unfold widMrread
  rw [h]
  simp [getMrread]

theorem getRtinvq_fldsRtinva (o : RtaplOp) : getRtinvq (unpack widRtinvq (pack (fldsRtinva o))) = none := by
  have h := unpack_pack (fldsRtinva o)
  simp only [fldsRtinva, List.map_cons, List.map_nil, bvFld, boolFld, stampFld_fst] at h ⊢
  unfold widRtinvq
  rw [h]
  simp [getRtinvq]

theorem getCcp_fldsCcu (o : CcOp) : getCcp (unpack widCcp (pack (fldsCcu o))) = none := by
  have h := unpack_pack (fldsCcu o)
  simp only [fldsCcu, List.map_cons, List.map_nil, bvFld, boolFld, stampFld_fst] at h ⊢
  unfold widCcp
  rw [h]
  simp [getCcp]

theorem getRdmu_fldsRdmb (o : RdmOp) : getRdmu (unpack widRdmu (pack (fldsRdmb o))) = none := by
  have h := unpack_pack (fldsRdmb o)
  simp only [fldsRdmb, List.map_cons, List.map_nil, bvFld, boolFld, stampFld_fst] at h ⊢
  unfold widRdmu
  rw [h]
  simp [getRdmu]

theorem getRtgs_fldsRtgr (o : FmtqOp) : getRtgs (unpack widRtgs (pack (fldsRtgr o))) = none := by
  simp [fldsRtgr, widRtgs, getRtgs, unpack, pack, fldWidth, bvFld]
  omega

theorem bare_Iin1 {i : Instr} {o : SyA} : bare i (pack (fldsIin1 o)) = none := by
  rw [bare, if_neg]
  simp [fldsIin1, pack, fldWidth, bvFld]

theorem bare_Iin2 {i : Instr} {o : SyA} : bare i (pack (fldsIin2 o)) = none := by
  rw [bare, if_neg]
  simp [fldsIin2, pack, fldWidth, bvFld]

namespace Laws

/-- Decoding the word of a well-formed syllable gives the syllable back, whatever its S bit. -/
def RoundTrip.Statement (i : Instr) : Prop := ∀ (g : Prd) (last : Bool), Syl.wf ⟨g, i⟩ = true → decode (encode ⟨g, i⟩ last) = .ok ⟨g, i⟩

theorem RoundTrip.add (o : R3) : RoundTrip.Statement (.add o) := fun g last h =>
  decode_encode_of _ g last _ _ _ rfl (by decide) (by decide) (by simp [fldsR3, fldWidth, bvFld, boolFld])
    (show some (form widR3 getR3 Instr.add _) = _ from congrArg some (form_some (getR3_flds o))) h

theorem RoundTrip.sub (o : R3) : RoundTrip.Statement (.sub o) := fun g last h =>
  decode_encode_of _ g last _ _ _ rfl (by decide) (by decide) (by simp [fldsR3, fldWidth, bvFld, boolFld])
    (show some (form widR3 getR3 Instr.sub _) = _ from congrArg some (form_some (getR3_flds o))) h

theorem RoundTrip.and (o : R3) : RoundTrip.Statement (.and o) := fun g last h =>
  decode_encode_of _ g last _ _ _ rfl (by decide) (by decide) (by simp [fldsR3, fldWidth, bvFld, boolFld])
    (show some (form widR3 getR3 Instr.and _) = _ from congrArg some (form_some (getR3_flds o))) h

theorem RoundTrip.or (o : R3) : RoundTrip.Statement (.or o) := fun g last h =>
  decode_encode_of _ g last _ _ _ rfl (by decide) (by decide) (by simp [fldsR3, fldWidth, bvFld, boolFld])
    (show some (form widR3 getR3 Instr.or _) = _ from congrArg some (form_some (getR3_flds o))) h

theorem RoundTrip.xor (o : R3) : RoundTrip.Statement (.xor o) := fun g last h =>
  decode_encode_of _ g last _ _ _ rfl (by decide) (by decide) (by simp [fldsR3, fldWidth, bvFld, boolFld])
    (show some (form widR3 getR3 Instr.xor _) = _ from congrArg some (form_some (getR3_flds o))) h

theorem RoundTrip.andn (o : R3) : RoundTrip.Statement (.andn o) := fun g last h =>
  decode_encode_of _ g last _ _ _ rfl (by decide) (by decide) (by simp [fldsR3, fldWidth, bvFld, boolFld])
    (show some (form widR3 getR3 Instr.andn _) = _ from congrArg some (form_some (getR3_flds o))) h

theorem RoundTrip.shl (o : R3) : RoundTrip.Statement (.shl o) := fun g last h =>
  decode_encode_of _ g last _ _ _ rfl (by decide) (by decide) (by simp [fldsR3, fldWidth, bvFld, boolFld])
    (show some (form widR3 getR3 Instr.shl _) = _ from congrArg some (form_some (getR3_flds o))) h

theorem RoundTrip.shr (o : R3) : RoundTrip.Statement (.shr o) := fun g last h =>
  decode_encode_of _ g last _ _ _ rfl (by decide) (by decide) (by simp [fldsR3, fldWidth, bvFld, boolFld])
    (show some (form widR3 getR3 Instr.shr _) = _ from congrArg some (form_some (getR3_flds o))) h

theorem RoundTrip.sra (o : R3) : RoundTrip.Statement (.sra o) := fun g last h =>
  decode_encode_of _ g last _ _ _ rfl (by decide) (by decide) (by simp [fldsR3, fldWidth, bvFld, boolFld])
    (show some (form widR3 getR3 Instr.sra _) = _ from congrArg some (form_some (getR3_flds o))) h

theorem RoundTrip.mul (o : R3) : RoundTrip.Statement (.mul o) := fun g last h =>
  decode_encode_of _ g last _ _ _ rfl (by decide) (by decide) (by simp [fldsR3, fldWidth, bvFld, boolFld])
    (show some (form widR3 getR3 Instr.mul _) = _ from congrArg some (form_some (getR3_flds o))) h

theorem RoundTrip.mulh (o : R3) : RoundTrip.Statement (.mulh o) := fun g last h =>
  decode_encode_of _ g last _ _ _ rfl (by decide) (by decide) (by simp [fldsR3, fldWidth, bvFld, boolFld])
    (show some (form widR3 getR3 Instr.mulh _) = _ from congrArg some (form_some (getR3_flds o))) h

theorem RoundTrip.mulhu (o : R3) : RoundTrip.Statement (.mulhu o) := fun g last h =>
  decode_encode_of _ g last _ _ _ rfl (by decide) (by decide) (by simp [fldsR3, fldWidth, bvFld, boolFld])
    (show some (form widR3 getR3 Instr.mulhu _) = _ from congrArg some (form_some (getR3_flds o))) h

theorem RoundTrip.div (o : R3) : RoundTrip.Statement (.div o) := fun g last h =>
  decode_encode_of _ g last _ _ _ rfl (by decide) (by decide) (by simp [fldsR3, fldWidth, bvFld, boolFld])
    (show some (form widR3 getR3 Instr.div _) = _ from congrArg some (form_some (getR3_flds o))) h

theorem RoundTrip.divu (o : R3) : RoundTrip.Statement (.divu o) := fun g last h =>
  decode_encode_of _ g last _ _ _ rfl (by decide) (by decide) (by simp [fldsR3, fldWidth, bvFld, boolFld])
    (show some (form widR3 getR3 Instr.divu _) = _ from congrArg some (form_some (getR3_flds o))) h

theorem RoundTrip.rem (o : R3) : RoundTrip.Statement (.rem o) := fun g last h =>
  decode_encode_of _ g last _ _ _ rfl (by decide) (by decide) (by simp [fldsR3, fldWidth, bvFld, boolFld])
    (show some (form widR3 getR3 Instr.rem _) = _ from congrArg some (form_some (getR3_flds o))) h

theorem RoundTrip.min (o : R3) : RoundTrip.Statement (.min o) := fun g last h =>
  decode_encode_of _ g last _ _ _ rfl (by decide) (by decide) (by simp [fldsR3, fldWidth, bvFld, boolFld])
    (show some (form widR3 getR3 Instr.min _) = _ from congrArg some (form_some (getR3_flds o))) h

theorem RoundTrip.max (o : R3) : RoundTrip.Statement (.max o) := fun g last h =>
  decode_encode_of _ g last _ _ _ rfl (by decide) (by decide) (by simp [fldsR3, fldWidth, bvFld, boolFld])
    (show some (form widR3 getR3 Instr.max _) = _ from congrArg some (form_some (getR3_flds o))) h

theorem RoundTrip.minu (o : R3) : RoundTrip.Statement (.minu o) := fun g last h =>
  decode_encode_of _ g last _ _ _ rfl (by decide) (by decide) (by simp [fldsR3, fldWidth, bvFld, boolFld])
    (show some (form widR3 getR3 Instr.minu _) = _ from congrArg some (form_some (getR3_flds o))) h

theorem RoundTrip.maxu (o : R3) : RoundTrip.Statement (.maxu o) := fun g last h =>
  decode_encode_of _ g last _ _ _ rfl (by decide) (by decide) (by simp [fldsR3, fldWidth, bvFld, boolFld])
    (show some (form widR3 getR3 Instr.maxu _) = _ from congrArg some (form_some (getR3_flds o))) h

theorem RoundTrip.clz (o : R2) : RoundTrip.Statement (.clz o) := fun g last h =>
  decode_encode_of _ g last _ _ _ rfl (by decide) (by decide) (by simp [fldsR2, fldWidth, bvFld, boolFld])
    (show some (form widR2 getR2 Instr.clz _) = _ from congrArg some (form_some (getR2_flds o))) h

theorem RoundTrip.popc (o : R2) : RoundTrip.Statement (.popc o) := fun g last h =>
  decode_encode_of _ g last _ _ _ rfl (by decide) (by decide) (by simp [fldsR2, fldWidth, bvFld, boolFld])
    (show some (form widR2 getR2 Instr.popc _) = _ from congrArg some (form_some (getR2_flds o))) h

theorem RoundTrip.sel (o : RSel) : RoundTrip.Statement (.sel o) := fun g last h =>
  decode_encode_of _ g last _ _ _ rfl (by decide) (by decide) (by simp [fldsRsel, fldWidth, bvFld, boolFld])
    (show some (form widRsel getRsel Instr.sel _) = _ from congrArg some (form_some (getRsel_flds o))) h

theorem RoundTrip.cmpeq (o : RCmp) : RoundTrip.Statement (.cmpeq o) := fun g last h =>
  decode_encode_of _ g last _ _ _ rfl (by decide) (by decide) (by simp [fldsRcmp, fldWidth, bvFld, boolFld])
    (show some (form widRcmp getRcmp Instr.cmpeq _) = _ from congrArg some (form_some (getRcmp_flds o))) h

theorem RoundTrip.cmpne (o : RCmp) : RoundTrip.Statement (.cmpne o) := fun g last h =>
  decode_encode_of _ g last _ _ _ rfl (by decide) (by decide) (by simp [fldsRcmp, fldWidth, bvFld, boolFld])
    (show some (form widRcmp getRcmp Instr.cmpne _) = _ from congrArg some (form_some (getRcmp_flds o))) h

theorem RoundTrip.cmplt (o : RCmp) : RoundTrip.Statement (.cmplt o) := fun g last h =>
  decode_encode_of _ g last _ _ _ rfl (by decide) (by decide) (by simp [fldsRcmp, fldWidth, bvFld, boolFld])
    (show some (form widRcmp getRcmp Instr.cmplt _) = _ from congrArg some (form_some (getRcmp_flds o))) h

theorem RoundTrip.cmpltu (o : RCmp) : RoundTrip.Statement (.cmpltu o) := fun g last h =>
  decode_encode_of _ g last _ _ _ rfl (by decide) (by decide) (by simp [fldsRcmp, fldWidth, bvFld, boolFld])
    (show some (form widRcmp getRcmp Instr.cmpltu _) = _ from congrArg some (form_some (getRcmp_flds o))) h

theorem RoundTrip.cmple (o : RCmp) : RoundTrip.Statement (.cmple o) := fun g last h =>
  decode_encode_of _ g last _ _ _ rfl (by decide) (by decide) (by simp [fldsRcmp, fldWidth, bvFld, boolFld])
    (show some (form widRcmp getRcmp Instr.cmple _) = _ from congrArg some (form_some (getRcmp_flds o))) h

theorem RoundTrip.cmpleu (o : RCmp) : RoundTrip.Statement (.cmpleu o) := fun g last h =>
  decode_encode_of _ g last _ _ _ rfl (by decide) (by decide) (by simp [fldsRcmp, fldWidth, bvFld, boolFld])
    (show some (form widRcmp getRcmp Instr.cmpleu _) = _ from congrArg some (form_some (getRcmp_flds o))) h

theorem RoundTrip.pand (o : P3) : RoundTrip.Statement (.pand o) := fun g last h =>
  decode_encode_of _ g last _ _ _ rfl (by decide) (by decide) (by simp [fldsP3, fldWidth, bvFld, boolFld])
    (show some (form widP3 getP3 Instr.pand _) = _ from congrArg some (form_some (getP3_flds o))) h

theorem RoundTrip.por (o : P3) : RoundTrip.Statement (.por o) := fun g last h =>
  decode_encode_of _ g last _ _ _ rfl (by decide) (by decide) (by simp [fldsP3, fldWidth, bvFld, boolFld])
    (show some (form widP3 getP3 Instr.por _) = _ from congrArg some (form_some (getP3_flds o))) h

theorem RoundTrip.pnot (o : P2) : RoundTrip.Statement (.pnot o) := fun g last h =>
  decode_encode_of _ g last _ _ _ rfl (by decide) (by decide) (by simp [fldsP2, fldWidth, bvFld, boolFld])
    (show some (form widP2 getP2 Instr.pnot _) = _ from congrArg some (form_some (getP2_flds o))) h

theorem RoundTrip.addi (o : I3) : RoundTrip.Statement (.addi o) := fun g last h =>
  decode_encode_of _ g last _ _ _ rfl (by decide) (by decide) (by simp [fldsI3, fldWidth, bvFld, boolFld])
    (show some (form widI3 getI3 Instr.addi _) = _ from congrArg some (form_some (getI3_flds o))) h

theorem RoundTrip.andi (o : I3) : RoundTrip.Statement (.andi o) := fun g last h =>
  decode_encode_of _ g last _ _ _ rfl (by decide) (by decide) (by simp [fldsI3, fldWidth, bvFld, boolFld])
    (show some (form widI3 getI3 Instr.andi _) = _ from congrArg some (form_some (getI3_flds o))) h

theorem RoundTrip.ori (o : I3) : RoundTrip.Statement (.ori o) := fun g last h =>
  decode_encode_of _ g last _ _ _ rfl (by decide) (by decide) (by simp [fldsI3, fldWidth, bvFld, boolFld])
    (show some (form widI3 getI3 Instr.ori _) = _ from congrArg some (form_some (getI3_flds o))) h

theorem RoundTrip.xori (o : I3) : RoundTrip.Statement (.xori o) := fun g last h =>
  decode_encode_of _ g last _ _ _ rfl (by decide) (by decide) (by simp [fldsI3, fldWidth, bvFld, boolFld])
    (show some (form widI3 getI3 Instr.xori _) = _ from congrArg some (form_some (getI3_flds o))) h

theorem RoundTrip.shli (o : ISh) : RoundTrip.Statement (.shli o) := fun g last h =>
  decode_encode_of _ g last _ _ _ rfl (by decide) (by decide) (by simp [fldsIsh, fldWidth, bvFld, boolFld])
    (show some (form widIsh getIsh Instr.shli _) = _ from congrArg some (form_some (getIsh_flds o))) h

theorem RoundTrip.shri (o : ISh) : RoundTrip.Statement (.shri o) := fun g last h =>
  decode_encode_of _ g last _ _ _ rfl (by decide) (by decide) (by simp [fldsIsh, fldWidth, bvFld, boolFld])
    (show some (form widIsh getIsh Instr.shri _) = _ from congrArg some (form_some (getIsh_flds o))) h

theorem RoundTrip.srai (o : ISh) : RoundTrip.Statement (.srai o) := fun g last h =>
  decode_encode_of _ g last _ _ _ rfl (by decide) (by decide) (by simp [fldsIsh, fldWidth, bvFld, boolFld])
    (show some (form widIsh getIsh Instr.srai _) = _ from congrArg some (form_some (getIsh_flds o))) h

theorem RoundTrip.li (o : ILi) : RoundTrip.Statement (.li o) := fun g last h =>
  decode_encode_of _ g last _ _ _ rfl (by decide) (by decide) (by simp [fldsIli, fldWidth, bvFld, boolFld])
    (show some (form widIli getIli Instr.li _) = _ from congrArg some (form_some (getIli_flds o))) h

theorem RoundTrip.lih (o : ILi) : RoundTrip.Statement (.lih o) := fun g last h =>
  decode_encode_of _ g last _ _ _ rfl (by decide) (by decide) (by simp [fldsIli, fldWidth, bvFld, boolFld])
    (show some (form widIli getIli Instr.lih _) = _ from congrArg some (form_some (getIli_flds o))) h

theorem RoundTrip.br (o : BrOp) : RoundTrip.Statement (.br o) := fun g last h =>
  decode_encode_of _ g last _ _ _ rfl (by decide) (by decide) (by simp [fldsBr, fldWidth, bvFld, boolFld])
    (show some (form widBr getBr Instr.br _) = _ from congrArg some (form_some (getBr_flds o))) h

theorem RoundTrip.jmp (o : JOp) : RoundTrip.Statement (.jmp o) := fun g last h =>
  decode_encode_of _ g last _ _ _ rfl (by decide) (by decide) (by simp [fldsJ, fldWidth, bvFld, boolFld])
    (show some (form widJ getJ Instr.jmp _) = _ from congrArg some (form_some (getJ_flds o))) h

theorem RoundTrip.call (o : CallOp) : RoundTrip.Statement (.call o) := fun g last h =>
  decode_encode_of _ g last _ _ _ rfl (by decide) (by decide) (by simp [fldsCall, fldWidth, bvFld, boolFld])
    (show some (form widCall getCall Instr.call _) = _ from congrArg some (form_some (getCall_flds o))) h

theorem RoundTrip.ret (o : RetOp) : RoundTrip.Statement (.ret o) := fun g last h =>
  decode_encode_of _ g last _ _ _ rfl (by decide) (by decide) (by simp [fldsRet, fldWidth, bvFld, boolFld])
    (show some (form widRet getRet Instr.ret _) = _ from congrArg some (form_some (getRet_flds o))) h

theorem RoundTrip.loop (o : JOp) : RoundTrip.Statement (.loop o) := fun g last h =>
  decode_encode_of _ g last _ _ _ rfl (by decide) (by decide) (by simp [fldsJ, fldWidth, bvFld, boolFld])
    (show some (form widJ getJ Instr.loop _) = _ from congrArg some (form_some (getJ_flds o))) h

theorem RoundTrip.rgn (o : SyImm) : RoundTrip.Statement (.rgn o) := fun g last h =>
  decode_encode_of _ g last _ _ _ rfl (by decide) (by decide) (by simp [fldsSyi, fldWidth, bvFld, boolFld])
    (show some (form widSyi getSyi Instr.rgn _) = _ from congrArg some (form_some (getSyi_flds o))) h

theorem RoundTrip.mfsr (o : MfsrOp) : RoundTrip.Statement (.mfsr o) := fun g last h =>
  decode_encode_of _ g last _ _ _ rfl (by decide) (by decide) (by simp [fldsMfsr, fldWidth, bvFld, boolFld])
    (show some (form widMfsr getMfsr Instr.mfsr _) = _ from congrArg some (form_some (getMfsr_flds o))) h

theorem RoundTrip.mtsr (o : MtsrOp) : RoundTrip.Statement (.mtsr o) := fun g last h =>
  decode_encode_of _ g last _ _ _ rfl (by decide) (by decide) (by simp [fldsMtsr, fldWidth, bvFld, boolFld])
    (show some (form widMtsr getMtsr Instr.mtsr _) = _ from congrArg some (form_some (getMtsr_flds o))) h

theorem RoundTrip.trap (o : SyImm) : RoundTrip.Statement (.trap o) := fun g last h =>
  decode_encode_of _ g last _ _ _ rfl (by decide) (by decide) (by simp [fldsSyi, fldWidth, bvFld, boolFld])
    (show some (form widSyi getSyi Instr.trap _) = _ from congrArg some (form_some (getSyi_flds o))) h

theorem RoundTrip.iinvLine (o : SyA) : RoundTrip.Statement (.iinvLine o) := fun g last h =>
  decode_encode_of _ g last _ _ _ rfl (by decide) (by decide) (by simp [fldsIin1, fldWidth, bvFld, boolFld])
    (by rw [show decodeOp _ _ _ = some (_ <|> _) from rfl, bare_Iin1, form_some (getIin1_flds o)]; rfl) h

theorem RoundTrip.iinvPage (o : SyA) : RoundTrip.Statement (.iinvPage o) := fun g last h =>
  decode_encode_of _ g last _ _ _ rfl (by decide) (by decide) (by simp [fldsIin2, fldWidth, bvFld, boolFld])
    (by rw [show decodeOp _ _ _ = some (_ <|> _) from rfl, bare_Iin2, form_none (getIin1_fldsIin2 o), form_some (getIin2_flds o)]; rfl) h

theorem RoundTrip.rdgtc (o : SyD) : RoundTrip.Statement (.rdgtc o) := fun g last h =>
  decode_encode_of _ g last _ _ _ rfl (by decide) (by decide) (by simp [fldsSyd, fldWidth, bvFld, boolFld])
    (show some (form widSyd getSyd Instr.rdgtc _) = _ from congrArg some (form_some (getSyd_flds o))) h

theorem RoundTrip.brk (o : SyImm) : RoundTrip.Statement (.brk o) := fun g last h =>
  decode_encode_of _ g last _ _ _ rfl (by decide) (by decide) (by simp [fldsSyi, fldWidth, bvFld, boolFld])
    (show some (form widSyi getSyi Instr.brk _) = _ from congrArg some (form_some (getSyi_flds o))) h

theorem RoundTrip.lds (o : MLd) : RoundTrip.Statement (.lds o) := fun g last h =>
  decode_encode_of _ g last _ _ _ rfl (by decide) (by decide) (by simp [fldsMld, fldWidth, bvFld, boolFld])
    (show some (form widMld getMld Instr.lds _) = _ from congrArg some (form_some (getMld_flds o))) h

theorem RoundTrip.sts (o : MSt) : RoundTrip.Statement (.sts o) := fun g last h =>
  decode_encode_of _ g last _ _ _ rfl (by decide) (by decide) (by simp [fldsMst, fldWidth, bvFld, boolFld])
    (show some (form widMst getMst Instr.sts _) = _ from congrArg some (form_some (getMst_flds o))) h

theorem RoundTrip.gld (o : GLdOp) : RoundTrip.Statement (.gld o) := fun g last h =>
  decode_encode_of _ g last _ _ _ rfl (by decide) (by decide) (by simp [fldsGld, fldWidth, bvFld, boolFld])
    (show some (form widGld getGld Instr.gld _) = _ from congrArg some (form_some (getGld_flds o))) h

theorem RoundTrip.gst (o : GStOp) : RoundTrip.Statement (.gst o) := fun g last h =>
  decode_encode_of _ g last _ _ _ rfl (by decide) (by decide) (by simp [fldsGst, fldWidth, bvFld, boolFld])
    (show some (form widGst getGst Instr.gst _) = _ from congrArg some (form_some (getGst_flds o))) h

theorem RoundTrip.xlat (o : XlatOp) : RoundTrip.Statement (.xlat o) := fun g last h =>
  decode_encode_of _ g last _ _ _ rfl (by decide) (by decide) (by simp [fldsXlat, fldWidth, bvFld, boolFld])
    (show some (form widXlat getXlat Instr.xlat _) = _ from congrArg some (form_some (getXlat_flds o))) h

theorem RoundTrip.hinv (o : HinvOp) : RoundTrip.Statement (.hinv o) := fun g last h =>
  decode_encode_of _ g last _ _ _ rfl (by decide) (by decide) (by simp [fldsHinv, fldWidth, bvFld, boolFld])
    (show some (form widHinv getHinv Instr.hinv _) = _ from congrArg some (form_some (getHinv_flds o))) h

theorem RoundTrip.fence (o : FenceOp) : RoundTrip.Statement (.fence o) := fun g last h =>
  decode_encode_of _ g last _ _ _ rfl (by decide) (by decide) (by simp [fldsFence, fldWidth, bvFld, boolFld])
    (show some (form widFence getFence Instr.fence _) = _ from congrArg some (form_some (getFence_flds o))) h

theorem RoundTrip.binit (o : MSt) : RoundTrip.Statement (.binit o) := fun g last h =>
  decode_encode_of _ g last _ _ _ rfl (by decide) (by decide) (by simp [fldsMst, fldWidth, bvFld, boolFld])
    (show some (form widMst getMst Instr.binit _) = _ from congrArg some (form_some (getMst_flds o))) h

theorem RoundTrip.arrive (o : MAd) : RoundTrip.Statement (.arrive o) := fun g last h =>
  decode_encode_of _ g last _ _ _ rfl (by decide) (by decide) (by simp [fldsMad, fldWidth, bvFld, boolFld])
    (show some (form widMad getMad Instr.arrive _) = _ from congrArg some (form_some (getMad_flds o))) h

theorem RoundTrip.bwait (o : MAd) : RoundTrip.Statement (.bwait o) := fun g last h =>
  decode_encode_of _ g last _ _ _ rfl (by decide) (by decide) (by simp [fldsMad, fldWidth, bvFld, boolFld])
    (show some (form widMad getMad Instr.bwait _) = _ from congrArg some (form_some (getMad_flds o))) h

theorem RoundTrip.btest (o : MTest) : RoundTrip.Statement (.btest o) := fun g last h =>
  decode_encode_of _ g last _ _ _ rfl (by decide) (by decide) (by simp [fldsMtest, fldWidth, bvFld, boolFld])
    (show some (form widMtest getMtest Instr.btest _) = _ from congrArg some (form_some (getMtest_flds o))) h

theorem RoundTrip.await (o : MAwait) : RoundTrip.Statement (.await o) := fun g last h =>
  decode_encode_of _ g last _ _ _ rfl (by decide) (by decide) (by simp [fldsMawait, fldWidth, bvFld, boolFld])
    (show some (form widMawait getMawait Instr.await _) = _ from congrArg some (form_some (getMawait_flds o))) h

theorem RoundTrip.amoadd (o : Amo) : RoundTrip.Statement (.amoadd o) := fun g last h =>
  decode_encode_of _ g last _ _ _ rfl (by decide) (by decide) (by simp [fldsAmo, fldWidth, bvFld, boolFld])
    (show some (form widAmo getAmo Instr.amoadd _) = _ from congrArg some (form_some (getAmo_flds o))) h

theorem RoundTrip.amoxor (o : Amo) : RoundTrip.Statement (.amoxor o) := fun g last h =>
  decode_encode_of _ g last _ _ _ rfl (by decide) (by decide) (by simp [fldsAmo, fldWidth, bvFld, boolFld])
    (show some (form widAmo getAmo Instr.amoxor _) = _ from congrArg some (form_some (getAmo_flds o))) h

theorem RoundTrip.amomin (o : Amo) : RoundTrip.Statement (.amomin o) := fun g last h =>
  decode_encode_of _ g last _ _ _ rfl (by decide) (by decide) (by simp [fldsAmo, fldWidth, bvFld, boolFld])
    (show some (form widAmo getAmo Instr.amomin _) = _ from congrArg some (form_some (getAmo_flds o))) h

theorem RoundTrip.amomax (o : Amo) : RoundTrip.Statement (.amomax o) := fun g last h =>
  decode_encode_of _ g last _ _ _ rfl (by decide) (by decide) (by simp [fldsAmo, fldWidth, bvFld, boolFld])
    (show some (form widAmo getAmo Instr.amomax _) = _ from congrArg some (form_some (getAmo_flds o))) h

theorem RoundTrip.amoswp (o : Amo) : RoundTrip.Statement (.amoswp o) := fun g last h =>
  decode_encode_of _ g last _ _ _ rfl (by decide) (by decide) (by simp [fldsAmo, fldWidth, bvFld, boolFld])
    (show some (form widAmo getAmo Instr.amoswp _) = _ from congrArg some (form_some (getAmo_flds o))) h

theorem RoundTrip.amocas (o : Amo) : RoundTrip.Statement (.amocas o) := fun g last h =>
  decode_encode_of _ g last _ _ _ rfl (by decide) (by decide) (by simp [fldsAmo, fldWidth, bvFld, boolFld])
    (show some (form widAmo getAmo Instr.amocas _) = _ from congrArg some (form_some (getAmo_flds o))) h

theorem RoundTrip.pfx (o : PfxOp) : RoundTrip.Statement (.pfx o) := fun g last h =>
  decode_encode_of _ g last _ _ _ rfl (by decide) (by decide) (by simp [fldsPfx, fldWidth, bvFld, boolFld])
    (show some (form widPfx getPfx Instr.pfx _) = _ from congrArg some (form_some (getPfx_flds o))) h

theorem RoundTrip.vadd (o : V3) : RoundTrip.Statement (.vadd o) := fun g last h =>
  decode_encode_of _ g last _ _ _ rfl (by decide) (by decide) (by simp [fldsV3, fldWidth, bvFld, boolFld])
    (show some (form widV3 getV3 Instr.vadd _) = _ from congrArg some (form_some (getV3_flds o))) h

theorem RoundTrip.evadd (o : V3) : RoundTrip.Statement (.evadd o) := fun g last h =>
  decode_encode_of _ g last _ _ _ rfl (by decide) (by decide) (by simp [fldsV3, fldWidth, bvFld, boolFld])
    (show some (form widV3 getV3 Instr.evadd _) = _ from congrArg some (form_some (getV3_flds o))) h

theorem RoundTrip.vsub (o : V3) : RoundTrip.Statement (.vsub o) := fun g last h =>
  decode_encode_of _ g last _ _ _ rfl (by decide) (by decide) (by simp [fldsV3, fldWidth, bvFld, boolFld])
    (show some (form widV3 getV3 Instr.vsub _) = _ from congrArg some (form_some (getV3_flds o))) h

theorem RoundTrip.evsub (o : V3) : RoundTrip.Statement (.evsub o) := fun g last h =>
  decode_encode_of _ g last _ _ _ rfl (by decide) (by decide) (by simp [fldsV3, fldWidth, bvFld, boolFld])
    (show some (form widV3 getV3 Instr.evsub _) = _ from congrArg some (form_some (getV3_flds o))) h

theorem RoundTrip.vmac (o : V3) : RoundTrip.Statement (.vmac o) := fun g last h =>
  decode_encode_of _ g last _ _ _ rfl (by decide) (by decide) (by simp [fldsV3, fldWidth, bvFld, boolFld])
    (show some (form widV3 getV3 Instr.vmac _) = _ from congrArg some (form_some (getV3_flds o))) h

theorem RoundTrip.evmac (o : V3) : RoundTrip.Statement (.evmac o) := fun g last h =>
  decode_encode_of _ g last _ _ _ rfl (by decide) (by decide) (by simp [fldsV3, fldWidth, bvFld, boolFld])
    (show some (form widV3 getV3 Instr.evmac _) = _ from congrArg some (form_some (getV3_flds o))) h

theorem RoundTrip.vmas (o : V3) : RoundTrip.Statement (.vmas o) := fun g last h =>
  decode_encode_of _ g last _ _ _ rfl (by decide) (by decide) (by simp [fldsV3, fldWidth, bvFld, boolFld])
    (show some (form widV3 getV3 Instr.vmas _) = _ from congrArg some (form_some (getV3_flds o))) h

theorem RoundTrip.evmas (o : V3) : RoundTrip.Statement (.evmas o) := fun g last h =>
  decode_encode_of _ g last _ _ _ rfl (by decide) (by decide) (by simp [fldsV3, fldWidth, bvFld, boolFld])
    (show some (form widV3 getV3 Instr.evmas _) = _ from congrArg some (form_some (getV3_flds o))) h

theorem RoundTrip.vneg (o : V2) : RoundTrip.Statement (.vneg o) := fun g last h =>
  decode_encode_of _ g last _ _ _ rfl (by decide) (by decide) (by simp [fldsV2, fldWidth, bvFld, boolFld])
    (show some (form widV2 getV2 Instr.vneg _) = _ from congrArg some (form_some (getV2_flds o))) h

theorem RoundTrip.evneg (o : V2) : RoundTrip.Statement (.evneg o) := fun g last h =>
  decode_encode_of _ g last _ _ _ rfl (by decide) (by decide) (by simp [fldsV2, fldWidth, bvFld, boolFld])
    (show some (form widV2 getV2 Instr.evneg _) = _ from congrArg some (form_some (getV2_flds o))) h

theorem RoundTrip.vnot (o : V2) : RoundTrip.Statement (.vnot o) := fun g last h =>
  decode_encode_of _ g last _ _ _ rfl (by decide) (by decide) (by simp [fldsV2, fldWidth, bvFld, boolFld])
    (show some (form widV2 getV2 Instr.vnot _) = _ from congrArg some (form_some (getV2_flds o))) h

theorem RoundTrip.evnot (o : V2) : RoundTrip.Statement (.evnot o) := fun g last h =>
  decode_encode_of _ g last _ _ _ rfl (by decide) (by decide) (by simp [fldsV2, fldWidth, bvFld, boolFld])
    (show some (form widV2 getV2 Instr.evnot _) = _ from congrArg some (form_some (getV2_flds o))) h

theorem RoundTrip.vxor (o : V3) : RoundTrip.Statement (.vxor o) := fun g last h =>
  decode_encode_of _ g last _ _ _ rfl (by decide) (by decide) (by simp [fldsV3, fldWidth, bvFld, boolFld])
    (show some (form widV3 getV3 Instr.vxor _) = _ from congrArg some (form_some (getV3_flds o))) h

theorem RoundTrip.evxor (o : V3) : RoundTrip.Statement (.evxor o) := fun g last h =>
  decode_encode_of _ g last _ _ _ rfl (by decide) (by decide) (by simp [fldsV3, fldWidth, bvFld, boolFld])
    (show some (form widV3 getV3 Instr.evxor _) = _ from congrArg some (form_some (getV3_flds o))) h

theorem RoundTrip.vxand (o : V3) : RoundTrip.Statement (.vxand o) := fun g last h =>
  decode_encode_of _ g last _ _ _ rfl (by decide) (by decide) (by simp [fldsV3, fldWidth, bvFld, boolFld])
    (show some (form widV3 getV3 Instr.vxand _) = _ from congrArg some (form_some (getV3_flds o))) h

theorem RoundTrip.evxand (o : V3) : RoundTrip.Statement (.evxand o) := fun g last h =>
  decode_encode_of _ g last _ _ _ rfl (by decide) (by decide) (by simp [fldsV3, fldWidth, bvFld, boolFld])
    (show some (form widV3 getV3 Instr.evxand _) = _ from congrArg some (form_some (getV3_flds o))) h

theorem RoundTrip.vswap (o : VSw) : RoundTrip.Statement (.vswap o) := fun g last h =>
  decode_encode_of _ g last _ _ _ rfl (by decide) (by decide) (by simp [fldsVsw, fldWidth, bvFld, boolFld])
    (show some (form widVsw getVsw Instr.vswap _) = _ from congrArg some (form_some (getVsw_flds o))) h

theorem RoundTrip.vcswap (o : VCSw) : RoundTrip.Statement (.vcswap o) := fun g last h =>
  decode_encode_of _ g last _ _ _ rfl (by decide) (by decide) (by simp [fldsVcsw, fldWidth, bvFld, boolFld])
    (show some (form widVcsw getVcsw Instr.vcswap _) = _ from congrArg some (form_some (getVcsw_flds o))) h

theorem RoundTrip.vshl (o : V3) : RoundTrip.Statement (.vshl o) := fun g last h =>
  decode_encode_of _ g last _ _ _ rfl (by decide) (by decide) (by simp [fldsV3, fldWidth, bvFld, boolFld])
    (show some (form widV3 getV3 Instr.vshl _) = _ from congrArg some (form_some (getV3_flds o))) h

theorem RoundTrip.evshl (o : V3) : RoundTrip.Statement (.evshl o) := fun g last h =>
  decode_encode_of _ g last _ _ _ rfl (by decide) (by decide) (by simp [fldsV3, fldWidth, bvFld, boolFld])
    (show some (form widV3 getV3 Instr.evshl _) = _ from congrArg some (form_some (getV3_flds o))) h

theorem RoundTrip.vshr (o : V3) : RoundTrip.Statement (.vshr o) := fun g last h =>
  decode_encode_of _ g last _ _ _ rfl (by decide) (by decide) (by simp [fldsV3, fldWidth, bvFld, boolFld])
    (show some (form widV3 getV3 Instr.vshr _) = _ from congrArg some (form_some (getV3_flds o))) h

theorem RoundTrip.evshr (o : V3) : RoundTrip.Statement (.evshr o) := fun g last h =>
  decode_encode_of _ g last _ _ _ rfl (by decide) (by decide) (by simp [fldsV3, fldWidth, bvFld, boolFld])
    (show some (form widV3 getV3 Instr.evshr _) = _ from congrArg some (form_some (getV3_flds o))) h

theorem RoundTrip.vsra (o : V3) : RoundTrip.Statement (.vsra o) := fun g last h =>
  decode_encode_of _ g last _ _ _ rfl (by decide) (by decide) (by simp [fldsV3, fldWidth, bvFld, boolFld])
    (show some (form widV3 getV3 Instr.vsra _) = _ from congrArg some (form_some (getV3_flds o))) h

theorem RoundTrip.evsra (o : V3) : RoundTrip.Statement (.evsra o) := fun g last h =>
  decode_encode_of _ g last _ _ _ rfl (by decide) (by decide) (by simp [fldsV3, fldWidth, bvFld, boolFld])
    (show some (form widV3 getV3 Instr.evsra _) = _ from congrArg some (form_some (getV3_flds o))) h

theorem RoundTrip.vrotl (o : V3) : RoundTrip.Statement (.vrotl o) := fun g last h =>
  decode_encode_of _ g last _ _ _ rfl (by decide) (by decide) (by simp [fldsV3, fldWidth, bvFld, boolFld])
    (show some (form widV3 getV3 Instr.vrotl _) = _ from congrArg some (form_some (getV3_flds o))) h

theorem RoundTrip.evrotl (o : V3) : RoundTrip.Statement (.evrotl o) := fun g last h =>
  decode_encode_of _ g last _ _ _ rfl (by decide) (by decide) (by simp [fldsV3, fldWidth, bvFld, boolFld])
    (show some (form widV3 getV3 Instr.evrotl _) = _ from congrArg some (form_some (getV3_flds o))) h

theorem RoundTrip.vand (o : V3) : RoundTrip.Statement (.vand o) := fun g last h =>
  decode_encode_of _ g last _ _ _ rfl (by decide) (by decide) (by simp [fldsV3, fldWidth, bvFld, boolFld])
    (show some (form widV3 getV3 Instr.vand _) = _ from congrArg some (form_some (getV3_flds o))) h

theorem RoundTrip.evand (o : V3) : RoundTrip.Statement (.evand o) := fun g last h =>
  decode_encode_of _ g last _ _ _ rfl (by decide) (by decide) (by simp [fldsV3, fldWidth, bvFld, boolFld])
    (show some (form widV3 getV3 Instr.evand _) = _ from congrArg some (form_some (getV3_flds o))) h

theorem RoundTrip.vor (o : V3) : RoundTrip.Statement (.vor o) := fun g last h =>
  decode_encode_of _ g last _ _ _ rfl (by decide) (by decide) (by simp [fldsV3, fldWidth, bvFld, boolFld])
    (show some (form widV3 getV3 Instr.vor _) = _ from congrArg some (form_some (getV3_flds o))) h

theorem RoundTrip.evor (o : V3) : RoundTrip.Statement (.evor o) := fun g last h =>
  decode_encode_of _ g last _ _ _ rfl (by decide) (by decide) (by simp [fldsV3, fldWidth, bvFld, boolFld])
    (show some (form widV3 getV3 Instr.evor _) = _ from congrArg some (form_some (getV3_flds o))) h

theorem RoundTrip.vmin (o : V3) : RoundTrip.Statement (.vmin o) := fun g last h =>
  decode_encode_of _ g last _ _ _ rfl (by decide) (by decide) (by simp [fldsV3, fldWidth, bvFld, boolFld])
    (show some (form widV3 getV3 Instr.vmin _) = _ from congrArg some (form_some (getV3_flds o))) h

theorem RoundTrip.evmin (o : V3) : RoundTrip.Statement (.evmin o) := fun g last h =>
  decode_encode_of _ g last _ _ _ rfl (by decide) (by decide) (by simp [fldsV3, fldWidth, bvFld, boolFld])
    (show some (form widV3 getV3 Instr.evmin _) = _ from congrArg some (form_some (getV3_flds o))) h

theorem RoundTrip.vmax (o : V3) : RoundTrip.Statement (.vmax o) := fun g last h =>
  decode_encode_of _ g last _ _ _ rfl (by decide) (by decide) (by simp [fldsV3, fldWidth, bvFld, boolFld])
    (show some (form widV3 getV3 Instr.vmax _) = _ from congrArg some (form_some (getV3_flds o))) h

theorem RoundTrip.evmax (o : V3) : RoundTrip.Statement (.evmax o) := fun g last h =>
  decode_encode_of _ g last _ _ _ rfl (by decide) (by decide) (by simp [fldsV3, fldWidth, bvFld, boolFld])
    (show some (form widV3 getV3 Instr.evmax _) = _ from congrArg some (form_some (getV3_flds o))) h

theorem RoundTrip.vabs (o : V2) : RoundTrip.Statement (.vabs o) := fun g last h =>
  decode_encode_of _ g last _ _ _ rfl (by decide) (by decide) (by simp [fldsV2, fldWidth, bvFld, boolFld])
    (show some (form widV2 getV2 Instr.vabs _) = _ from congrArg some (form_some (getV2_flds o))) h

theorem RoundTrip.evabs (o : V2) : RoundTrip.Statement (.evabs o) := fun g last h =>
  decode_encode_of _ g last _ _ _ rfl (by decide) (by decide) (by simp [fldsV2, fldWidth, bvFld, boolFld])
    (show some (form widV2 getV2 Instr.evabs _) = _ from congrArg some (form_some (getV2_flds o))) h

theorem RoundTrip.vmul (o : V3) : RoundTrip.Statement (.vmul o) := fun g last h =>
  decode_encode_of _ g last _ _ _ rfl (by decide) (by decide) (by simp [fldsV3, fldWidth, bvFld, boolFld])
    (show some (form widV3 getV3 Instr.vmul _) = _ from congrArg some (form_some (getV3_flds o))) h

theorem RoundTrip.evmul (o : V3) : RoundTrip.Statement (.evmul o) := fun g last h =>
  decode_encode_of _ g last _ _ _ rfl (by decide) (by decide) (by simp [fldsV3, fldWidth, bvFld, boolFld])
    (show some (form widV3 getV3 Instr.evmul _) = _ from congrArg some (form_some (getV3_flds o))) h

theorem RoundTrip.vpopc (o : V2) : RoundTrip.Statement (.vpopc o) := fun g last h =>
  decode_encode_of _ g last _ _ _ rfl (by decide) (by decide) (by simp [fldsV2, fldWidth, bvFld, boolFld])
    (show some (form widV2 getV2 Instr.vpopc _) = _ from congrArg some (form_some (getV2_flds o))) h

theorem RoundTrip.evpopc (o : V2) : RoundTrip.Statement (.evpopc o) := fun g last h =>
  decode_encode_of _ g last _ _ _ rfl (by decide) (by decide) (by simp [fldsV2, fldWidth, bvFld, boolFld])
    (show some (form widV2 getV2 Instr.evpopc _) = _ from congrArg some (form_some (getV2_flds o))) h

theorem RoundTrip.vclz (o : V2) : RoundTrip.Statement (.vclz o) := fun g last h =>
  decode_encode_of _ g last _ _ _ rfl (by decide) (by decide) (by simp [fldsV2, fldWidth, bvFld, boolFld])
    (show some (form widV2 getV2 Instr.vclz _) = _ from congrArg some (form_some (getV2_flds o))) h

theorem RoundTrip.evclz (o : V2) : RoundTrip.Statement (.evclz o) := fun g last h =>
  decode_encode_of _ g last _ _ _ rfl (by decide) (by decide) (by simp [fldsV2, fldWidth, bvFld, boolFld])
    (show some (form widV2 getV2 Instr.evclz _) = _ from congrArg some (form_some (getV2_flds o))) h

theorem RoundTrip.vcmpeq (o : V3M) : RoundTrip.Statement (.vcmpeq o) := fun g last h =>
  decode_encode_of _ g last _ _ _ rfl (by decide) (by decide) (by simp [fldsV3m, fldWidth, bvFld, boolFld])
    (show some (form widV3m getV3m Instr.vcmpeq _) = _ from congrArg some (form_some (getV3m_flds o))) h

theorem RoundTrip.evcmpeq (o : V3M) : RoundTrip.Statement (.evcmpeq o) := fun g last h =>
  decode_encode_of _ g last _ _ _ rfl (by decide) (by decide) (by simp [fldsV3m, fldWidth, bvFld, boolFld])
    (show some (form widV3m getV3m Instr.evcmpeq _) = _ from congrArg some (form_some (getV3m_flds o))) h

theorem RoundTrip.vcmplt (o : V3M) : RoundTrip.Statement (.vcmplt o) := fun g last h =>
  decode_encode_of _ g last _ _ _ rfl (by decide) (by decide) (by simp [fldsV3m, fldWidth, bvFld, boolFld])
    (show some (form widV3m getV3m Instr.vcmplt _) = _ from congrArg some (form_some (getV3m_flds o))) h

theorem RoundTrip.evcmplt (o : V3M) : RoundTrip.Statement (.evcmplt o) := fun g last h =>
  decode_encode_of _ g last _ _ _ rfl (by decide) (by decide) (by simp [fldsV3m, fldWidth, bvFld, boolFld])
    (show some (form widV3m getV3m Instr.evcmplt _) = _ from congrArg some (form_some (getV3m_flds o))) h

theorem RoundTrip.vcmple (o : V3M) : RoundTrip.Statement (.vcmple o) := fun g last h =>
  decode_encode_of _ g last _ _ _ rfl (by decide) (by decide) (by simp [fldsV3m, fldWidth, bvFld, boolFld])
    (show some (form widV3m getV3m Instr.vcmple _) = _ from congrArg some (form_some (getV3m_flds o))) h

theorem RoundTrip.evcmple (o : V3M) : RoundTrip.Statement (.evcmple o) := fun g last h =>
  decode_encode_of _ g last _ _ _ rfl (by decide) (by decide) (by simp [fldsV3m, fldWidth, bvFld, boolFld])
    (show some (form widV3m getV3m Instr.evcmple _) = _ from congrArg some (form_some (getV3m_flds o))) h

theorem RoundTrip.vsel (o : VMOp) : RoundTrip.Statement (.vsel o) := fun g last h =>
  decode_encode_of _ g last _ _ _ rfl (by decide) (by decide) (by simp [fldsVsel, fldWidth, bvFld, boolFld])
    (show some (form widVsel getVsel Instr.vsel _) = _ from congrArg some (form_some (getVsel_flds o))) h

theorem RoundTrip.evsel (o : VMOp) : RoundTrip.Statement (.evsel o) := fun g last h =>
  decode_encode_of _ g last _ _ _ rfl (by decide) (by decide) (by simp [fldsVsel, fldWidth, bvFld, boolFld])
    (show some (form widVsel getVsel Instr.evsel _) = _ from congrArg some (form_some (getVsel_flds o))) h

theorem RoundTrip.vassz (o : VA) : RoundTrip.Statement (.vassz o) := fun g last h =>
  decode_encode_of _ g last _ _ _ rfl (by decide) (by decide) (by simp [fldsVasz, fldWidth, bvFld, boolFld])
    (show some (form widVasz getVasz Instr.vassz _) = _ from congrArg some (form_some (getVasz_flds o))) h

theorem RoundTrip.vzmask (o : VZm) : RoundTrip.Statement (.vzmask o) := fun g last h =>
  decode_encode_of _ g last _ _ _ rfl (by decide) (by decide) (by simp [fldsVzm, fldWidth, bvFld, boolFld])
    (show some (form widVzm getVzm Instr.vzmask _) = _ from congrArg some (form_some (getVzm_flds o))) h

theorem RoundTrip.evzmask (o : VZm) : RoundTrip.Statement (.evzmask o) := fun g last h =>
  decode_encode_of _ g last _ _ _ rfl (by decide) (by decide) (by simp [fldsVzm, fldWidth, bvFld, boolFld])
    (show some (form widVzm getVzm Instr.evzmask _) = _ from congrArg some (form_some (getVzm_flds o))) h

theorem RoundTrip.vfadd (o : V3) : RoundTrip.Statement (.vfadd o) := fun g last h =>
  decode_encode_of _ g last _ _ _ rfl (by decide) (by decide) (by simp [fldsV3, fldWidth, bvFld, boolFld])
    (show some (form widV3 getV3 Instr.vfadd _) = _ from congrArg some (form_some (getV3_flds o))) h

theorem RoundTrip.evfadd (o : V3) : RoundTrip.Statement (.evfadd o) := fun g last h =>
  decode_encode_of _ g last _ _ _ rfl (by decide) (by decide) (by simp [fldsV3, fldWidth, bvFld, boolFld])
    (show some (form widV3 getV3 Instr.evfadd _) = _ from congrArg some (form_some (getV3_flds o))) h

theorem RoundTrip.vfsub (o : V3) : RoundTrip.Statement (.vfsub o) := fun g last h =>
  decode_encode_of _ g last _ _ _ rfl (by decide) (by decide) (by simp [fldsV3, fldWidth, bvFld, boolFld])
    (show some (form widV3 getV3 Instr.vfsub _) = _ from congrArg some (form_some (getV3_flds o))) h

theorem RoundTrip.evfsub (o : V3) : RoundTrip.Statement (.evfsub o) := fun g last h =>
  decode_encode_of _ g last _ _ _ rfl (by decide) (by decide) (by simp [fldsV3, fldWidth, bvFld, boolFld])
    (show some (form widV3 getV3 Instr.evfsub _) = _ from congrArg some (form_some (getV3_flds o))) h

theorem RoundTrip.vfmul (o : V3) : RoundTrip.Statement (.vfmul o) := fun g last h =>
  decode_encode_of _ g last _ _ _ rfl (by decide) (by decide) (by simp [fldsV3, fldWidth, bvFld, boolFld])
    (show some (form widV3 getV3 Instr.vfmul _) = _ from congrArg some (form_some (getV3_flds o))) h

theorem RoundTrip.evfmul (o : V3) : RoundTrip.Statement (.evfmul o) := fun g last h =>
  decode_encode_of _ g last _ _ _ rfl (by decide) (by decide) (by simp [fldsV3, fldWidth, bvFld, boolFld])
    (show some (form widV3 getV3 Instr.evfmul _) = _ from congrArg some (form_some (getV3_flds o))) h

theorem RoundTrip.vfma (o : V4) : RoundTrip.Statement (.vfma o) := fun g last h =>
  decode_encode_of _ g last _ _ _ rfl (by decide) (by decide) (by simp [fldsV4, fldWidth, bvFld, boolFld])
    (show some (form widV4 getV4 Instr.vfma _) = _ from congrArg some (form_some (getV4_flds o))) h

theorem RoundTrip.evfma (o : V4) : RoundTrip.Statement (.evfma o) := fun g last h =>
  decode_encode_of _ g last _ _ _ rfl (by decide) (by decide) (by simp [fldsV4, fldWidth, bvFld, boolFld])
    (show some (form widV4 getV4 Instr.evfma _) = _ from congrArg some (form_some (getV4_flds o))) h

theorem RoundTrip.vfmin (o : V3) : RoundTrip.Statement (.vfmin o) := fun g last h =>
  decode_encode_of _ g last _ _ _ rfl (by decide) (by decide) (by simp [fldsV3, fldWidth, bvFld, boolFld])
    (show some (form widV3 getV3 Instr.vfmin _) = _ from congrArg some (form_some (getV3_flds o))) h

theorem RoundTrip.evfmin (o : V3) : RoundTrip.Statement (.evfmin o) := fun g last h =>
  decode_encode_of _ g last _ _ _ rfl (by decide) (by decide) (by simp [fldsV3, fldWidth, bvFld, boolFld])
    (show some (form widV3 getV3 Instr.evfmin _) = _ from congrArg some (form_some (getV3_flds o))) h

theorem RoundTrip.vfmax (o : V3) : RoundTrip.Statement (.vfmax o) := fun g last h =>
  decode_encode_of _ g last _ _ _ rfl (by decide) (by decide) (by simp [fldsV3, fldWidth, bvFld, boolFld])
    (show some (form widV3 getV3 Instr.vfmax _) = _ from congrArg some (form_some (getV3_flds o))) h

theorem RoundTrip.evfmax (o : V3) : RoundTrip.Statement (.evfmax o) := fun g last h =>
  decode_encode_of _ g last _ _ _ rfl (by decide) (by decide) (by simp [fldsV3, fldWidth, bvFld, boolFld])
    (show some (form widV3 getV3 Instr.evfmax _) = _ from congrArg some (form_some (getV3_flds o))) h

theorem RoundTrip.vfneg (o : V2) : RoundTrip.Statement (.vfneg o) := fun g last h =>
  decode_encode_of _ g last _ _ _ rfl (by decide) (by decide) (by simp [fldsV2, fldWidth, bvFld, boolFld])
    (show some (form widV2 getV2 Instr.vfneg _) = _ from congrArg some (form_some (getV2_flds o))) h

theorem RoundTrip.evfneg (o : V2) : RoundTrip.Statement (.evfneg o) := fun g last h =>
  decode_encode_of _ g last _ _ _ rfl (by decide) (by decide) (by simp [fldsV2, fldWidth, bvFld, boolFld])
    (show some (form widV2 getV2 Instr.evfneg _) = _ from congrArg some (form_some (getV2_flds o))) h

theorem RoundTrip.vfabs (o : V2) : RoundTrip.Statement (.vfabs o) := fun g last h =>
  decode_encode_of _ g last _ _ _ rfl (by decide) (by decide) (by simp [fldsV2, fldWidth, bvFld, boolFld])
    (show some (form widV2 getV2 Instr.vfabs _) = _ from congrArg some (form_some (getV2_flds o))) h

theorem RoundTrip.evfabs (o : V2) : RoundTrip.Statement (.evfabs o) := fun g last h =>
  decode_encode_of _ g last _ _ _ rfl (by decide) (by decide) (by simp [fldsV2, fldWidth, bvFld, boolFld])
    (show some (form widV2 getV2 Instr.evfabs _) = _ from congrArg some (form_some (getV2_flds o))) h

theorem RoundTrip.vfrcp (o : V2) : RoundTrip.Statement (.vfrcp o) := fun g last h =>
  decode_encode_of _ g last _ _ _ rfl (by decide) (by decide) (by simp [fldsV2, fldWidth, bvFld, boolFld])
    (show some (form widV2 getV2 Instr.vfrcp _) = _ from congrArg some (form_some (getV2_flds o))) h

theorem RoundTrip.evfrcp (o : V2) : RoundTrip.Statement (.evfrcp o) := fun g last h =>
  decode_encode_of _ g last _ _ _ rfl (by decide) (by decide) (by simp [fldsV2, fldWidth, bvFld, boolFld])
    (show some (form widV2 getV2 Instr.evfrcp _) = _ from congrArg some (form_some (getV2_flds o))) h

theorem RoundTrip.vfrsq (o : V2) : RoundTrip.Statement (.vfrsq o) := fun g last h =>
  decode_encode_of _ g last _ _ _ rfl (by decide) (by decide) (by simp [fldsV2, fldWidth, bvFld, boolFld])
    (show some (form widV2 getV2 Instr.vfrsq _) = _ from congrArg some (form_some (getV2_flds o))) h

theorem RoundTrip.evfrsq (o : V2) : RoundTrip.Statement (.evfrsq o) := fun g last h =>
  decode_encode_of _ g last _ _ _ rfl (by decide) (by decide) (by simp [fldsV2, fldWidth, bvFld, boolFld])
    (show some (form widV2 getV2 Instr.evfrsq _) = _ from congrArg some (form_some (getV2_flds o))) h

theorem RoundTrip.vfexp2 (o : V2) : RoundTrip.Statement (.vfexp2 o) := fun g last h =>
  decode_encode_of _ g last _ _ _ rfl (by decide) (by decide) (by simp [fldsV2, fldWidth, bvFld, boolFld])
    (show some (form widV2 getV2 Instr.vfexp2 _) = _ from congrArg some (form_some (getV2_flds o))) h

theorem RoundTrip.evfexp2 (o : V2) : RoundTrip.Statement (.evfexp2 o) := fun g last h =>
  decode_encode_of _ g last _ _ _ rfl (by decide) (by decide) (by simp [fldsV2, fldWidth, bvFld, boolFld])
    (show some (form widV2 getV2 Instr.evfexp2 _) = _ from congrArg some (form_some (getV2_flds o))) h

theorem RoundTrip.vflog2 (o : V2) : RoundTrip.Statement (.vflog2 o) := fun g last h =>
  decode_encode_of _ g last _ _ _ rfl (by decide) (by decide) (by simp [fldsV2, fldWidth, bvFld, boolFld])
    (show some (form widV2 getV2 Instr.vflog2 _) = _ from congrArg some (form_some (getV2_flds o))) h

theorem RoundTrip.evflog2 (o : V2) : RoundTrip.Statement (.evflog2 o) := fun g last h =>
  decode_encode_of _ g last _ _ _ rfl (by decide) (by decide) (by simp [fldsV2, fldWidth, bvFld, boolFld])
    (show some (form widV2 getV2 Instr.evflog2 _) = _ from congrArg some (form_some (getV2_flds o))) h

theorem RoundTrip.vftanh (o : V2) : RoundTrip.Statement (.vftanh o) := fun g last h =>
  decode_encode_of _ g last _ _ _ rfl (by decide) (by decide) (by simp [fldsV2, fldWidth, bvFld, boolFld])
    (show some (form widV2 getV2 Instr.vftanh _) = _ from congrArg some (form_some (getV2_flds o))) h

theorem RoundTrip.evftanh (o : V2) : RoundTrip.Statement (.evftanh o) := fun g last h =>
  decode_encode_of _ g last _ _ _ rfl (by decide) (by decide) (by simp [fldsV2, fldWidth, bvFld, boolFld])
    (show some (form widV2 getV2 Instr.evftanh _) = _ from congrArg some (form_some (getV2_flds o))) h

theorem RoundTrip.vfcmp (o : VFc) : RoundTrip.Statement (.vfcmp o) := fun g last h =>
  decode_encode_of _ g last _ _ _ rfl (by decide) (by decide) (by simp [fldsVfc, fldWidth, bvFld, boolFld])
    (show some (form widVfc getVfc Instr.vfcmp _) = _ from congrArg some (form_some (getVfc_flds o))) h

theorem RoundTrip.evfcmp (o : VFc) : RoundTrip.Statement (.evfcmp o) := fun g last h =>
  decode_encode_of _ g last _ _ _ rfl (by decide) (by decide) (by simp [fldsVfc, fldWidth, bvFld, boolFld])
    (show some (form widVfc getVfc Instr.evfcmp _) = _ from congrArg some (form_some (getVfc_flds o))) h

theorem RoundTrip.vcvt (o : VC) : RoundTrip.Statement (.vcvt o) := fun g last h =>
  decode_encode_of _ g last _ _ _ rfl (by decide) (by decide) (by simp [fldsVc, fldWidth, bvFld, boolFld])
    (show some (form widVc getVc Instr.vcvt _) = _ from congrArg some (form_some (getVc_flds o))) h

theorem RoundTrip.evcvt (o : VC) : RoundTrip.Statement (.evcvt o) := fun g last h =>
  decode_encode_of _ g last _ _ _ rfl (by decide) (by decide) (by simp [fldsVc, fldWidth, bvFld, boolFld])
    (show some (form widVc getVc Instr.evcvt _) = _ from congrArg some (form_some (getVc_flds o))) h

theorem RoundTrip.vcvr (o : VC) : RoundTrip.Statement (.vcvr o) := fun g last h =>
  decode_encode_of _ g last _ _ _ rfl (by decide) (by decide) (by simp [fldsVc, fldWidth, bvFld, boolFld])
    (show some (form widVc getVc Instr.vcvr _) = _ from congrArg some (form_some (getVc_flds o))) h

theorem RoundTrip.evcvr (o : VC) : RoundTrip.Statement (.evcvr o) := fun g last h =>
  decode_encode_of _ g last _ _ _ rfl (by decide) (by decide) (by simp [fldsVc, fldWidth, bvFld, boolFld])
    (show some (form widVc getVc Instr.evcvr _) = _ from congrArg some (form_some (getVc_flds o))) h

theorem RoundTrip.vmerge (o : VC) : RoundTrip.Statement (.vmerge o) := fun g last h =>
  decode_encode_of _ g last _ _ _ rfl (by decide) (by decide) (by simp [fldsVc, fldWidth, bvFld, boolFld])
    (show some (form widVc getVc Instr.vmerge _) = _ from congrArg some (form_some (getVc_flds o))) h

theorem RoundTrip.evmerge (o : VC) : RoundTrip.Statement (.evmerge o) := fun g last h =>
  decode_encode_of _ g last _ _ _ rfl (by decide) (by decide) (by simp [fldsVc, fldWidth, bvFld, boolFld])
    (show some (form widVc getVc Instr.evmerge _) = _ from congrArg some (form_some (getVc_flds o))) h

theorem RoundTrip.vshoal (o : VC) : RoundTrip.Statement (.vshoal o) := fun g last h =>
  decode_encode_of _ g last _ _ _ rfl (by decide) (by decide) (by simp [fldsVc, fldWidth, bvFld, boolFld])
    (show some (form widVc getVc Instr.vshoal _) = _ from congrArg some (form_some (getVc_flds o))) h

theorem RoundTrip.evshoal (o : VC) : RoundTrip.Statement (.evshoal o) := fun g last h =>
  decode_encode_of _ g last _ _ _ rfl (by decide) (by decide) (by simp [fldsVc, fldWidth, bvFld, boolFld])
    (show some (form widVc getVc Instr.evshoal _) = _ from congrArg some (form_some (getVc_flds o))) h

theorem RoundTrip.vscale (o : VC) : RoundTrip.Statement (.vscale o) := fun g last h =>
  decode_encode_of _ g last _ _ _ rfl (by decide) (by decide) (by simp [fldsVc, fldWidth, bvFld, boolFld])
    (show some (form widVc getVc Instr.vscale _) = _ from congrArg some (form_some (getVc_flds o))) h

theorem RoundTrip.evscale (o : VC) : RoundTrip.Statement (.evscale o) := fun g last h =>
  decode_encode_of _ g last _ _ _ rfl (by decide) (by decide) (by simp [fldsVc, fldWidth, bvFld, boolFld])
    (show some (form widVc getVc Instr.evscale _) = _ from congrArg some (form_some (getVc_flds o))) h

theorem RoundTrip.vbpenc (o : VC) : RoundTrip.Statement (.vbpenc o) := fun g last h =>
  decode_encode_of _ g last _ _ _ rfl (by decide) (by decide) (by simp [fldsVc, fldWidth, bvFld, boolFld])
    (show some (form widVc getVc Instr.vbpenc _) = _ from congrArg some (form_some (getVc_flds o))) h

theorem RoundTrip.evbpenc (o : VC) : RoundTrip.Statement (.evbpenc o) := fun g last h =>
  decode_encode_of _ g last _ _ _ rfl (by decide) (by decide) (by simp [fldsVc, fldWidth, bvFld, boolFld])
    (show some (form widVc getVc Instr.evbpenc _) = _ from congrArg some (form_some (getVc_flds o))) h

theorem RoundTrip.vbpdec (o : VC) : RoundTrip.Statement (.vbpdec o) := fun g last h =>
  decode_encode_of _ g last _ _ _ rfl (by decide) (by decide) (by simp [fldsVc, fldWidth, bvFld, boolFld])
    (show some (form widVc getVc Instr.vbpdec _) = _ from congrArg some (form_some (getVc_flds o))) h

theorem RoundTrip.evbpdec (o : VC) : RoundTrip.Statement (.evbpdec o) := fun g last h =>
  decode_encode_of _ g last _ _ _ rfl (by decide) (by decide) (by simp [fldsVc, fldWidth, bvFld, boolFld])
    (show some (form widVc getVc Instr.evbpdec _) = _ from congrArg some (form_some (getVc_flds o))) h

theorem RoundTrip.vredadd (o : VC) : RoundTrip.Statement (.vredadd o) := fun g last h =>
  decode_encode_of _ g last _ _ _ rfl (by decide) (by decide) (by simp [fldsVc, fldWidth, bvFld, boolFld])
    (show some (form widVc getVc Instr.vredadd _) = _ from congrArg some (form_some (getVc_flds o))) h

theorem RoundTrip.evredadd (o : VC) : RoundTrip.Statement (.evredadd o) := fun g last h =>
  decode_encode_of _ g last _ _ _ rfl (by decide) (by decide) (by simp [fldsVc, fldWidth, bvFld, boolFld])
    (show some (form widVc getVc Instr.evredadd _) = _ from congrArg some (form_some (getVc_flds o))) h

theorem RoundTrip.vredmax (o : VC) : RoundTrip.Statement (.vredmax o) := fun g last h =>
  decode_encode_of _ g last _ _ _ rfl (by decide) (by decide) (by simp [fldsVc, fldWidth, bvFld, boolFld])
    (show some (form widVc getVc Instr.vredmax _) = _ from congrArg some (form_some (getVc_flds o))) h

theorem RoundTrip.evredmax (o : VC) : RoundTrip.Statement (.evredmax o) := fun g last h =>
  decode_encode_of _ g last _ _ _ rfl (by decide) (by decide) (by simp [fldsVc, fldWidth, bvFld, boolFld])
    (show some (form widVc getVc Instr.evredmax _) = _ from congrArg some (form_some (getVc_flds o))) h

theorem RoundTrip.vredmin (o : VC) : RoundTrip.Statement (.vredmin o) := fun g last h =>
  decode_encode_of _ g last _ _ _ rfl (by decide) (by decide) (by simp [fldsVc, fldWidth, bvFld, boolFld])
    (show some (form widVc getVc Instr.vredmin _) = _ from congrArg some (form_some (getVc_flds o))) h

theorem RoundTrip.evredmin (o : VC) : RoundTrip.Statement (.evredmin o) := fun g last h =>
  decode_encode_of _ g last _ _ _ rfl (by decide) (by decide) (by simp [fldsVc, fldWidth, bvFld, boolFld])
    (show some (form widVc getVc Instr.evredmin _) = _ from congrArg some (form_some (getVc_flds o))) h

theorem RoundTrip.vscan (o : VC) : RoundTrip.Statement (.vscan o) := fun g last h =>
  decode_encode_of _ g last _ _ _ rfl (by decide) (by decide) (by simp [fldsVc, fldWidth, bvFld, boolFld])
    (show some (form widVc getVc Instr.vscan _) = _ from congrArg some (form_some (getVc_flds o))) h

theorem RoundTrip.evscan (o : VC) : RoundTrip.Statement (.evscan o) := fun g last h =>
  decode_encode_of _ g last _ _ _ rfl (by decide) (by decide) (by simp [fldsVc, fldWidth, bvFld, boolFld])
    (show some (form widVc getVc Instr.evscan _) = _ from congrArg some (form_some (getVc_flds o))) h

theorem RoundTrip.vld (o : VLd) : RoundTrip.Statement (.vld o) := fun g last h =>
  decode_encode_of _ g last _ _ _ rfl (by decide) (by decide) (by simp [fldsVld, fldWidth, bvFld, boolFld])
    (show some (form widVld getVld Instr.vld _) = _ from congrArg some (form_some (getVld_flds o))) h

theorem RoundTrip.evld (o : VLd) : RoundTrip.Statement (.evld o) := fun g last h =>
  decode_encode_of _ g last _ _ _ rfl (by decide) (by decide) (by simp [fldsVld, fldWidth, bvFld, boolFld])
    (show some (form widVld getVld Instr.evld _) = _ from congrArg some (form_some (getVld_flds o))) h

theorem RoundTrip.vst (o : VSt) : RoundTrip.Statement (.vst o) := fun g last h =>
  decode_encode_of _ g last _ _ _ rfl (by decide) (by decide) (by simp [fldsVst, fldWidth, bvFld, boolFld])
    (show some (form widVst getVst Instr.vst _) = _ from congrArg some (form_some (getVst_flds o))) h

theorem RoundTrip.evst (o : VSt) : RoundTrip.Statement (.evst o) := fun g last h =>
  decode_encode_of _ g last _ _ _ rfl (by decide) (by decide) (by simp [fldsVst, fldWidth, bvFld, boolFld])
    (show some (form widVst getVst Instr.evst _) = _ from congrArg some (form_some (getVst_flds o))) h

theorem RoundTrip.vldx (o : V2) : RoundTrip.Statement (.vldx o) := fun g last h =>
  decode_encode_of _ g last _ _ _ rfl (by decide) (by decide) (by simp [fldsV2, fldWidth, bvFld, boolFld])
    (show some (form widV2 getV2 Instr.vldx _) = _ from congrArg some (form_some (getV2_flds o))) h

theorem RoundTrip.evldx (o : V2) : RoundTrip.Statement (.evldx o) := fun g last h =>
  decode_encode_of _ g last _ _ _ rfl (by decide) (by decide) (by simp [fldsV2, fldWidth, bvFld, boolFld])
    (show some (form widV2 getV2 Instr.evldx _) = _ from congrArg some (form_some (getV2_flds o))) h

theorem RoundTrip.vperm (o : V3) : RoundTrip.Statement (.vperm o) := fun g last h =>
  decode_encode_of _ g last _ _ _ rfl (by decide) (by decide) (by simp [fldsV3, fldWidth, bvFld, boolFld])
    (show some (form widV3 getV3 Instr.vperm _) = _ from congrArg some (form_some (getV3_flds o))) h

theorem RoundTrip.evperm (o : V3) : RoundTrip.Statement (.evperm o) := fun g last h =>
  decode_encode_of _ g last _ _ _ rfl (by decide) (by decide) (by simp [fldsV3, fldWidth, bvFld, boolFld])
    (show some (form widV3 getV3 Instr.evperm _) = _ from congrArg some (form_some (getV3_flds o))) h

theorem RoundTrip.vrmg (o : VR) : RoundTrip.Statement (.vrmg o) := fun g last h =>
  decode_encode_of _ g last _ _ _ rfl (by decide) (by decide) (by simp [fldsVr, fldWidth, bvFld, boolFld])
    (show some (form widVr getVr Instr.vrmg _) = _ from congrArg some (form_some (getVr_flds o))) h

theorem RoundTrip.evrmg (o : VR) : RoundTrip.Statement (.evrmg o) := fun g last h =>
  decode_encode_of _ g last _ _ _ rfl (by decide) (by decide) (by simp [fldsVr, fldWidth, bvFld, boolFld])
    (show some (form widVr getVr Instr.evrmg _) = _ from congrArg some (form_some (getVr_flds o))) h

theorem RoundTrip.vbcast (o : VBc) : RoundTrip.Statement (.vbcast o) := fun g last h =>
  decode_encode_of _ g last _ _ _ rfl (by decide) (by decide) (by simp [fldsVbc, fldWidth, bvFld, boolFld])
    (show some (form widVbc getVbc Instr.vbcast _) = _ from congrArg some (form_some (getVbc_flds o))) h

theorem RoundTrip.evbcast (o : VBc) : RoundTrip.Statement (.evbcast o) := fun g last h =>
  decode_encode_of _ g last _ _ _ rfl (by decide) (by decide) (by simp [fldsVbc, fldWidth, bvFld, boolFld])
    (show some (form widVbc getVbc Instr.evbcast _) = _ from congrArg some (form_some (getVbc_flds o))) h

theorem RoundTrip.vext (o : VExt) : RoundTrip.Statement (.vext o) := fun g last h =>
  decode_encode_of _ g last _ _ _ rfl (by decide) (by decide) (by simp [fldsVext, fldWidth, bvFld, boolFld])
    (show some (form widVext getVext Instr.vext _) = _ from congrArg some (form_some (getVext_flds o))) h

theorem RoundTrip.vins (o : VIns) : RoundTrip.Statement (.vins o) := fun g last h =>
  decode_encode_of _ g last _ _ _ rfl (by decide) (by decide) (by simp [fldsVins, fldWidth, bvFld, boolFld])
    (show some (form widVins getVins Instr.vins _) = _ from congrArg some (form_some (getVins_flds o))) h

theorem RoundTrip.evins (o : VIns) : RoundTrip.Statement (.evins o) := fun g last h =>
  decode_encode_of _ g last _ _ _ rfl (by decide) (by decide) (by simp [fldsVins, fldWidth, bvFld, boolFld])
    (show some (form widVins getVins Instr.evins _) = _ from congrArg some (form_some (getVins_flds o))) h

theorem RoundTrip.hpush (o : VA) : RoundTrip.Statement (.hpush o) := fun g last h =>
  decode_encode_of _ g last _ _ _ rfl (by decide) (by decide) (by simp [fldsHpush, fldWidth, bvFld, boolFld])
    (show some (form widHpush getHpush Instr.hpush _) = _ from congrArg some (form_some (getHpush_flds o))) h

theorem RoundTrip.hpop (o : VA) : RoundTrip.Statement (.hpop o) := fun g last h =>
  decode_encode_of _ g last _ _ _ rfl (by decide) (by decide) (by simp [fldsHpop, fldWidth, bvFld, boolFld])
    (show some (form widHpop getHpop Instr.hpop _) = _ from congrArg some (form_some (getHpop_flds o))) h

theorem RoundTrip.mand (o : VK) : RoundTrip.Statement (.mand o) := fun g last h =>
  decode_encode_of _ g last _ _ _ rfl (by decide) (by decide) (by simp [fldsVk, fldWidth, bvFld, boolFld])
    (show some (form widVk getVk Instr.mand _) = _ from congrArg some (form_some (getVk_flds o))) h

theorem RoundTrip.emand (o : VK) : RoundTrip.Statement (.emand o) := fun g last h =>
  decode_encode_of _ g last _ _ _ rfl (by decide) (by decide) (by simp [fldsVk, fldWidth, bvFld, boolFld])
    (show some (form widVk getVk Instr.emand _) = _ from congrArg some (form_some (getVk_flds o))) h

theorem RoundTrip.mor (o : VK) : RoundTrip.Statement (.mor o) := fun g last h =>
  decode_encode_of _ g last _ _ _ rfl (by decide) (by decide) (by simp [fldsVk, fldWidth, bvFld, boolFld])
    (show some (form widVk getVk Instr.mor _) = _ from congrArg some (form_some (getVk_flds o))) h

theorem RoundTrip.emor (o : VK) : RoundTrip.Statement (.emor o) := fun g last h =>
  decode_encode_of _ g last _ _ _ rfl (by decide) (by decide) (by simp [fldsVk, fldWidth, bvFld, boolFld])
    (show some (form widVk getVk Instr.emor _) = _ from congrArg some (form_some (getVk_flds o))) h

theorem RoundTrip.mnot (o : VK2) : RoundTrip.Statement (.mnot o) := fun g last h =>
  decode_encode_of _ g last _ _ _ rfl (by decide) (by decide) (by simp [fldsVk2, fldWidth, bvFld, boolFld])
    (show some (form widVk2 getVk2 Instr.mnot _) = _ from congrArg some (form_some (getVk2_flds o))) h

theorem RoundTrip.emnot (o : VK2) : RoundTrip.Statement (.emnot o) := fun g last h =>
  decode_encode_of _ g last _ _ _ rfl (by decide) (by decide) (by simp [fldsVk2, fldWidth, bvFld, boolFld])
    (show some (form widVk2 getVk2 Instr.emnot _) = _ from congrArg some (form_some (getVk2_flds o))) h

theorem RoundTrip.mringSet (o : MRing2) : RoundTrip.Statement (.mringSet o) := fun g last h =>
  decode_encode_of _ g last _ _ _ rfl (by decide) (by decide) (by simp [fldsMrset, fldWidth, bvFld, boolFld])
    (by rw [show decodeOp _ _ _ = some (_ <|> _) from rfl, form_some (getMrset_flds o)]; rfl) h

theorem RoundTrip.mringRead (o : MRing1) : RoundTrip.Statement (.mringRead o) := fun g last h =>
  decode_encode_of _ g last _ _ _ rfl (by decide) (by decide) (by simp [fldsMrread, fldWidth, bvFld, boolFld])
    (by rw [show decodeOp _ _ _ = some (_ <|> _) from rfl, form_none (getMrset_fldsMrread o), form_some (getMrread_flds o)]; rfl) h

theorem RoundTrip.mringLoad (o : MRing1) : RoundTrip.Statement (.mringLoad o) := fun g last h =>
  decode_encode_of _ g last _ _ _ rfl (by decide) (by decide) (by simp [fldsMrload, fldWidth, bvFld, boolFld])
    (by rw [show decodeOp _ _ _ = some (_ <|> _) from rfl, form_none (getMrset_fldsMrload o), form_none (getMrread_fldsMrload o), form_some (getMrload_flds o)]; rfl) h

theorem RoundTrip.mtail (o : MRing1) : RoundTrip.Statement (.mtail o) := fun g last h =>
  decode_encode_of _ g last _ _ _ rfl (by decide) (by decide) (by simp [fldsMtail, fldWidth, bvFld, boolFld])
    (show some (form widMtail getMtail Instr.mtail _) = _ from congrArg some (form_some (getMtail_flds o))) h

theorem RoundTrip.fmtq (o : FmtqOp) : RoundTrip.Statement (.fmtq o) := fun g last h =>
  decode_encode_of _ g last _ _ _ rfl (by decide) (by decide) (by simp [fldsFmtq, fldWidth, bvFld, boolFld])
    (show some (form widFmtq getFmtq Instr.fmtq _) = _ from congrArg some (form_some (getFmtq_flds o))) h

theorem RoundTrip.mwld (o : MwldOp) : RoundTrip.Statement (.mwld o) := fun g last h =>
  decode_encode_of _ g last _ _ _ rfl (by decide) (by decide) (by simp [fldsMwld, fldWidth, bvFld, boolFld])
    (show some (form widMwld getMwld Instr.mwld _) = _ from congrArg some (form_some (getMwld_flds o))) h

theorem RoundTrip.mmacr (o : ProdOp) : RoundTrip.Statement (.mmacr o) := fun g last h =>
  decode_encode_of _ g last _ _ _ rfl (by decide) (by decide) (by simp [fldsProd, fldWidth, bvFld, boolFld])
    (show some (form widProd getProd Instr.mmacr _) = _ from congrArg some (form_some (getProd_flds o))) h

theorem RoundTrip.mmasr (o : ProdOp) : RoundTrip.Statement (.mmasr o) := fun g last h =>
  decode_encode_of _ g last _ _ _ rfl (by decide) (by decide) (by simp [fldsProd, fldWidth, bvFld, boolFld])
    (show some (form widProd getProd Instr.mmasr _) = _ from congrArg some (form_some (getProd_flds o))) h

theorem RoundTrip.emmul (o : ProdOp) : RoundTrip.Statement (.emmul o) := fun g last h =>
  decode_encode_of _ g last _ _ _ rfl (by decide) (by decide) (by simp [fldsProd, fldWidth, bvFld, boolFld])
    (show some (form widProd getProd Instr.emmul _) = _ from congrArg some (form_some (getProd_flds o))) h

theorem RoundTrip.emfma (o : ProdOp) : RoundTrip.Statement (.emfma o) := fun g last h =>
  decode_encode_of _ g last _ _ _ rfl (by decide) (by decide) (by simp [fldsProd, fldWidth, bvFld, boolFld])
    (show some (form widProd getProd Instr.emfma _) = _ from congrArg some (form_some (getProd_flds o))) h

theorem RoundTrip.emclr (o : StOp) : RoundTrip.Statement (.emclr o) := fun g last h =>
  decode_encode_of _ g last _ _ _ rfl (by decide) (by decide) (by simp [fldsStp, fldWidth, bvFld, boolFld])
    (show some (form widStp getStp Instr.emclr _) = _ from congrArg some (form_some (getStp_flds o))) h

theorem RoundTrip.rtqr (o : RtqrOp) : RoundTrip.Statement (.rtqr o) := fun g last h =>
  decode_encode_of _ g last _ _ _ rfl (by decide) (by decide) (by simp [fldsRtqr, fldWidth, bvFld, boolFld])
    (show some (form widRtqr getRtqr Instr.rtqr _) = _ from congrArg some (form_some (getRtqr_flds o))) h

theorem RoundTrip.rtapl (o : RtaplOp) : RoundTrip.Statement (.rtapl o) := fun g last h =>
  decode_encode_of _ g last _ _ _ rfl (by decide) (by decide) (by simp [fldsRtapl, fldWidth, bvFld, boolFld])
    (show some (form widRtapl getRtapl Instr.rtapl _) = _ from congrArg some (form_some (getRtapl_flds o))) h

theorem RoundTrip.rtinvQr (o : RtinvQOp) : RoundTrip.Statement (.rtinvQr o) := fun g last h =>
  decode_encode_of _ g last _ _ _ rfl (by decide) (by decide) (by simp [fldsRtinvq, fldWidth, bvFld, boolFld])
    (by rw [show decodeOp _ _ _ = some (_ <|> _) from rfl, form_some (getRtinvq_flds o)]; rfl) h

theorem RoundTrip.rtinvApl (o : RtaplOp) : RoundTrip.Statement (.rtinvApl o) := fun g last h =>
  decode_encode_of _ g last _ _ _ rfl (by decide) (by decide) (by simp [fldsRtinva, fldWidth, bvFld, boolFld])
    (by rw [show decodeOp _ _ _ = some (_ <|> _) from rfl, form_none (getRtinvq_fldsRtinva o), form_some (getRtinva_flds o)]; rfl) h

theorem RoundTrip.rtsolve (o : RtsolveOp) : RoundTrip.Statement (.rtsolve o) := fun g last h =>
  decode_encode_of _ g last _ _ _ rfl (by decide) (by decide) (by simp [fldsRtsolve, fldWidth, bvFld, boolFld])
    (show some (form widRtsolve getRtsolve Instr.rtsolve _) = _ from congrArg some (form_some (getRtsolve_flds o))) h

theorem RoundTrip.rtrd (o : RtrwOp) : RoundTrip.Statement (.rtrd o) := fun g last h =>
  decode_encode_of _ g last _ _ _ rfl (by decide) (by decide) (by simp [fldsRtrw, fldWidth, bvFld, boolFld])
    (show some (form widRtrw getRtrw Instr.rtrd _) = _ from congrArg some (form_some (getRtrw_flds o))) h

theorem RoundTrip.rtwr (o : RtrwOp) : RoundTrip.Statement (.rtwr o) := fun g last h =>
  decode_encode_of _ g last _ _ _ rfl (by decide) (by decide) (by simp [fldsRtrw, fldWidth, bvFld, boolFld])
    (show some (form widRtrw getRtrw Instr.rtwr _) = _ from congrArg some (form_some (getRtrw_flds o))) h

theorem RoundTrip.rtgainSet (o : RtgainOp) : RoundTrip.Statement (.rtgainSet o) := fun g last h =>
  decode_encode_of _ g last _ _ _ rfl (by decide) (by decide) (by simp [fldsRtgs, fldWidth, bvFld, boolFld])
    (by rw [show decodeOp _ _ _ = some (_ <|> _) from rfl, form_some (getRtgs_flds o)]; rfl) h

theorem RoundTrip.rtgainRead (o : FmtqOp) : RoundTrip.Statement (.rtgainRead o) := fun g last h =>
  decode_encode_of _ g last _ _ _ rfl (by decide) (by decide) (by simp [fldsRtgr, fldWidth, bvFld, boolFld])
    (by rw [show decodeOp _ _ _ = some (_ <|> _) from rfl, form_none (getRtgs_fldsRtgr o), form_some (getRtgr_flds o)]; rfl) h

theorem RoundTrip.ertclr (o : StOp) : RoundTrip.Statement (.ertclr o) := fun g last h =>
  decode_encode_of _ g last _ _ _ rfl (by decide) (by decide) (by simp [fldsStp, fldWidth, bvFld, boolFld])
    (show some (form widStp getStp Instr.ertclr _) = _ from congrArg some (form_some (getStp_flds o))) h

theorem RoundTrip.cpy (o : COp) : RoundTrip.Statement (.cpy o) := fun g last h =>
  decode_encode_of _ g last _ _ _ rfl (by decide) (by decide) (by simp [fldsC, fldWidth, bvFld, boolFld])
    (show some (form widC getC Instr.cpy _) = _ from congrArg some (form_some (getC_flds o))) h

theorem RoundTrip.cpyx (o : COp) : RoundTrip.Statement (.cpyx o) := fun g last h =>
  decode_encode_of _ g last _ _ _ rfl (by decide) (by decide) (by simp [fldsC, fldWidth, bvFld, boolFld])
    (show some (form widC getC Instr.cpyx _) = _ from congrArg some (form_some (getC_flds o))) h

theorem RoundTrip.cpycPack (o : CcOp) : RoundTrip.Statement (.cpycPack o) := fun g last h =>
  decode_encode_of _ g last _ _ _ rfl (by decide) (by decide) (by simp [fldsCcp, fldWidth, bvFld, boolFld])
    (by rw [show decodeOp _ _ _ = some (_ <|> _) from rfl, form_some (getCcp_flds o)]; rfl) h

theorem RoundTrip.cpycUnpack (o : CcOp) : RoundTrip.Statement (.cpycUnpack o) := fun g last h =>
  decode_encode_of _ g last _ _ _ rfl (by decide) (by decide) (by simp [fldsCcu, fldWidth, bvFld, boolFld])
    (by rw [show decodeOp _ _ _ = some (_ <|> _) from rfl, form_none (getCcp_fldsCcu o), form_some (getCcu_flds o)]; rfl) h

theorem RoundTrip.cpyg (o : CgOp) : RoundTrip.Statement (.cpyg o) := fun g last h =>
  decode_encode_of _ g last _ _ _ rfl (by decide) (by decide) (by simp [fldsCg, fldWidth, bvFld, boolFld])
    (show some (form widCg getCg Instr.cpyg _) = _ from congrArg some (form_some (getCg_flds o))) h

theorem RoundTrip.cpys (o : CsOp) : RoundTrip.Statement (.cpys o) := fun g last h =>
  decode_encode_of _ g last _ _ _ rfl (by decide) (by decide) (by simp [fldsCs, fldWidth, bvFld, boolFld])
    (show some (form widCs getCs Instr.cpys _) = _ from congrArg some (form_some (getCs_flds o))) h

theorem RoundTrip.cpyz (o : CzOp) : RoundTrip.Statement (.cpyz o) := fun g last h =>
  decode_encode_of _ g last _ _ _ rfl (by decide) (by decide) (by simp [fldsCz, fldWidth, bvFld, boolFld])
    (show some (form widCz getCz Instr.cpyz _) = _ from congrArg some (form_some (getCz_flds o))) h

theorem RoundTrip.cpyv (o : CvOp) : RoundTrip.Statement (.cpyv o) := fun g last h =>
  decode_encode_of _ g last _ _ _ rfl (by decide) (by decide) (by simp [fldsCv, fldWidth, bvFld, boolFld])
    (show some (form widCv getCv Instr.cpyv _) = _ from congrArg some (form_some (getCv_flds o))) h

theorem RoundTrip.ppcmp (o : PpOp) : RoundTrip.Statement (.ppcmp o) := fun g last h =>
  decode_encode_of _ g last _ _ _ rfl (by decide) (by decide) (by simp [fldsPp, fldWidth, bvFld, boolFld])
    (show some (form widPp getPp Instr.ppcmp _) = _ from congrArg some (form_some (getPp_flds o))) h

theorem RoundTrip.lsend (o : LsendOp) : RoundTrip.Statement (.lsend o) := fun g last h =>
  decode_encode_of _ g last _ _ _ rfl (by decide) (by decide) (by simp [fldsLsend, fldWidth, bvFld, boolFld])
    (show some (form widLsend getLsend Instr.lsend _) = _ from congrArg some (form_some (getLsend_flds o))) h

theorem RoundTrip.lrecv (o : LrecvOp) : RoundTrip.Statement (.lrecv o) := fun g last h =>
  decode_encode_of _ g last _ _ _ rfl (by decide) (by decide) (by simp [fldsLrecv, fldWidth, bvFld, boolFld])
    (show some (form widLrecv getLrecv Instr.lrecv _) = _ from congrArg some (form_some (getLrecv_flds o))) h

theorem RoundTrip.lradd (o : LraddOp) : RoundTrip.Statement (.lradd o) := fun g last h =>
  decode_encode_of _ g last _ _ _ rfl (by decide) (by decide) (by simp [fldsLradd, fldWidth, bvFld, boolFld])
    (show some (form widLradd getLradd Instr.lradd _) = _ from congrArg some (form_some (getLradd_flds o))) h

theorem RoundTrip.lcancel (o : LTile) : RoundTrip.Statement (.lcancel o) := fun g last h =>
  decode_encode_of _ g last _ _ _ rfl (by decide) (by decide) (by simp [fldsLtile, fldWidth, bvFld, boolFld])
    (show some (form widLtile getLtile Instr.lcancel _) = _ from congrArg some (form_some (getLtile_flds o))) h

theorem RoundTrip.lprec (o : LprecOp) : RoundTrip.Statement (.lprec o) := fun g last h =>
  decode_encode_of _ g last _ _ _ rfl (by decide) (by decide) (by simp [fldsLprec, fldWidth, bvFld, boolFld])
    (show some (form widLprec getLprec Instr.lprec _) = _ from congrArg some (form_some (getLprec_flds o))) h

theorem RoundTrip.lwprec (o : LwprecOp) : RoundTrip.Statement (.lwprec o) := fun g last h =>
  decode_encode_of _ g last _ _ _ rfl (by decide) (by decide) (by simp [fldsLwprec, fldWidth, bvFld, boolFld])
    (show some (form widLwprec getLwprec Instr.lwprec _) = _ from congrArg some (form_some (getLwprec_flds o))) h

theorem RoundTrip.nmc (o : NmcOp) : RoundTrip.Statement (.nmc o) := fun g last h =>
  decode_encode_of _ g last _ _ _ rfl (by decide) (by decide) (by simp [fldsNmc, fldWidth, bvFld, boolFld])
    (show some (form widNmc getNmc Instr.nmc _) = _ from congrArg some (form_some (getNmc_flds o))) h

theorem RoundTrip.wake (o : EngOp) : RoundTrip.Statement (.wake o) := fun g last h =>
  decode_encode_of _ g last _ _ _ rfl (by decide) (by decide) (by simp [fldsEng, fldWidth, bvFld, boolFld])
    (show some (form widEng getEng Instr.wake _) = _ from congrArg some (form_some (getEng_flds o))) h

theorem RoundTrip.gate (o : EngOp) : RoundTrip.Statement (.gate o) := fun g last h =>
  decode_encode_of _ g last _ _ _ rfl (by decide) (by decide) (by simp [fldsEng, fldWidth, bvFld, boolFld])
    (show some (form widEng getEng Instr.gate _) = _ from congrArg some (form_some (getEng_flds o))) h

theorem RoundTrip.clkdiv (o : ClkOp) : RoundTrip.Statement (.clkdiv o) := fun g last h =>
  decode_encode_of _ g last _ _ _ rfl (by decide) (by decide) (by simp [fldsClk, fldWidth, bvFld, boolFld])
    (show some (form widClk getClk Instr.clkdiv _) = _ from congrArg some (form_some (getClk_flds o))) h

theorem RoundTrip.rdmeterUsed (o : RdmOp) : RoundTrip.Statement (.rdmeterUsed o) := fun g last h =>
  decode_encode_of _ g last _ _ _ rfl (by decide) (by decide) (by simp [fldsRdmu, fldWidth, bvFld, boolFld])
    (by rw [show decodeOp _ _ _ = some (_ <|> _) from rfl, form_some (getRdmu_flds o)]; rfl) h

theorem RoundTrip.rdmeterBal (o : RdmOp) : RoundTrip.Statement (.rdmeterBal o) := fun g last h =>
  decode_encode_of _ g last _ _ _ rfl (by decide) (by decide) (by simp [fldsRdmb, fldWidth, bvFld, boolFld])
    (by rw [show decodeOp _ _ _ = some (_ <|> _) from rfl, form_none (getRdmu_fldsRdmb o), form_some (getRdmb_flds o)]; rfl) h

theorem RoundTrip.dsync (o : DsyncOp) : RoundTrip.Statement (.dsync o) := fun g last h =>
  decode_encode_of _ g last _ _ _ rfl (by decide) (by decide) (by simp [fldsDsync, fldWidth, bvFld, boolFld])
    (show some (form widDsync getDsync Instr.dsync _) = _ from congrArg some (form_some (getDsync_flds o))) h

theorem RoundTrip.xsend (o : XsendOp) : RoundTrip.Statement (.xsend o) := fun g last h =>
  decode_encode_of _ g last _ _ _ rfl (by decide) (by decide) (by simp [fldsXsend, fldWidth, bvFld, boolFld])
    (show some (form widXsend getXsend Instr.xsend _) = _ from congrArg some (form_some (getXsend_flds o))) h

theorem RoundTrip.xrecv (o : XrecvOp) : RoundTrip.Statement (.xrecv o) := fun g last h =>
  decode_encode_of _ g last _ _ _ rfl (by decide) (by decide) (by simp [fldsXrecv, fldWidth, bvFld, boolFld])
    (show some (form widXrecv getXrecv Instr.xrecv _) = _ from congrArg some (form_some (getXrecv_flds o))) h

theorem RoundTrip.idle : RoundTrip.Statement .idle := fun g last h => decode_encode_of _ g last _ _ _ rfl (by decide) (by decide) rfl rfl h

theorem RoundTrip.rgnend : RoundTrip.Statement .rgnend := fun g last h => decode_encode_of _ g last _ _ _ rfl (by decide) (by decide) rfl rfl h

theorem RoundTrip.rti : RoundTrip.Statement .rti := fun g last h => decode_encode_of _ g last _ _ _ rfl (by decide) (by decide) rfl rfl h

theorem RoundTrip.halt : RoundTrip.Statement .halt := fun g last h => decode_encode_of _ g last _ _ _ rfl (by decide) (by decide) rfl rfl h

theorem RoundTrip.iinvAll : RoundTrip.Statement .iinvAll := fun g last h => decode_encode_of _ g last _ _ _ rfl (by decide) (by decide) rfl rfl h

theorem RoundTrip.realign : RoundTrip.Statement .realign := fun g last h => decode_encode_of _ g last _ _ _ rfl (by decide) (by decide) rfl rfl h

theorem RoundTrip.bundleFetch : RoundTrip.Statement .bundleFetch := fun g _ h => absurd h (not_wf_of_none _ g rfl)

theorem RoundTrip.scalarResultLand : RoundTrip.Statement .scalarResultLand := fun g _ h => absurd h (not_wf_of_none _ g rfl)

theorem RoundTrip.vectorResultLand : RoundTrip.Statement .vectorResultLand := fun g _ h => absurd h (not_wf_of_none _ g rfl)

theorem RoundTrip.regionOverrun : RoundTrip.Statement .regionOverrun := fun g _ h => absurd h (not_wf_of_none _ g rfl)

theorem RoundTrip.pendingDataTrap : RoundTrip.Statement .pendingDataTrap := fun g _ h => absurd h (not_wf_of_none _ g rfl)

theorem RoundTrip.strandEvent : RoundTrip.Statement .strandEvent := fun g _ h => absurd h (not_wf_of_none _ g rfl)

theorem RoundTrip.idleTimeout : RoundTrip.Statement .idleTimeout := fun g _ h => absurd h (not_wf_of_none _ g rfl)

theorem RoundTrip.awaitTimeout : RoundTrip.Statement .awaitTimeout := fun g _ h => absurd h (not_wf_of_none _ g rfl)

theorem RoundTrip.scalarStationAccess : RoundTrip.Statement .scalarStationAccess := fun g _ h => absurd h (not_wf_of_none _ g rfl)

theorem RoundTrip.scalarRowReturn : RoundTrip.Statement .scalarRowReturn := fun g _ h => absurd h (not_wf_of_none _ g rfl)

theorem RoundTrip.remoteAccessArrival : RoundTrip.Statement .remoteAccessArrival := fun g _ h => absurd h (not_wf_of_none _ g rfl)

theorem RoundTrip.remoteReply : RoundTrip.Statement .remoteReply := fun g _ h => absurd h (not_wf_of_none _ g rfl)

theorem RoundTrip.barrierArrival : RoundTrip.Statement .barrierArrival := fun g _ h => absurd h (not_wf_of_none _ g rfl)

theorem RoundTrip.arriveOutcome : RoundTrip.Statement .arriveOutcome := fun g _ h => absurd h (not_wf_of_none _ g rfl)

theorem RoundTrip.fenceComplete : RoundTrip.Statement .fenceComplete := fun g _ h => absurd h (not_wf_of_none _ g rfl)

theorem RoundTrip.xlatWalkDone : RoundTrip.Statement .xlatWalkDone := fun g _ h => absurd h (not_wf_of_none _ g rfl)

theorem RoundTrip.rdmeterDrainDone : RoundTrip.Statement .rdmeterDrainDone := fun g _ h => absurd h (not_wf_of_none _ g rfl)

theorem RoundTrip.strandStop : RoundTrip.Statement .strandStop := fun g _ h => absurd h (not_wf_of_none _ g rfl)

theorem RoundTrip.istoreFill : RoundTrip.Statement .istoreFill := fun g _ h => absurd h (not_wf_of_none _ g rfl)

theorem RoundTrip.historyTransferDone : RoundTrip.Statement .historyTransferDone := fun g _ h => absurd h (not_wf_of_none _ g rfl)

theorem RoundTrip.clockHandover : RoundTrip.Statement .clockHandover := fun g _ h => absurd h (not_wf_of_none _ g rfl)

theorem RoundTrip.engineGate : RoundTrip.Statement .engineGate := fun g _ h => absurd h (not_wf_of_none _ g rfl)

theorem RoundTrip.engineWakeDone : RoundTrip.Statement .engineWakeDone := fun g _ h => absurd h (not_wf_of_none _ g rfl)

theorem RoundTrip.lagoonHoldBegin : RoundTrip.Statement .lagoonHoldBegin := fun g _ h => absurd h (not_wf_of_none _ g rfl)

theorem RoundTrip.lagoonHoldEnd : RoundTrip.Statement .lagoonHoldEnd := fun g _ h => absurd h (not_wf_of_none _ g rfl)

theorem RoundTrip.railChange : RoundTrip.Statement .railChange := fun g _ h => absurd h (not_wf_of_none _ g rfl)

theorem RoundTrip.realignRelease : RoundTrip.Statement .realignRelease := fun g _ h => absurd h (not_wf_of_none _ g rfl)

theorem RoundTrip.dsyncRelease : RoundTrip.Statement .dsyncRelease := fun g _ h => absurd h (not_wf_of_none _ g rfl)

theorem RoundTrip.xsendDepart : RoundTrip.Statement .xsendDepart := fun g _ h => absurd h (not_wf_of_none _ g rfl)

theorem RoundTrip.xrecvArrival : RoundTrip.Statement .xrecvArrival := fun g _ h => absurd h (not_wf_of_none _ g rfl)

theorem RoundTrip.exchangeReceiveTimeout : RoundTrip.Statement .exchangeReceiveTimeout := fun g _ h => absurd h (not_wf_of_none _ g rfl)

theorem RoundTrip.exchangeFaultTaken : RoundTrip.Statement .exchangeFaultTaken := fun g _ h => absurd h (not_wf_of_none _ g rfl)

theorem RoundTrip.vldRowRead : RoundTrip.Statement .vldRowRead := fun g _ h => absurd h (not_wf_of_none _ g rfl)

theorem RoundTrip.vldDeposit : RoundTrip.Statement .vldDeposit := fun g _ h => absurd h (not_wf_of_none _ g rfl)

theorem RoundTrip.vstRowWrite : RoundTrip.Statement .vstRowWrite := fun g _ h => absurd h (not_wf_of_none _ g rfl)

theorem RoundTrip.matrixActivationRead : RoundTrip.Statement .matrixActivationRead := fun g _ h => absurd h (not_wf_of_none _ g rfl)

theorem RoundTrip.matrixAccumulatorRead : RoundTrip.Statement .matrixAccumulatorRead := fun g _ h => absurd h (not_wf_of_none _ g rfl)

theorem RoundTrip.matrixWeightCapture : RoundTrip.Statement .matrixWeightCapture := fun g _ h => absurd h (not_wf_of_none _ g rfl)

theorem RoundTrip.weightLoadChange : RoundTrip.Statement .weightLoadChange := fun g _ h => absurd h (not_wf_of_none _ g rfl)

theorem RoundTrip.matrixWriteback : RoundTrip.Statement .matrixWriteback := fun g _ h => absurd h (not_wf_of_none _ g rfl)

theorem RoundTrip.matrixRetire : RoundTrip.Statement .matrixRetire := fun g _ h => absurd h (not_wf_of_none _ g rfl)

theorem RoundTrip.rotatorRowRead : RoundTrip.Statement .rotatorRowRead := fun g _ h => absurd h (not_wf_of_none _ g rfl)

theorem RoundTrip.rotatorRowWrite : RoundTrip.Statement .rotatorRowWrite := fun g _ h => absurd h (not_wf_of_none _ g rfl)

theorem RoundTrip.rotatorQuietEvent : RoundTrip.Statement .rotatorQuietEvent := fun g _ h => absurd h (not_wf_of_none _ g rfl)

theorem RoundTrip.rotatorRetire : RoundTrip.Statement .rotatorRetire := fun g _ h => absurd h (not_wf_of_none _ g rfl)

theorem RoundTrip.copyStart : RoundTrip.Statement .copyStart := fun g _ h => absurd h (not_wf_of_none _ g rfl)

theorem RoundTrip.copyBurst : RoundTrip.Statement .copyBurst := fun g _ h => absurd h (not_wf_of_none _ g rfl)

theorem RoundTrip.copyRow : RoundTrip.Statement .copyRow := fun g _ h => absurd h (not_wf_of_none _ g rfl)

theorem RoundTrip.reefStreamRow : RoundTrip.Statement .reefStreamRow := fun g _ h => absurd h (not_wf_of_none _ g rfl)

theorem RoundTrip.gmAccess : RoundTrip.Statement .gmAccess := fun g _ h => absurd h (not_wf_of_none _ g rfl)

theorem RoundTrip.reefAtomic : RoundTrip.Statement .reefAtomic := fun g _ h => absurd h (not_wf_of_none _ g rfl)

theorem RoundTrip.nmcReefCheck : RoundTrip.Statement .nmcReefCheck := fun g _ h => absurd h (not_wf_of_none _ g rfl)

theorem RoundTrip.nmcRowUpdate : RoundTrip.Statement .nmcRowUpdate := fun g _ h => absurd h (not_wf_of_none _ g rfl)

theorem RoundTrip.accessCounterNotify : RoundTrip.Statement .accessCounterNotify := fun g _ h => absurd h (not_wf_of_none _ g rfl)

theorem RoundTrip.patrolScrub : RoundTrip.Statement .patrolScrub := fun g _ h => absurd h (not_wf_of_none _ g rfl)

theorem RoundTrip.refreshInterval : RoundTrip.Statement .refreshInterval := fun g _ h => absurd h (not_wf_of_none _ g rfl)

theorem RoundTrip.layerTempSample : RoundTrip.Statement .layerTempSample := fun g _ h => absurd h (not_wf_of_none _ g rfl)

theorem RoundTrip.scriptWord : RoundTrip.Statement .scriptWord := fun g _ h => absurd h (not_wf_of_none _ g rfl)

theorem RoundTrip.dynWindowEnd : RoundTrip.Statement .dynWindowEnd := fun g _ h => absurd h (not_wf_of_none _ g rfl)

theorem RoundTrip.channelFail : RoundTrip.Statement .channelFail := fun g _ h => absurd h (not_wf_of_none _ g rfl)

theorem RoundTrip.straitFrameReceive : RoundTrip.Statement .straitFrameReceive := fun g _ h => absurd h (not_wf_of_none _ g rfl)

theorem RoundTrip.replayRequest : RoundTrip.Statement .replayRequest := fun g _ h => absurd h (not_wf_of_none _ g rfl)

theorem RoundTrip.rclkLockLoss : RoundTrip.Statement .rclkLockLoss := fun g _ h => absurd h (not_wf_of_none _ g rfl)

theorem RoundTrip.tileHeaderArrival : RoundTrip.Statement .tileHeaderArrival := fun g _ h => absurd h (not_wf_of_none _ g rfl)

theorem RoundTrip.planeLanded : RoundTrip.Statement .planeLanded := fun g _ h => absurd h (not_wf_of_none _ g rfl)

theorem RoundTrip.relayPlaneSend : RoundTrip.Statement .relayPlaneSend := fun g _ h => absurd h (not_wf_of_none _ g rfl)

theorem RoundTrip.cancelMessage : RoundTrip.Statement .cancelMessage := fun g _ h => absurd h (not_wf_of_none _ g rfl)

theorem RoundTrip.endMessage : RoundTrip.Statement .endMessage := fun g _ h => absurd h (not_wf_of_none _ g rfl)

theorem RoundTrip.linkCommandArrive : RoundTrip.Statement .linkCommandArrive := fun g _ h => absurd h (not_wf_of_none _ g rfl)

theorem RoundTrip.revokePage : RoundTrip.Statement .revokePage := fun g _ h => absurd h (not_wf_of_none _ g rfl)

theorem RoundTrip.revocationComplete : RoundTrip.Statement .revocationComplete := fun g _ h => absurd h (not_wf_of_none _ g rfl)

theorem RoundTrip.pasidTeardown : RoundTrip.Statement .pasidTeardown := fun g _ h => absurd h (not_wf_of_none _ g rfl)

theorem RoundTrip.junctionTempReport : RoundTrip.Statement .junctionTempReport := fun g _ h => absurd h (not_wf_of_none _ g rfl)

theorem RoundTrip.preemptRequest : RoundTrip.Statement .preemptRequest := fun g _ h => absurd h (not_wf_of_none _ g rfl)

theorem RoundTrip.drainComplete : RoundTrip.Statement .drainComplete := fun g _ h => absurd h (not_wf_of_none _ g rfl)

theorem RoundTrip.ladderT1Expiry : RoundTrip.Statement .ladderT1Expiry := fun g _ h => absurd h (not_wf_of_none _ g rfl)

theorem RoundTrip.saveComplete : RoundTrip.Statement .saveComplete := fun g _ h => absurd h (not_wf_of_none _ g rfl)

theorem RoundTrip.ladderT2Expiry : RoundTrip.Statement .ladderT2Expiry := fun g _ h => absurd h (not_wf_of_none _ g rfl)

theorem RoundTrip.schedulerPlace : RoundTrip.Statement .schedulerPlace := fun g _ h => absurd h (not_wf_of_none _ g rfl)

theorem RoundTrip.blockerTimeout : RoundTrip.Statement .blockerTimeout := fun g _ h => absurd h (not_wf_of_none _ g rfl)

theorem RoundTrip.placementClaim : RoundTrip.Statement .placementClaim := fun g _ h => absurd h (not_wf_of_none _ g rfl)

theorem RoundTrip.claimWithdraw : RoundTrip.Statement .claimWithdraw := fun g _ h => absurd h (not_wf_of_none _ g rfl)

theorem RoundTrip.memberReport : RoundTrip.Statement .memberReport := fun g _ h => absurd h (not_wf_of_none _ g rfl)

theorem RoundTrip.memberReportTimeout : RoundTrip.Statement .memberReportTimeout := fun g _ h => absurd h (not_wf_of_none _ g rfl)

theorem RoundTrip.launchEnd : RoundTrip.Statement .launchEnd := fun g _ h => absurd h (not_wf_of_none _ g rfl)

theorem RoundTrip.strandFaultEnd : RoundTrip.Statement .strandFaultEnd := fun g _ h => absurd h (not_wf_of_none _ g rfl)

theorem RoundTrip.qtailDoorbell : RoundTrip.Statement .qtailDoorbell := fun g _ h => absurd h (not_wf_of_none _ g rfl)

theorem RoundTrip.nop : RoundTrip.Statement .nop := fun g _ h => absurd h (not_wf_of_none _ g rfl)

theorem RoundTrip.launch : RoundTrip.Statement .launch := fun g _ h => absurd h (not_wf_of_none _ g rfl)

theorem RoundTrip.launchResume : RoundTrip.Statement .launchResume := fun g _ h => absurd h (not_wf_of_none _ g rfl)

theorem RoundTrip.harvest : RoundTrip.Statement .harvest := fun g _ h => absurd h (not_wf_of_none _ g rfl)

theorem RoundTrip.migdone : RoundTrip.Statement .migdone := fun g _ h => absurd h (not_wf_of_none _ g rfl)

theorem RoundTrip.ccadd : RoundTrip.Statement .ccadd := fun g _ h => absurd h (not_wf_of_none _ g rfl)

theorem RoundTrip.ccdel : RoundTrip.Statement .ccdel := fun g _ h => absurd h (not_wf_of_none _ g rfl)

theorem RoundTrip.qcfgWrite : RoundTrip.Statement .qcfgWrite := fun g _ h => absurd h (not_wf_of_none _ g rfl)

theorem RoundTrip.cheadWrite : RoundTrip.Statement .cheadWrite := fun g _ h => absurd h (not_wf_of_none _ g rfl)

theorem RoundTrip.qctlPreempt : RoundTrip.Statement .qctlPreempt := fun g _ h => absurd h (not_wf_of_none _ g rfl)

theorem RoundTrip.qctlRelease : RoundTrip.Statement .qctlRelease := fun g _ h => absurd h (not_wf_of_none _ g rfl)

theorem RoundTrip.qctlGrant : RoundTrip.Statement .qctlGrant := fun g _ h => absurd h (not_wf_of_none _ g rfl)

theorem RoundTrip.qctlReenable : RoundTrip.Statement .qctlReenable := fun g _ h => absurd h (not_wf_of_none _ g rfl)

theorem RoundTrip.qmapWrite : RoundTrip.Statement .qmapWrite := fun g _ h => absurd h (not_wf_of_none _ g rfl)

theorem RoundTrip.devctlCold : RoundTrip.Statement .devctlCold := fun g _ h => absurd h (not_wf_of_none _ g rfl)

theorem RoundTrip.devctlWarm : RoundTrip.Statement .devctlWarm := fun g _ h => absurd h (not_wf_of_none _ g rfl)

theorem RoundTrip.powerOn : RoundTrip.Statement .powerOn := fun g _ h => absurd h (not_wf_of_none _ g rfl)

theorem RoundTrip.startDone : RoundTrip.Statement .startDone := fun g _ h => absurd h (not_wf_of_none _ g rfl)

theorem RoundTrip.fwupdGo : RoundTrip.Statement .fwupdGo := fun g _ h => absurd h (not_wf_of_none _ g rfl)

theorem RoundTrip.firmwareUpdateDone : RoundTrip.Statement .firmwareUpdateDone := fun g _ h => absurd h (not_wf_of_none _ g rfl)

theorem RoundTrip.dbgctlStop : RoundTrip.Statement .dbgctlStop := fun g _ h => absurd h (not_wf_of_none _ g rfl)

theorem RoundTrip.dbgctlBrken : RoundTrip.Statement .dbgctlBrken := fun g _ h => absurd h (not_wf_of_none _ g rfl)

theorem RoundTrip.dbgctlResume : RoundTrip.Statement .dbgctlResume := fun g _ h => absurd h (not_wf_of_none _ g rfl)

theorem RoundTrip.dbgdataRead : RoundTrip.Statement .dbgdataRead := fun g _ h => absurd h (not_wf_of_none _ g rfl)

theorem RoundTrip.dbgdataWrite : RoundTrip.Statement .dbgdataWrite := fun g _ h => absurd h (not_wf_of_none _ g rfl)

theorem RoundTrip.readClear : RoundTrip.Statement .readClear := fun g _ h => absurd h (not_wf_of_none _ g rfl)

theorem RoundTrip.registerWrite : RoundTrip.Statement .registerWrite := fun g _ h => absurd h (not_wf_of_none _ g rfl)

theorem RoundTrip.ageUpdate : RoundTrip.Statement .ageUpdate := fun g _ h => absurd h (not_wf_of_none _ g rfl)

theorem RoundTrip.pairMismatch : RoundTrip.Statement .pairMismatch := fun g _ h => absurd h (not_wf_of_none _ g rfl)

theorem RoundTrip.workerFault : RoundTrip.Statement .workerFault := fun g _ h => absurd h (not_wf_of_none _ g rfl)

theorem RoundTrip.supplyFault : RoundTrip.Statement .supplyFault := fun g _ h => absurd h (not_wf_of_none _ g rfl)

theorem RoundTrip.powerLoss : RoundTrip.Statement .powerLoss := fun g _ h => absurd h (not_wf_of_none _ g rfl)

theorem RoundTrip.sparePortBind : RoundTrip.Statement .sparePortBind := fun g _ h => absurd h (not_wf_of_none _ g rfl)

theorem RoundTrip.planeSent : RoundTrip.Statement .planeSent := fun g _ h => absurd h (not_wf_of_none _ g rfl)

theorem RoundTrip.pageRequestResponse : RoundTrip.Statement .pageRequestResponse := fun g _ h => absurd h (not_wf_of_none _ g rfl)

theorem RoundTrip.atsTranslationResponse : RoundTrip.Statement .atsTranslationResponse := fun g _ h => absurd h (not_wf_of_none _ g rfl)

theorem RoundTrip.hostLinkRetrain : RoundTrip.Statement .hostLinkRetrain := fun g _ h => absurd h (not_wf_of_none _ g rfl)

theorem RoundTrip.spdmRequest : RoundTrip.Statement .spdmRequest := fun g _ h => absurd h (not_wf_of_none _ g rfl)

theorem RoundTrip.tdispRequest : RoundTrip.Statement .tdispRequest := fun g _ h => absurd h (not_wf_of_none _ g rfl)

theorem RoundTrip.graphImageLoad : RoundTrip.Statement .graphImageLoad := fun g _ h => absurd h (not_wf_of_none _ g rfl)

theorem RoundTrip.memberLoad : RoundTrip.Statement .memberLoad := fun g _ h => absurd h (not_wf_of_none _ g rfl)

theorem RoundTrip.memoryAssignment : RoundTrip.Statement .memoryAssignment := fun g _ h => absurd h (not_wf_of_none _ g rfl)

theorem RoundTrip.pasidAssignment : RoundTrip.Statement .pasidAssignment := fun g _ h => absurd h (not_wf_of_none _ g rfl)

theorem RoundTrip.retirementRecordWrite : RoundTrip.Statement .retirementRecordWrite := fun g _ h => absurd h (not_wf_of_none _ g rfl)

end Laws

end Sys2Proof
end

