-- ==== Sys2Proof/Laws/State.lean ====
section
/-! SUPPORT. What each update of the state leaves, field by field: every lemma is true by unfolding. -/

namespace Sys2Proof.Machine

/-! ### `updA` -/

@[simp] theorem State.updA_now (s : State) (f : Atoll → Atoll) : (s.updA f).now = s.now := rfl
@[simp] theorem State.updA_a (s : State) (f : Atoll → Atoll) : (s.updA f).a = f s.a := rfl
@[simp] theorem State.updA_others (s : State) (f : Atoll → Atoll) : (s.updA f).others = s.others := rfl
@[simp] theorem State.updA_dev (s : State) (f : Atoll → Atoll) : (s.updA f).dev = s.dev := rfl
@[simp] theorem State.updA_fe (s : State) (f : Atoll → Atoll) : (s.updA f).fe = s.fe := rfl
@[simp] theorem State.updA_host (s : State) (f : Atoll → Atoll) : (s.updA f).host = s.host := rfl
@[simp] theorem State.updA_links (s : State) (f : Atoll → Atoll) : (s.updA f).links = s.links := rfl
@[simp] theorem State.updA_out (s : State) (f : Atoll → Atoll) : (s.updA f).out = s.out := rfl
@[simp] theorem State.updA_agenda (s : State) (f : Atoll → Atoll) : (s.updA f).agenda = s.agenda := rfl
@[simp] theorem State.updA_free (s : State) (f : Atoll → Atoll) : (s.updA f).free = s.free := rfl
@[simp] theorem State.updA_seq (s : State) (f : Atoll → Atoll) : (s.updA f).seq = s.seq := rfl
@[simp] theorem State.updA_ev (s : State) (f : Atoll → Atoll) : (s.updA f).ev = s.ev := rfl
@[simp] theorem State.updA_issueQ (s : State) (f : Atoll → Atoll) : (s.updA f).issueQ = s.issueQ := rfl

/-! ### `updSt` -/

@[simp] theorem State.updSt_now (s : State) (f : Strand → Strand) : (s.updSt f).now = s.now := rfl
@[simp] theorem State.updSt_a (s : State) (f : Strand → Strand) : (s.updSt f).a = { s.a with st := f s.a.st } := rfl
@[simp] theorem State.updSt_others (s : State) (f : Strand → Strand) : (s.updSt f).others = s.others := rfl
@[simp] theorem State.updSt_dev (s : State) (f : Strand → Strand) : (s.updSt f).dev = s.dev := rfl
@[simp] theorem State.updSt_fe (s : State) (f : Strand → Strand) : (s.updSt f).fe = s.fe := rfl
@[simp] theorem State.updSt_host (s : State) (f : Strand → Strand) : (s.updSt f).host = s.host := rfl
@[simp] theorem State.updSt_links (s : State) (f : Strand → Strand) : (s.updSt f).links = s.links := rfl
@[simp] theorem State.updSt_out (s : State) (f : Strand → Strand) : (s.updSt f).out = s.out := rfl
@[simp] theorem State.updSt_agenda (s : State) (f : Strand → Strand) : (s.updSt f).agenda = s.agenda := rfl
@[simp] theorem State.updSt_free (s : State) (f : Strand → Strand) : (s.updSt f).free = s.free := rfl
@[simp] theorem State.updSt_seq (s : State) (f : Strand → Strand) : (s.updSt f).seq = s.seq := rfl
@[simp] theorem State.updSt_ev (s : State) (f : Strand → Strand) : (s.updSt f).ev = s.ev := rfl
@[simp] theorem State.updSt_issueQ (s : State) (f : Strand → Strand) : (s.updSt f).issueQ = s.issueQ := rfl

/-! ### `updDev` -/

@[simp] theorem State.updDev_now (s : State) (f : Dev → Dev) : (s.updDev f).now = s.now := rfl
@[simp] theorem State.updDev_a (s : State) (f : Dev → Dev) : (s.updDev f).a = s.a := rfl
@[simp] theorem State.updDev_others (s : State) (f : Dev → Dev) : (s.updDev f).others = s.others := rfl
@[simp] theorem State.updDev_dev (s : State) (f : Dev → Dev) : (s.updDev f).dev = f s.dev := rfl
@[simp] theorem State.updDev_fe (s : State) (f : Dev → Dev) : (s.updDev f).fe = s.fe := rfl
@[simp] theorem State.updDev_host (s : State) (f : Dev → Dev) : (s.updDev f).host = s.host := rfl
@[simp] theorem State.updDev_links (s : State) (f : Dev → Dev) : (s.updDev f).links = s.links := rfl
@[simp] theorem State.updDev_out (s : State) (f : Dev → Dev) : (s.updDev f).out = s.out := rfl
@[simp] theorem State.updDev_agenda (s : State) (f : Dev → Dev) : (s.updDev f).agenda = s.agenda := rfl
@[simp] theorem State.updDev_free (s : State) (f : Dev → Dev) : (s.updDev f).free = s.free := rfl
@[simp] theorem State.updDev_seq (s : State) (f : Dev → Dev) : (s.updDev f).seq = s.seq := rfl
@[simp] theorem State.updDev_ev (s : State) (f : Dev → Dev) : (s.updDev f).ev = s.ev := rfl
@[simp] theorem State.updDev_issueQ (s : State) (f : Dev → Dev) : (s.updDev f).issueQ = s.issueQ := rfl

/-! ### `updChan` -/

@[simp] theorem State.updChan_now (s : State) (c : Nat) (f : Chan → Chan) : (s.updChan c f).now = s.now := rfl
@[simp] theorem State.updChan_a (s : State) (c : Nat) (f : Chan → Chan) : (s.updChan c f).a = s.a := rfl
@[simp] theorem State.updChan_others (s : State) (c : Nat) (f : Chan → Chan) : (s.updChan c f).others = s.others := rfl
@[simp] theorem State.updChan_dev (s : State) (c : Nat) (f : Chan → Chan) : (s.updChan c f).dev = s.dev.updChan c f := rfl
@[simp] theorem State.updChan_fe (s : State) (c : Nat) (f : Chan → Chan) : (s.updChan c f).fe = s.fe := rfl
@[simp] theorem State.updChan_host (s : State) (c : Nat) (f : Chan → Chan) : (s.updChan c f).host = s.host := rfl
@[simp] theorem State.updChan_links (s : State) (c : Nat) (f : Chan → Chan) : (s.updChan c f).links = s.links := rfl
@[simp] theorem State.updChan_out (s : State) (c : Nat) (f : Chan → Chan) : (s.updChan c f).out = s.out := rfl
@[simp] theorem State.updChan_agenda (s : State) (c : Nat) (f : Chan → Chan) : (s.updChan c f).agenda = s.agenda := rfl
@[simp] theorem State.updChan_free (s : State) (c : Nat) (f : Chan → Chan) : (s.updChan c f).free = s.free := rfl
@[simp] theorem State.updChan_seq (s : State) (c : Nat) (f : Chan → Chan) : (s.updChan c f).seq = s.seq := rfl
@[simp] theorem State.updChan_ev (s : State) (c : Nat) (f : Chan → Chan) : (s.updChan c f).ev = s.ev := rfl
@[simp] theorem State.updChan_issueQ (s : State) (c : Nat) (f : Chan → Chan) : (s.updChan c f).issueQ = s.issueQ := rfl

/-! ### `updFe` -/

@[simp] theorem State.updFe_now (s : State) (f : Fe → Fe) : (s.updFe f).now = s.now := rfl
@[simp] theorem State.updFe_a (s : State) (f : Fe → Fe) : (s.updFe f).a = s.a := rfl
@[simp] theorem State.updFe_others (s : State) (f : Fe → Fe) : (s.updFe f).others = s.others := rfl
@[simp] theorem State.updFe_dev (s : State) (f : Fe → Fe) : (s.updFe f).dev = s.dev := rfl
@[simp] theorem State.updFe_fe (s : State) (f : Fe → Fe) : (s.updFe f).fe = f s.fe := rfl
@[simp] theorem State.updFe_host (s : State) (f : Fe → Fe) : (s.updFe f).host = s.host := rfl
@[simp] theorem State.updFe_links (s : State) (f : Fe → Fe) : (s.updFe f).links = s.links := rfl
@[simp] theorem State.updFe_out (s : State) (f : Fe → Fe) : (s.updFe f).out = s.out := rfl
@[simp] theorem State.updFe_agenda (s : State) (f : Fe → Fe) : (s.updFe f).agenda = s.agenda := rfl
@[simp] theorem State.updFe_free (s : State) (f : Fe → Fe) : (s.updFe f).free = s.free := rfl
@[simp] theorem State.updFe_seq (s : State) (f : Fe → Fe) : (s.updFe f).seq = s.seq := rfl
@[simp] theorem State.updFe_ev (s : State) (f : Fe → Fe) : (s.updFe f).ev = s.ev := rfl
@[simp] theorem State.updFe_issueQ (s : State) (f : Fe → Fe) : (s.updFe f).issueQ = s.issueQ := rfl

/-! ### `schedAt` -/

@[simp] theorem State.schedAt_now (s : State) (k t p : Nat) (d : Dom) (i : Instr) (x : Arg) : (s.schedAt k t p d i x).now = s.now := rfl
@[simp] theorem State.schedAt_a (s : State) (k t p : Nat) (d : Dom) (i : Instr) (x : Arg) : (s.schedAt k t p d i x).a = s.a := rfl
@[simp] theorem State.schedAt_others (s : State) (k t p : Nat) (d : Dom) (i : Instr) (x : Arg) : (s.schedAt k t p d i x).others = s.others := rfl
@[simp] theorem State.schedAt_dev (s : State) (k t p : Nat) (d : Dom) (i : Instr) (x : Arg) : (s.schedAt k t p d i x).dev = s.dev := rfl
@[simp] theorem State.schedAt_fe (s : State) (k t p : Nat) (d : Dom) (i : Instr) (x : Arg) : (s.schedAt k t p d i x).fe = s.fe := rfl
@[simp] theorem State.schedAt_host (s : State) (k t p : Nat) (d : Dom) (i : Instr) (x : Arg) : (s.schedAt k t p d i x).host = s.host := rfl
@[simp] theorem State.schedAt_links (s : State) (k t p : Nat) (d : Dom) (i : Instr) (x : Arg) : (s.schedAt k t p d i x).links = s.links := rfl
@[simp] theorem State.schedAt_out (s : State) (k t p : Nat) (d : Dom) (i : Instr) (x : Arg) : (s.schedAt k t p d i x).out = s.out := rfl
@[simp] theorem State.schedAt_agenda (s : State) (k t p : Nat) (d : Dom) (i : Instr) (x : Arg) : (s.schedAt k t p d i x).agenda = insertEv ⟨t, p, s.ev.seq, k, d, i, x⟩ s.agenda := rfl
@[simp] theorem State.schedAt_free (s : State) (k t p : Nat) (d : Dom) (i : Instr) (x : Arg) : (s.schedAt k t p d i x).free = s.free := rfl
@[simp] theorem State.schedAt_seq (s : State) (k t p : Nat) (d : Dom) (i : Instr) (x : Arg) : (s.schedAt k t p d i x).seq = s.seq := rfl
@[simp] theorem State.schedAt_ev (s : State) (k t p : Nat) (d : Dom) (i : Instr) (x : Arg) : (s.schedAt k t p d i x).ev = s.ev := rfl
@[simp] theorem State.schedAt_issueQ (s : State) (k t p : Nat) (d : Dom) (i : Instr) (x : Arg) : (s.schedAt k t p d i x).issueQ = s.issueQ := rfl

/-! ### `sched` -/

@[simp] theorem State.sched_now (s : State) (t p : Nat) (d : Dom) (i : Instr) (x : Arg) : (s.sched t p d i x).now = s.now := rfl
@[simp] theorem State.sched_a (s : State) (t p : Nat) (d : Dom) (i : Instr) (x : Arg) : (s.sched t p d i x).a = s.a := rfl
@[simp] theorem State.sched_others (s : State) (t p : Nat) (d : Dom) (i : Instr) (x : Arg) : (s.sched t p d i x).others = s.others := rfl
@[simp] theorem State.sched_dev (s : State) (t p : Nat) (d : Dom) (i : Instr) (x : Arg) : (s.sched t p d i x).dev = s.dev := rfl
@[simp] theorem State.sched_fe (s : State) (t p : Nat) (d : Dom) (i : Instr) (x : Arg) : (s.sched t p d i x).fe = s.fe := rfl
@[simp] theorem State.sched_host (s : State) (t p : Nat) (d : Dom) (i : Instr) (x : Arg) : (s.sched t p d i x).host = s.host := rfl
@[simp] theorem State.sched_links (s : State) (t p : Nat) (d : Dom) (i : Instr) (x : Arg) : (s.sched t p d i x).links = s.links := rfl
@[simp] theorem State.sched_out (s : State) (t p : Nat) (d : Dom) (i : Instr) (x : Arg) : (s.sched t p d i x).out = s.out := rfl
@[simp] theorem State.sched_agenda (s : State) (t p : Nat) (d : Dom) (i : Instr) (x : Arg) : (s.sched t p d i x).agenda = insertEv ⟨t, p, s.ev.seq, s.a.n, d, i, x⟩ s.agenda := rfl
@[simp] theorem State.sched_free (s : State) (t p : Nat) (d : Dom) (i : Instr) (x : Arg) : (s.sched t p d i x).free = s.free := rfl
@[simp] theorem State.sched_seq (s : State) (t p : Nat) (d : Dom) (i : Instr) (x : Arg) : (s.sched t p d i x).seq = s.seq := rfl
@[simp] theorem State.sched_ev (s : State) (t p : Nat) (d : Dom) (i : Instr) (x : Arg) : (s.sched t p d i x).ev = s.ev := rfl
@[simp] theorem State.sched_issueQ (s : State) (t p : Nat) (d : Dom) (i : Instr) (x : Arg) : (s.sched t p d i x).issueQ = s.issueQ := rfl

/-! ### `later` -/

@[simp] theorem State.later_now (s : State) (k : Nat) (i : Instr) (x : Arg) : (s.later k i x).now = s.now := rfl
@[simp] theorem State.later_a (s : State) (k : Nat) (i : Instr) (x : Arg) : (s.later k i x).a = s.a := rfl
@[simp] theorem State.later_others (s : State) (k : Nat) (i : Instr) (x : Arg) : (s.later k i x).others = s.others := rfl
@[simp] theorem State.later_dev (s : State) (k : Nat) (i : Instr) (x : Arg) : (s.later k i x).dev = s.dev := rfl
@[simp] theorem State.later_fe (s : State) (k : Nat) (i : Instr) (x : Arg) : (s.later k i x).fe = s.fe := rfl
@[simp] theorem State.later_host (s : State) (k : Nat) (i : Instr) (x : Arg) : (s.later k i x).host = s.host := rfl
@[simp] theorem State.later_links (s : State) (k : Nat) (i : Instr) (x : Arg) : (s.later k i x).links = s.links := rfl
@[simp] theorem State.later_out (s : State) (k : Nat) (i : Instr) (x : Arg) : (s.later k i x).out = s.out := rfl
@[simp] theorem State.later_agenda (s : State) (k : Nat) (i : Instr) (x : Arg) : (s.later k i x).agenda = insertEv ⟨s.now + Config.nominal s.free, 6, s.ev.seq, k, .none, i, x⟩ s.agenda := rfl
@[simp] theorem State.later_free (s : State) (k : Nat) (i : Instr) (x : Arg) : (s.later k i x).free = s.free + 1 := rfl
@[simp] theorem State.later_seq (s : State) (k : Nat) (i : Instr) (x : Arg) : (s.later k i x).seq = s.seq := rfl
@[simp] theorem State.later_ev (s : State) (k : Nat) (i : Instr) (x : Arg) : (s.later k i x).ev = s.ev := rfl
@[simp] theorem State.later_issueQ (s : State) (k : Nat) (i : Instr) (x : Arg) : (s.later k i x).issueQ = s.issueQ := rfl

/-! ### `again` -/

@[simp] theorem State.again_now (s : State) (t : Nat) : (s.again t).now = s.now := rfl
@[simp] theorem State.again_a (s : State) (t : Nat) : (s.again t).a = s.a := rfl
@[simp] theorem State.again_others (s : State) (t : Nat) : (s.again t).others = s.others := rfl
@[simp] theorem State.again_dev (s : State) (t : Nat) : (s.again t).dev = s.dev := rfl
@[simp] theorem State.again_fe (s : State) (t : Nat) : (s.again t).fe = s.fe := rfl
@[simp] theorem State.again_host (s : State) (t : Nat) : (s.again t).host = s.host := rfl
@[simp] theorem State.again_links (s : State) (t : Nat) : (s.again t).links = s.links := rfl
@[simp] theorem State.again_out (s : State) (t : Nat) : (s.again t).out = s.out := rfl
@[simp] theorem State.again_agenda (s : State) (t : Nat) : (s.again t).agenda = insertEv { s.ev with tick := t } s.agenda := rfl
@[simp] theorem State.again_free (s : State) (t : Nat) : (s.again t).free = s.free := rfl
@[simp] theorem State.again_seq (s : State) (t : Nat) : (s.again t).seq = s.seq := rfl
@[simp] theorem State.again_ev (s : State) (t : Nat) : (s.again t).ev = s.ev := rfl
@[simp] theorem State.again_issueQ (s : State) (t : Nat) : (s.again t).issueQ = s.issueQ := rfl

/-! ### `unsched` -/

@[simp] theorem State.unsched_now (s : State) (f : Ev → Bool) : (s.unsched f).now = s.now := rfl
@[simp] theorem State.unsched_a (s : State) (f : Ev → Bool) : (s.unsched f).a = s.a := rfl
@[simp] theorem State.unsched_others (s : State) (f : Ev → Bool) : (s.unsched f).others = s.others := rfl
@[simp] theorem State.unsched_dev (s : State) (f : Ev → Bool) : (s.unsched f).dev = s.dev := rfl
@[simp] theorem State.unsched_fe (s : State) (f : Ev → Bool) : (s.unsched f).fe = s.fe := rfl
@[simp] theorem State.unsched_host (s : State) (f : Ev → Bool) : (s.unsched f).host = s.host := rfl
@[simp] theorem State.unsched_links (s : State) (f : Ev → Bool) : (s.unsched f).links = s.links := rfl
@[simp] theorem State.unsched_out (s : State) (f : Ev → Bool) : (s.unsched f).out = s.out := rfl
@[simp] theorem State.unsched_agenda (s : State) (f : Ev → Bool) : (s.unsched f).agenda = s.agenda.filter fun e => !f e := rfl
@[simp] theorem State.unsched_free (s : State) (f : Ev → Bool) : (s.unsched f).free = s.free := rfl
@[simp] theorem State.unsched_seq (s : State) (f : Ev → Bool) : (s.unsched f).seq = s.seq := rfl
@[simp] theorem State.unsched_ev (s : State) (f : Ev → Bool) : (s.unsched f).ev = s.ev := rfl
@[simp] theorem State.unsched_issueQ (s : State) (f : Ev → Bool) : (s.unsched f).issueQ = s.issueQ := rfl

/-! ### `emit` -/

@[simp] theorem State.emit_now (s : State) (k : Nat) (l : List Nat) : (s.emit k l).now = s.now := rfl
@[simp] theorem State.emit_a (s : State) (k : Nat) (l : List Nat) : (s.emit k l).a = s.a := rfl
@[simp] theorem State.emit_others (s : State) (k : Nat) (l : List Nat) : (s.emit k l).others = s.others := rfl
@[simp] theorem State.emit_dev (s : State) (k : Nat) (l : List Nat) : (s.emit k l).dev = s.dev := rfl
@[simp] theorem State.emit_fe (s : State) (k : Nat) (l : List Nat) : (s.emit k l).fe = s.fe := rfl
@[simp] theorem State.emit_host (s : State) (k : Nat) (l : List Nat) : (s.emit k l).host = s.host := rfl
@[simp] theorem State.emit_links (s : State) (k : Nat) (l : List Nat) : (s.emit k l).links = s.links := rfl
@[simp] theorem State.emit_out (s : State) (k : Nat) (l : List Nat) : (s.emit k l).out = s.out ++ [⟨k, l, none⟩] := rfl
@[simp] theorem State.emit_agenda (s : State) (k : Nat) (l : List Nat) : (s.emit k l).agenda = s.agenda := rfl
@[simp] theorem State.emit_free (s : State) (k : Nat) (l : List Nat) : (s.emit k l).free = s.free := rfl
@[simp] theorem State.emit_seq (s : State) (k : Nat) (l : List Nat) : (s.emit k l).seq = s.seq := rfl
@[simp] theorem State.emit_ev (s : State) (k : Nat) (l : List Nat) : (s.emit k l).ev = s.ev := rfl
@[simp] theorem State.emit_issueQ (s : State) (k : Nat) (l : List Nat) : (s.emit k l).issueQ = s.issueQ := rfl

/-! ### `given` -/

@[simp] theorem State.given_now (s : State) (x : Arg) : (s.given x).now = s.now := rfl
@[simp] theorem State.given_a (s : State) (x : Arg) : (s.given x).a = s.a := rfl
@[simp] theorem State.given_others (s : State) (x : Arg) : (s.given x).others = s.others := rfl
@[simp] theorem State.given_dev (s : State) (x : Arg) : (s.given x).dev = s.dev := rfl
@[simp] theorem State.given_fe (s : State) (x : Arg) : (s.given x).fe = s.fe := rfl
@[simp] theorem State.given_host (s : State) (x : Arg) : (s.given x).host = s.host := rfl
@[simp] theorem State.given_links (s : State) (x : Arg) : (s.given x).links = s.links := rfl
@[simp] theorem State.given_out (s : State) (x : Arg) : (s.given x).out = s.out := rfl
@[simp] theorem State.given_agenda (s : State) (x : Arg) : (s.given x).agenda = s.agenda := rfl
@[simp] theorem State.given_free (s : State) (x : Arg) : (s.given x).free = s.free := rfl
@[simp] theorem State.given_seq (s : State) (x : Arg) : (s.given x).seq = s.seq := rfl
@[simp] theorem State.given_ev (s : State) (x : Arg) : (s.given x).ev = { s.ev with arg := x } := rfl
@[simp] theorem State.given_issueQ (s : State) (x : Arg) : (s.given x).issueQ = s.issueQ := rfl

/-! ### `updQueue` -/

@[simp] theorem State.updQueue_now (s : State) (q : Nat) (f : Queue → Queue) : (s.updQueue q f).now = s.now := rfl
@[simp] theorem State.updQueue_a (s : State) (q : Nat) (f : Queue → Queue) : (s.updQueue q f).a = s.a := rfl
@[simp] theorem State.updQueue_others (s : State) (q : Nat) (f : Queue → Queue) : (s.updQueue q f).others = s.others := rfl
@[simp] theorem State.updQueue_dev (s : State) (q : Nat) (f : Queue → Queue) : (s.updQueue q f).dev = s.dev := rfl
@[simp] theorem State.updQueue_fe (s : State) (q : Nat) (f : Queue → Queue) : (s.updQueue q f).fe = { s.fe with queues := (s.fe.queues.filter fun x => x.q != q) ++ [f (s.fe.queue q)] } := rfl
@[simp] theorem State.updQueue_host (s : State) (q : Nat) (f : Queue → Queue) : (s.updQueue q f).host = s.host := rfl
@[simp] theorem State.updQueue_links (s : State) (q : Nat) (f : Queue → Queue) : (s.updQueue q f).links = s.links := rfl
@[simp] theorem State.updQueue_out (s : State) (q : Nat) (f : Queue → Queue) : (s.updQueue q f).out = s.out := rfl
@[simp] theorem State.updQueue_agenda (s : State) (q : Nat) (f : Queue → Queue) : (s.updQueue q f).agenda = s.agenda := rfl
@[simp] theorem State.updQueue_free (s : State) (q : Nat) (f : Queue → Queue) : (s.updQueue q f).free = s.free := rfl
@[simp] theorem State.updQueue_seq (s : State) (q : Nat) (f : Queue → Queue) : (s.updQueue q f).seq = s.seq := rfl
@[simp] theorem State.updQueue_ev (s : State) (q : Nat) (f : Queue → Queue) : (s.updQueue q f).ev = s.ev := rfl
@[simp] theorem State.updQueue_issueQ (s : State) (q : Nat) (f : Queue → Queue) : (s.updQueue q f).issueQ = s.issueQ := rfl

/-! ### `updLaunch` -/

@[simp] theorem State.updLaunch_now (s : State) (id : Nat) (f : Launch → Launch) : (s.updLaunch id f).now = s.now := rfl
@[simp] theorem State.updLaunch_a (s : State) (id : Nat) (f : Launch → Launch) : (s.updLaunch id f).a = s.a := rfl
@[simp] theorem State.updLaunch_others (s : State) (id : Nat) (f : Launch → Launch) : (s.updLaunch id f).others = s.others := rfl
@[simp] theorem State.updLaunch_dev (s : State) (id : Nat) (f : Launch → Launch) : (s.updLaunch id f).dev = s.dev := rfl
@[simp] theorem State.updLaunch_fe (s : State) (id : Nat) (f : Launch → Launch) : (s.updLaunch id f).fe = { s.fe with launches := s.fe.launches.map fun x => if x.id = id then f x else x } := rfl
@[simp] theorem State.updLaunch_host (s : State) (id : Nat) (f : Launch → Launch) : (s.updLaunch id f).host = s.host := rfl
@[simp] theorem State.updLaunch_links (s : State) (id : Nat) (f : Launch → Launch) : (s.updLaunch id f).links = s.links := rfl
@[simp] theorem State.updLaunch_out (s : State) (id : Nat) (f : Launch → Launch) : (s.updLaunch id f).out = s.out := rfl
@[simp] theorem State.updLaunch_agenda (s : State) (id : Nat) (f : Launch → Launch) : (s.updLaunch id f).agenda = s.agenda := rfl
@[simp] theorem State.updLaunch_free (s : State) (id : Nat) (f : Launch → Launch) : (s.updLaunch id f).free = s.free := rfl
@[simp] theorem State.updLaunch_seq (s : State) (id : Nat) (f : Launch → Launch) : (s.updLaunch id f).seq = s.seq := rfl
@[simp] theorem State.updLaunch_ev (s : State) (id : Nat) (f : Launch → Launch) : (s.updLaunch id f).ev = s.ev := rfl
@[simp] theorem State.updLaunch_issueQ (s : State) (id : Nat) (f : Launch → Launch) : (s.updLaunch id f).issueQ = s.issueQ := rfl

/-! ### `updPort` -/

@[simp] theorem State.updPort_now (s : State) (n : Nat) (f : Port → Port) : (s.updPort n f).now = s.now := rfl
@[simp] theorem State.updPort_a (s : State) (n : Nat) (f : Port → Port) : (s.updPort n f).a = s.a := rfl
@[simp] theorem State.updPort_others (s : State) (n : Nat) (f : Port → Port) : (s.updPort n f).others = s.others := rfl
@[simp] theorem State.updPort_dev (s : State) (n : Nat) (f : Port → Port) : (s.updPort n f).dev = s.dev := rfl
@[simp] theorem State.updPort_fe (s : State) (n : Nat) (f : Port → Port) : (s.updPort n f).fe = { s.fe with ports := s.fe.ports.map fun p => if p.n = n then f p else p } := rfl
@[simp] theorem State.updPort_host (s : State) (n : Nat) (f : Port → Port) : (s.updPort n f).host = s.host := rfl
@[simp] theorem State.updPort_links (s : State) (n : Nat) (f : Port → Port) : (s.updPort n f).links = s.links := rfl
@[simp] theorem State.updPort_out (s : State) (n : Nat) (f : Port → Port) : (s.updPort n f).out = s.out := rfl
@[simp] theorem State.updPort_agenda (s : State) (n : Nat) (f : Port → Port) : (s.updPort n f).agenda = s.agenda := rfl
@[simp] theorem State.updPort_free (s : State) (n : Nat) (f : Port → Port) : (s.updPort n f).free = s.free := rfl
@[simp] theorem State.updPort_seq (s : State) (n : Nat) (f : Port → Port) : (s.updPort n f).seq = s.seq := rfl
@[simp] theorem State.updPort_ev (s : State) (n : Nat) (f : Port → Port) : (s.updPort n f).ev = s.ev := rfl
@[simp] theorem State.updPort_issueQ (s : State) (n : Nat) (f : Port → Port) : (s.updPort n f).issueQ = s.issueQ := rfl

end Sys2Proof.Machine
end

