-- ==== Sys2Proof/Tests/Slice0.lean ====
section
/-! SUPPORT. Tests of this package: the well-formedness checks, the decoding of words written out from the manual's encodings, witnesses for the
hypotheses of the statements, and single steps whose results are taken from the manual. -/

namespace Sys2Proof.Tests

open Sys2Proof Sys2Proof.Machine

set_option Elab.async false

/-! ## Well-formedness: each check refuses a term that breaks it and nothing else -/

/-- No term of the list is well-formed. -/
def refused (l : List Instr) : Bool := l.all fun i => !i.wf

/-- R126, R48 with R64, R52 and R55. -/
theorem smoke_scalar : refused [.rgn ⟨0⟩, .rgn ⟨1025⟩, .amoadd ⟨1, 2, 3, 4, 0, false⟩, .amoxor ⟨1, 2, 3, 4, 0, false⟩, .amomin ⟨1, 2, 3, 4, 0, false⟩,
    .amomax ⟨1, 2, 3, 4, 0, false⟩, .amoswp ⟨1, 2, 3, 4, 0, false⟩, .amocas ⟨1, 2, 3, 4, 0, false⟩, .pfx ⟨false, 1, false, 0, 0, false, 0⟩,
    .pfx ⟨false, 0, false, 1, 0, false, 0⟩, .pfx ⟨false, 0, false, 0, 0, false, 1⟩, .pfx ⟨false, 0, false, 0, 0, true, 4⟩] = true := by decide

/-- R41, R45, R46, R217, R221 to R223: the type, the source modifier, and a destination that is a source of an R-class form. -/
theorem smoke_integer : refused [.vadd ⟨7, 1, 2, 0, 4, 0⟩, .vadd ⟨7, 1, 2, 0, 14, 0⟩, .vadd ⟨7, 7, 2, 0, 3, 0⟩, .vadd ⟨7, 1, 7, 0, 3, 0⟩,
    .vadd ⟨7, 1, 2, 1, 3, 0⟩, .vadd ⟨7, 1, 2, 0x600, 3, 0⟩, .vadd ⟨7, 1, 2, 0x444, 3, 0⟩, .vadd ⟨7, 1, 2, 0x880, 3, 0⟩, .vadd ⟨7, 1, 2, 0x580, 13, 0⟩,
    .vxor ⟨7, 1, 2, 0, 15, 0⟩, .vxor ⟨7, 7, 2, 0, 9, 0⟩, .evxor ⟨7, 1, 2, 0, 15, 0⟩, .evadd ⟨7, 1, 2, 0, 7, 0⟩, .vneg ⟨7, 1, 5, 0⟩, .vneg ⟨7, 7, 3, 0⟩,
    .evneg ⟨7, 1, 5, 0⟩, .vnot ⟨7, 1, 14, 0⟩, .vnot ⟨7, 7, 9, 0⟩, .evnot ⟨7, 1, 14, 0⟩, .vswap ⟨7, 7, 0⟩, .vcswap ⟨7, 7, 1, 3, 0⟩, .vcswap ⟨7, 1, 1, 9, 0⟩,
    .vcmpeq ⟨1, 1, 2, 0, 6, 0⟩, .evcmplt ⟨1, 1, 2, 1, 3, 0⟩, .vsel ⟨7, 1, 2, 1, 11, 0⟩, .vsel ⟨7, 7, 2, 1, 3, 0⟩, .vsel ⟨7, 1, 7, 1, 3, 0⟩,
    .evsel ⟨7, 1, 2, 1, 11, 0⟩, .vzmask ⟨1, 1921, 0⟩, .evzmask ⟨1, 1921, 0⟩] = true := by decide

/-- R228 to R230. -/
theorem smoke_float : refused [.vfadd ⟨7, 1, 2, 0, 3, 0⟩, .vfadd ⟨7, 7, 2, 0, 6, 0⟩, .evfadd ⟨7, 1, 2, 1, 6, 0⟩, .vfma ⟨7, 1, 2, 3, 3, 0⟩, .vfma ⟨7, 7, 2, 3, 6, 0⟩,
    .vfma ⟨7, 1, 7, 3, 6, 0⟩, .vfma ⟨7, 1, 2, 7, 6, 0⟩, .evfma ⟨7, 1, 2, 3, 7, 0⟩, .vfneg ⟨7, 1, 3, 0⟩, .vfneg ⟨7, 7, 6, 0⟩, .evfneg ⟨7, 1, 13, 0⟩,
    .vfcmp ⟨1, 1, 2, 6, 6, 0⟩, .vfcmp ⟨1, 1, 2, 0, 3, 0⟩, .evfcmp ⟨1, 1, 2, 6, 6, 0⟩] = true := by decide

/-- R231 to R239. -/
theorem smoke_conversion : refused [.vcvt ⟨7, 1, 2, 6, 4, 0, 0, 0⟩, .vcvt ⟨7, 1, 0, 6, 4, 0, 1, 0⟩, .vcvt ⟨7, 1, 0, 12, 4, 0, 0, 0⟩, .vcvt ⟨7, 1, 0, 6, 12, 0, 0, 0⟩,
    .vcvt ⟨7, 1, 0, 13, 11, 0, 0, 0⟩, .vcvt ⟨7, 1, 0, 6, 4, 2, 0, 0⟩, .vcvt ⟨7, 7, 0, 6, 4, 0, 0, 0⟩, .evcvt ⟨7, 1, 2, 6, 4, 0, 0, 0⟩,
    .vcvr ⟨7, 1, 2, 12, 4, 0, 4, 0⟩, .vcvr ⟨7, 1, 2, 6, 4, 0, 10, 0⟩, .vcvr ⟨7, 1, 2, 4, 6, 0, 4, 0⟩, .vcvr ⟨7, 1, 2, 4, 4, 0, 6, 0⟩, .vcvr ⟨7, 1, 2, 13, 11, 0, 4, 0⟩,
    .vcvr ⟨7, 1, 2, 13, 4, 0, 11, 0⟩, .vcvr ⟨7, 1, 2, 6, 4, 2, 4, 0⟩, .vcvr ⟨7, 1, 7, 6, 4, 0, 4, 0⟩, .vcvr ⟨7, 7, 2, 6, 4, 0, 4, 0⟩, .vcvr ⟨7, 2, 2, 6, 4, 0, 4, 0⟩,
    .evcvr ⟨7, 1, 7, 6, 4, 0, 4, 0⟩, .vmerge ⟨7, 1, 2, 12, 4, 0, 4, 0⟩, .vmerge ⟨7, 1, 2, 4, 6, 2, 4, 0⟩, .vmerge ⟨7, 7, 2, 4, 6, 0, 4, 0⟩,
    .vmerge ⟨7, 1, 7, 4, 6, 0, 4, 0⟩, .evmerge ⟨7, 1, 2, 4, 12, 0, 4, 0⟩, .vshoal ⟨7, 1, 2, 6, 7, 0, 0, 0⟩, .vshoal ⟨7, 1, 0, 6, 7, 0, 1, 0⟩,
    .vshoal ⟨7, 1, 0, 3, 7, 0, 0, 0⟩, .vshoal ⟨7, 1, 0, 6, 6, 0, 0, 0⟩, .vshoal ⟨7, 7, 0, 6, 7, 0, 0, 0⟩, .evshoal ⟨7, 1, 0, 6, 2, 0, 0, 0⟩,
    .vscale ⟨7, 1, 2, 6, 7, 0, 1, 0⟩, .vscale ⟨7, 7, 2, 6, 7, 0, 0, 0⟩, .vscale ⟨7, 1, 7, 6, 7, 0, 0, 0⟩, .vscale ⟨7, 1, 2, 6, 7, 4, 0, 0⟩, .vscale ⟨7, 1, 2, 7, 6, 4, 0, 0⟩,
    .vscale ⟨7, 1, 2, 3, 4, 0, 0, 0⟩, .evscale ⟨7, 1, 2, 2, 6, 0, 0, 0⟩] = true := by decide

theorem smoke_planes_and_reductions : refused [.vbpenc ⟨7, 100, 2, 3, 0, 0, 0, 0⟩, .vbpenc ⟨7, 100, 2, 6, 1, 0, 0, 0⟩, .vbpenc ⟨7, 100, 2, 6, 0, 0, 1, 0⟩,
    .vbpenc ⟨7, 2033, 2, 6, 0, 0, 0, 0⟩, .vbpenc ⟨100, 100, 2, 6, 0, 0, 0, 0⟩, .vbpenc ⟨115, 100, 2, 6, 0, 0, 0, 0⟩, .vbpenc ⟨2, 100, 2, 6, 0, 0, 0, 0⟩,
    .evbpenc ⟨115, 100, 2, 6, 0, 0, 0, 0⟩, .vbpdec ⟨100, 1, 2, 0, 0, 0, 0, 0⟩, .vbpdec ⟨100, 1, 0, 0, 1, 0, 0, 0⟩, .vbpdec ⟨100, 1, 0, 0, 0, 0, 1, 0⟩,
    .vbpdec ⟨100, 1, 0, 2, 0, 0, 0, 0⟩, .vbpdec ⟨100, 1, 0, 1, 0, 8, 0, 0⟩, .vbpdec ⟨2033, 1, 0, 0, 0, 0, 0, 0⟩, .vbpdec ⟨100, 100, 0, 0, 0, 0, 0, 0⟩,
    .evbpdec ⟨100, 115, 0, 0, 0, 0, 0, 0⟩, .vredadd ⟨7, 1, 2, 3, 3, 0, 0, 0⟩, .vredadd ⟨7, 1, 0, 3, 3, 0, 1, 0⟩, .vredadd ⟨7, 7, 0, 3, 3, 0, 0, 0⟩,
    .vredadd ⟨7, 1, 0, 2, 2, 0, 0, 0⟩, .vredadd ⟨7, 1, 0, 13, 3, 0, 0, 0⟩, .vredadd ⟨7, 1, 0, 4, 4, 0, 0, 0⟩, .evredadd ⟨7, 1, 0, 7, 6, 0, 0, 0⟩,
    .vredmax ⟨7, 1, 2, 3, 3, 0, 0, 0⟩, .vredmax ⟨7, 1, 0, 3, 2, 0, 0, 0⟩, .vredmin ⟨7, 7, 0, 3, 3, 0, 0, 0⟩, .vredmin ⟨7, 1, 0, 7, 7, 0, 0, 0⟩,
    .evredmax ⟨7, 1, 0, 3, 3, 0, 1, 0⟩, .evredmin ⟨7, 1, 0, 3, 13, 0, 0, 0⟩, .vscan ⟨7, 1, 2, 3, 3, 0, 0, 0⟩, .vscan ⟨7, 7, 0, 3, 3, 0, 0, 0⟩,
    .vscan ⟨7, 1, 0, 3, 2, 0, 0, 0⟩, .vscan ⟨7, 1, 0, 3, 3, 6, 0, 0⟩, .vscan ⟨7, 1, 0, 9, 9, 0, 0, 0⟩, .evscan ⟨7, 1, 0, 13, 13, 5, 0, 0⟩] = true := by decide

/-- R240, R241, R244. -/
theorem smoke_move : refused [.vldx ⟨7, 1, 11, 0⟩, .vldx ⟨7, 7, 3, 0⟩, .vldx ⟨7, 7, 13, 0⟩, .evldx ⟨7, 1, 12, 0⟩, .vperm ⟨7, 1, 2, 0, 9, 0⟩, .vperm ⟨7, 7, 2, 0, 3, 0⟩,
    .evperm ⟨7, 1, 2, 1, 3, 0⟩, .vrmg ⟨7, 7, 2, 1, 0⟩, .vrmg ⟨7, 1, 7, 1, 0⟩, .vbcast ⟨7, 1, 14, 0⟩, .evbcast ⟨7, 1, 15, 0⟩, .vext ⟨1, 7, 0, 14, 0⟩, .vext ⟨1, 7, 32, 3, 0⟩,
    .vins ⟨7, 1, 64, 2, 0⟩, .evins ⟨7, 1, 16, 13, 0⟩, .evins ⟨7, 1, 0, 15, 0⟩, .mand ⟨1, 1, 2, 0⟩, .mor ⟨1, 2, 1, 0⟩, .mnot ⟨1, 1, 0⟩] = true := by decide

/-- R279, R283, R284, R286. -/
theorem smoke_rotator : refused [.rtapl ⟨1, 2, 3, 4, 15, 16, none, 0⟩, .rtinvApl ⟨1, 2, 3, 4, 31, 0, none, 0⟩, .rtsolve ⟨1, 2, 31, 31, none, 0⟩, .rtsolve ⟨1, 2, 4, 4, none, 0⟩,
    .rtrd ⟨1, 1, 31, none⟩, .rtwr ⟨1, 31, 1, none⟩, .rtgainSet ⟨11, 0, 0⟩, .rtgainSet ⟨25, 0, 0⟩, .rtgainSet ⟨12, 0, 3⟩] = true := by decide

/-- R51, R296, R297, R312, R314. -/
theorem smoke_copy : refused [.cpy ⟨0, 1, 1, 2, 2, 2, 3, 4⟩, .cpy ⟨2, 1, 1, 1, 2, 2, 3, 4⟩, .cpyx ⟨2, 1, 1, 1, 0, 2, 3, 4⟩, .cpyx ⟨0, 1, 1, 1, 0, 2, 3, 4⟩,
    .cpycPack ⟨⟨0, 0, 1, 0, 0, 2, 3, 4⟩, 3⟩, .cpycPack ⟨⟨0, 0, 63, 0, 0, 2, 3, 4⟩, 0⟩, .cpycUnpack ⟨⟨0, 0, 1, 0, 0, 2, 3, 4⟩, 3⟩,
    .cpycUnpack ⟨⟨0, 0, 1, 0, 0, 63, 3, 4⟩, 0⟩, .cpyg ⟨⟨0, 0, 1, 0, 0, 2, 3, 4⟩, 0⟩, .cpyg ⟨⟨2, 0, 1, 2, 0, 2, 3, 4⟩, 0⟩, .cpys ⟨⟨0, 0, 1, 0, 0, 2, 3, 4⟩, 4, 4, false, 3⟩,
    .cpys ⟨⟨0, 0, 63, 0, 0, 2, 3, 4⟩, 4, 4, false, 0⟩, .cpys ⟨⟨0, 0, 1, 0, 0, 2, 3, 4⟩, 12, 4, false, 0⟩, .cpys ⟨⟨0, 0, 1, 0, 0, 2, 3, 4⟩, 4, 10, false, 0⟩,
    .cpys ⟨⟨0, 0, 1, 0, 0, 2, 3, 4⟩, 4, 11, false, 0⟩, .cpys ⟨⟨0, 0, 1, 0, 0, 2, 3, 4⟩, 6, 4, false, 1⟩, .cpys ⟨⟨0, 0, 1, 0, 0, 2, 3, 4⟩, 4, 6, false, 2⟩,
    .cpyz ⟨1, 1, 1, 2, 3⟩, .cpyv ⟨⟨0, 0, 1, 0, 0, 2, 3, 4⟩, 12, 4⟩, .cpyv ⟨⟨0, 0, 1, 0, 0, 2, 3, 4⟩, 13, 11⟩, .ppcmp ⟨0, 1, 1, 2, 3, 4, 0, true, 0⟩,
    .ppcmp ⟨0, 0, 63, 2, 3, 4, 0, true, 0⟩, .ppcmp ⟨0, 0, 1, 2, 3, 4, 0, false, 1⟩, .ppcmp ⟨0, 0, 1, 2, 3, 4, 3, true, 0⟩] = true := by decide

/-- R330, R335, R336, R100, R101. -/
theorem smoke_link_and_system : refused [.lsend ⟨1, 2, 3, 4, 5, 24⟩, .lrecv ⟨1, 2, 3, 24, false⟩, .lradd ⟨0, 2, 3, 4, 5, 6, true, false, false⟩,
    .lradd ⟨1, 2, 3, 4, 5, 6, false, false, true⟩, .lradd ⟨1, 2, 3, 4, 5, 0, false, true, false⟩, .lradd ⟨1, 0, 3, 4, 5, 6, false, true, false⟩,
    .lradd ⟨1, 2, 3, 4, 5, 6, true, true, true⟩, .lwprec ⟨1, 2, 25⟩, .wake ⟨0⟩, .gate ⟨0⟩, .clkdiv ⟨1, 6, 4⟩, .clkdiv ⟨1, 0, 0⟩] = true := by decide

/-- A refused syllable is well-formed once its one fault is mended. -/
theorem smoke_accepts : [Instr.rgn ⟨1⟩, .rgn ⟨1024⟩, .amoadd ⟨1, 2, 3, 4, 0, true⟩, .pfx ⟨true, 15, true, 7, 3, true, 3⟩, .vadd ⟨7, 1, 2, 0x881, 3, 0⟩, .vadd ⟨7, 1, 2, 0x500, 13, 0⟩,
    .vzmask ⟨1, 1920, 0⟩, .vfcmp ⟨1, 1, 2, 5, 6, 0⟩, .vcvt ⟨7, 1, 0, 6, 4, 1, 0, 0⟩, .vbpenc ⟨116, 100, 2, 6, 0, 0, 0, 0⟩, .vbpdec ⟨100, 1, 0, 1, 0, 7, 0, 0⟩, .vins ⟨7, 1, 63, 2, 0⟩,
    .rtapl ⟨1, 2, 3, 4, 15, 15, none, 0⟩, .rtsolve ⟨1, 2, 3, 4, none, 0⟩, .rtrd ⟨1, 1, 30, none⟩, .rtgainSet ⟨24, 15, 2⟩, .cpyx ⟨1, 0, 1, 3, 2, 2, 3, 4⟩, .cpyg ⟨⟨2, 3, 1, 0, 0, 2, 3, 4⟩, 0⟩,
    .lsend ⟨1, 2, 3, 4, 5, 23⟩, .lradd ⟨1, 2, 3, 4, 5, 6, false, true, true⟩, .lwprec ⟨1, 2, 24⟩, .wake ⟨8⟩, .clkdiv ⟨1, 5, 63⟩].all (fun i => i.wf) = true := by decide

/-! ## Decoding: a word for every syllable, made by hand from its class, opcode and fields (R30, R47 to R69) -/

/-- Each word decodes to its guard and its instruction. -/
def reads (l : List (Word × Prd × Instr)) : Bool := l.all fun p => (decode p.1).toOption == some ⟨p.2.1, p.2.2⟩

/-- R47, R59. -/
theorem decode_class0 : reads [
    (0x8009459800000000, 0, .add ⟨10, 11, 12⟩), (0x8011661A00000001, 1, .sub ⟨11, 12, 13⟩), (0x8019869C00000002, 2, .and ⟨12, 13, 14⟩),
    (0x8021A71E00000003, 3, .or ⟨13, 14, 15⟩), (0x8029C7A000000004, 4, .xor ⟨14, 15, 16⟩), (0x8031E82200000005, 5, .andn ⟨15, 16, 17⟩),
    (0x803A08A400000006, 6, .shl ⟨16, 17, 18⟩), (0x8042292600000007, 7, .shr ⟨17, 18, 19⟩), (0x804A49A800000008, 8, .sra ⟨18, 19, 20⟩),
    (0x80526A2A00000009, 9, .mul ⟨19, 20, 21⟩), (0x805A8AAC0000000A, 10, .mulh ⟨20, 21, 22⟩), (0x8062AB2E0000000B, 11, .mulhu ⟨21, 22, 23⟩),
    (0x806ACBB00000000C, 12, .div ⟨22, 23, 24⟩), (0x8072EC320000000D, 13, .divu ⟨23, 24, 25⟩), (0x807B0CB40000000E, 14, .rem ⟨24, 25, 26⟩),
    (0x80832D360000000F, 15, .min ⟨25, 26, 27⟩), (0x808B4DB800000000, 0, .max ⟨26, 27, 28⟩), (0x80936E3A00000001, 1, .minu ⟨27, 28, 29⟩),
    (0x809B8EBC00000002, 2, .maxu ⟨28, 29, 30⟩), (0x80A7FF0000000000, 0, .clz ⟨63, 62⟩), (0x80AFDF8000000000, 0, .popc ⟨62, 63⟩),
    (0x80B0210678000000, 0, .sel ⟨1, 15, 2, 3⟩), (0x81014A3C00000000, 0, .cmpeq ⟨10, 20, 30⟩), (0x81096ABE00000000, 0, .cmpne ⟨11, 21, 31⟩),
    (0x81118B4000000000, 0, .cmplt ⟨12, 22, 32⟩), (0x8119ABC200000000, 0, .cmpltu ⟨13, 23, 33⟩), (0x8121CC4400000000, 0, .cmple ⟨14, 24, 34⟩),
    (0x8129ECC600000000, 0, .cmpleu ⟨15, 25, 35⟩), (0x8140210600000000, 0, .pand ⟨1, 2, 3⟩), (0x8148828C00000000, 0, .por ⟨4, 5, 6⟩),
    (0x8150E78000000000, 0, .pnot ⟨7, 15⟩)] = true := by decide +kernel

/-- R47, R48, R60. -/
theorem decode_class1 : reads [
    (0x8808214000000081, 1, .addi ⟨1, 2, 0x80000001⟩), (0x8818624000000083, 3, .andi ⟨3, 4, 0x80000001⟩),
    (0x882082C000000084, 4, .ori ⟨4, 5, 0x80000001⟩), (0x8828A34000000085, 5, .xori ⟨5, 6, 0x80000001⟩), (0x8838E40000001F80, 0, .shli ⟨7, 8, 63⟩),
    (0x8841048000001F80, 0, .shri ⟨8, 9, 63⟩), (0x8849250000001F80, 0, .srai ⟨9, 10, 63⟩), (0x8980A07FFFFFFF80, 0, .li ⟨5, 0xFFFFFFFF⟩),
    (0x8988C0091A2B3C00, 0, .lih ⟨6, 0x12345678⟩)] = true := by decide +kernel

/-- R48, R61. -/
theorem decode_class2 : reads [
    (0x90087FFFFFFFE004, 4, .br ⟨3, true, 0xFFFFFFFE⟩), (0x9010000000005000, 0, .jmp ⟨5⟩), (0x901BE80000000000, 0, .call ⟨31, 0x80000000⟩),
    (0x9023E00000000000, 0, .ret ⟨31⟩), (0x90280FFFFFFFF000, 0, .loop ⟨0xFFFFFFFF⟩), (0x9030000000000000, 0, .idle)] = true := by decide +kernel

/-- R47, R62, R63. -/
theorem decode_class3 : reads [
    (0x9808000000200000, 0, .rgn ⟨1024⟩), (0x9810000000000000, 0, .rgnend), (0x9818A00410000000, 0, .mfsr ⟨5, .trinfo⟩),
    (0x9820030288000000, 0, .mtsr ⟨.idlemx, 6⟩), (0x9828000007FFF800, 0, .trap ⟨0xFFFF⟩), (0x9830000000000000, 0, .rti),
    (0x9838000000000000, 0, .halt), (0x9840000000000000, 0, .iinvAll), (0x9840048000000800, 0, .iinvLine ⟨9⟩),
    (0x9840048000001000, 0, .iinvPage ⟨9⟩), (0x984C200000000000, 0, .rdgtc ⟨33⟩), (0x9850000000000000, 0, .realign),
    (0x985800000000380F, 15, .brk ⟨7⟩)] = true := by decide +kernel

/-- R47, R64. -/
theorem decode_class4 : reads [
    (0xA008210008000000, 0, .lds ⟨1, 2, 0x8000⟩), (0xA010010600008000, 0, .sts ⟨3, 2, 8⟩), (0xA0182101F0008000, 0, .gld ⟨1, 31, 2, 8⟩),
    (0xA0200107E0008000, 0, .gst ⟨3, 30, 2, 8⟩), (0xA028040070000000, 0, .xlat ⟨7, 8⟩), (0xA030000070000000, 0, .hinv ⟨7⟩),
    (0xA03800000FFFF000, 0, .fence ⟨0xFFFF⟩), (0xA040010600008000, 0, .binit ⟨3, 2, 8⟩), (0xA048010000008000, 0, .arrive ⟨2, 8⟩),
    (0xA050010000008000, 0, .bwait ⟨2, 8⟩), (0xA059E10000008000, 0, .btest ⟨15, 2, 8⟩), (0xA060210600008000, 0, .await ⟨1, 3, 2, 8⟩),
    (0xA080210600010000, 0, .amoadd ⟨1, 3, 0, 2, 16, false⟩), (0xA088210610010800, 0, .amoxor ⟨1, 3, 1, 2, 16, true⟩),
    (0xA090210600010000, 0, .amomin ⟨1, 3, 0, 2, 16, false⟩), (0xA098210630010800, 0, .amomax ⟨1, 3, 3, 2, 16, true⟩),
    (0xA0A0210600010000, 0, .amoswp ⟨1, 3, 0, 2, 16, false⟩), (0xA0A8210650010800, 0, .amocas ⟨1, 3, 5, 2, 16, true⟩)] = true := by decide +kernel

/-- R43, R45, R49, R65. -/
theorem decode_class5_a : reads [
    (0xA813E9FFC7D6204D, 0, .vadd ⟨1001, 2046, 501, 0x881, 3, 1⟩), (0xA81BE9FFC7D6204D, 0, .evadd ⟨1001, 2046, 501, 0x881, 3, 1⟩),
    (0xA823EAFFA7DA204E, 0, .vsub ⟨1002, 2045, 502, 0x881, 3, 2⟩), (0xA82BEAFFA7DA204E, 0, .evsub ⟨1002, 2045, 502, 0x881, 3, 2⟩),
    (0xA833EBFF87DE204F, 0, .vmac ⟨1003, 2044, 503, 0x881, 3, 3⟩), (0xA83BEBFF87DE204F, 0, .evmac ⟨1003, 2044, 503, 0x881, 3, 3⟩),
    (0xA843ECFF67E2204C, 0, .vmas ⟨1004, 2043, 504, 0x881, 3, 0⟩), (0xA84BECFF67E2204C, 0, .evmas ⟨1004, 2043, 504, 0x881, 3, 0⟩),
    (0xA873EFFF07EE204F, 0, .vxor ⟨1007, 2040, 507, 0x881, 3, 3⟩), (0xA87BEFFF07EE204F, 0, .evxor ⟨1007, 2040, 507, 0x881, 3, 3⟩),
    (0xA883F0FEE7F2204C, 0, .vxand ⟨1008, 2039, 508, 0x881, 3, 0⟩), (0xA88BF0FEE7F2204C, 0, .evxand ⟨1008, 2039, 508, 0x881, 3, 0⟩),
    (0xA8B3F3FE87FE204F, 0, .vshl ⟨1011, 2036, 511, 0x881, 3, 3⟩), (0xA8BBF3FE87FE204F, 0, .evshl ⟨1011, 2036, 511, 0x881, 3, 3⟩),
    (0xA8C3F4FE6802204C, 0, .vshr ⟨1012, 2035, 512, 0x881, 3, 0⟩), (0xA8CBF4FE6802204C, 0, .evshr ⟨1012, 2035, 512, 0x881, 3, 0⟩),
    (0xA8D3F5FE4806204D, 0, .vsra ⟨1013, 2034, 513, 0x881, 3, 1⟩), (0xA8DBF5FE4806204D, 0, .evsra ⟨1013, 2034, 513, 0x881, 3, 1⟩),
    (0xA8E3F6FE280A204E, 0, .vrotl ⟨1014, 2033, 514, 0x881, 3, 2⟩), (0xA8EBF6FE280A204E, 0, .evrotl ⟨1014, 2033, 514, 0x881, 3, 2⟩),
    (0xA8F3F7FE080E204F, 0, .vand ⟨1015, 2032, 515, 0x881, 3, 3⟩), (0xA8FBF7FE080E204F, 0, .evand ⟨1015, 2032, 515, 0x881, 3, 3⟩),
    (0xA903F8FDE812204C, 0, .vor ⟨1016, 2031, 516, 0x881, 3, 0⟩), (0xA90BF8FDE812204C, 0, .evor ⟨1016, 2031, 516, 0x881, 3, 0⟩),
    (0xA913F9FDC816204D, 0, .vmin ⟨1017, 2030, 517, 0x881, 3, 1⟩), (0xA91BF9FDC816204D, 0, .evmin ⟨1017, 2030, 517, 0x881, 3, 1⟩),
    (0xA923FAFDA81A204E, 0, .vmax ⟨1018, 2029, 518, 0x881, 3, 2⟩), (0xA92BFAFDA81A204E, 0, .evmax ⟨1018, 2029, 518, 0x881, 3, 2⟩),
    (0xA943FCFD6822204C, 0, .vmul ⟨1020, 2027, 520, 0x881, 3, 0⟩), (0xA94BFCFD6822204C, 0, .evmul ⟨1020, 2027, 520, 0x881, 3, 0⟩),
    (0xA853EDFF40000035, 0, .vneg ⟨1005, 2042, 13, 1⟩), (0xA85BEDFF40000035, 0, .evneg ⟨1005, 2042, 13, 1⟩),
    (0xA863EEFF20000036, 0, .vnot ⟨1006, 2041, 13, 2⟩), (0xA86BEEFF20000036, 0, .evnot ⟨1006, 2041, 13, 2⟩),
    (0xA933FBFD80000037, 0, .vabs ⟨1019, 2028, 13, 3⟩), (0xA93BFBFD80000037, 0, .evabs ⟨1019, 2028, 13, 3⟩),
    (0xA953FDFD40000035, 0, .vpopc ⟨1021, 2026, 13, 1⟩), (0xA95BFDFD40000035, 0, .evpopc ⟨1021, 2026, 13, 1⟩),
    (0xA963FEFD20000036, 0, .vclz ⟨1022, 2025, 13, 2⟩), (0xA96BFEFD20000036, 0, .evclz ⟨1022, 2025, 13, 2⟩)] = true := by decide +kernel

/-- R43, R45, R49, R65. -/
theorem decode_class5_b : reads [
    (0xA890030080000001, 0, .vswap ⟨3, 4, 1⟩), (0xA8A003008003C009, 0, .vcswap ⟨3, 4, 15, 2, 1⟩),
    (0xA9700E0080152049, 0, .vcmpeq ⟨14, 4, 5, 0x481, 2, 1⟩), (0xA9780E0080152049, 0, .evcmpeq ⟨14, 4, 5, 0x481, 2, 1⟩),
    (0xA9800E0080152049, 0, .vcmplt ⟨14, 4, 5, 0x481, 2, 1⟩), (0xA9880E0080152049, 0, .evcmplt ⟨14, 4, 5, 0x481, 2, 1⟩),
    (0xA9900E0080152049, 0, .vcmple ⟨14, 4, 5, 0x481, 2, 1⟩), (0xA9980E0080152049, 0, .evcmple ⟨14, 4, 5, 0x481, 2, 1⟩),
    (0xA9A0030080164009, 0, .vsel ⟨3, 4, 5, 9, 2, 1⟩), (0xA9C00DF000000001, 0, .vzmask ⟨13, 1920, 1⟩),
    (0xA9A8030080164009, 0, .evsel ⟨3, 4, 5, 9, 2, 1⟩), (0xA9C80DF000000001, 0, .evzmask ⟨13, 1920, 1⟩), (0xA9B000FFE0000003, 0, .vassz ⟨2047, 3⟩)] = true := by decide +kernel

/-- R49, R66. -/
theorem decode_class6_a : reads [
    (0xB013E9FFC7D54059, 0, .vfadd ⟨1001, 2046, 501, 0x501, 6, 1⟩), (0xB01BE9FFC7D54059, 0, .evfadd ⟨1001, 2046, 501, 0x501, 6, 1⟩),
    (0xB023EAFFA7D9405A, 0, .vfsub ⟨1002, 2045, 502, 0x501, 6, 2⟩), (0xB02BEAFFA7D9405A, 0, .evfsub ⟨1002, 2045, 502, 0x501, 6, 2⟩),
    (0xB033EBFF87DD405B, 0, .vfmul ⟨1003, 2044, 503, 0x501, 6, 3⟩), (0xB03BEBFF87DD405B, 0, .evfmul ⟨1003, 2044, 503, 0x501, 6, 3⟩),
    (0xB053EDFF47E54059, 0, .vfmin ⟨1005, 2042, 505, 0x501, 6, 1⟩), (0xB05BEDFF47E54059, 0, .evfmin ⟨1005, 2042, 505, 0x501, 6, 1⟩),
    (0xB063EEFF27E9405A, 0, .vfmax ⟨1006, 2041, 506, 0x501, 6, 2⟩), (0xB06BEEFF27E9405A, 0, .evfmax ⟨1006, 2041, 506, 0x501, 6, 2⟩),
    (0xB073EFFF00000017, 0, .vfneg ⟨1007, 2040, 5, 3⟩), (0xB07BEFFF00000017, 0, .evfneg ⟨1007, 2040, 5, 3⟩),
    (0xB083F0FEE0000014, 0, .vfabs ⟨1008, 2039, 5, 0⟩), (0xB08BF0FEE0000014, 0, .evfabs ⟨1008, 2039, 5, 0⟩),
    (0xB093F1FEC0000015, 0, .vfrcp ⟨1009, 2038, 5, 1⟩), (0xB09BF1FEC0000015, 0, .evfrcp ⟨1009, 2038, 5, 1⟩),
    (0xB0A3F2FEA0000016, 0, .vfrsq ⟨1010, 2037, 5, 2⟩), (0xB0ABF2FEA0000016, 0, .evfrsq ⟨1010, 2037, 5, 2⟩),
    (0xB0B3F3FE80000017, 0, .vfexp2 ⟨1011, 2036, 5, 3⟩), (0xB0BBF3FE80000017, 0, .evfexp2 ⟨1011, 2036, 5, 3⟩),
    (0xB0C3F4FE60000014, 0, .vflog2 ⟨1012, 2035, 5, 0⟩), (0xB0CBF4FE60000014, 0, .evflog2 ⟨1012, 2035, 5, 0⟩),
    (0xB0D3F5FE40000015, 0, .vftanh ⟨1013, 2034, 5, 1⟩), (0xB0DBF5FE40000015, 0, .evftanh ⟨1013, 2034, 5, 1⟩),
    (0xB0400100400FFF91, 0, .vfma ⟨1, 2, 3, 2047, 4, 1⟩), (0xB0E00F00400D4019, 0, .vfcmp ⟨15, 2, 3, 5, 6, 1⟩),
    (0xB0480100400FFF91, 0, .evfma ⟨1, 2, 3, 2047, 4, 1⟩), (0xB0E80F00400D4019, 0, .evfcmp ⟨15, 2, 3, 5, 6, 1⟩),
    (0xB0F0010040019CC2, 0, .vcvt ⟨1, 2, 0, 6, 7, 3, 0, 2⟩), (0xB0F8010040019CC2, 0, .evcvt ⟨1, 2, 0, 6, 7, 3, 0, 2⟩),
    (0xB1000100400D9056, 0, .vcvr ⟨1, 2, 3, 6, 4, 1, 5, 2⟩), (0xB1080100400D9056, 0, .evcvr ⟨1, 2, 3, 6, 4, 1, 5, 2⟩),
    (0xB1100100400D1856, 0, .vmerge ⟨1, 2, 3, 4, 6, 1, 5, 2⟩), (0xB1180100400D1856, 0, .evmerge ⟨1, 2, 3, 4, 6, 1, 5, 2⟩),
    (0xB120010040016FC2, 0, .vshoal ⟨1, 2, 0, 5, 11, 15, 0, 2⟩), (0xB128010040016FC2, 0, .evshoal ⟨1, 2, 0, 5, 11, 15, 0, 2⟩),
    (0xB1300100400D2042, 0, .vscale ⟨1, 2, 3, 4, 8, 1, 0, 2⟩), (0xB1380100400D2042, 0, .evscale ⟨1, 2, 3, 4, 8, 1, 0, 2⟩),
    (0xB1406419000D8242, 0, .vbpenc ⟨100, 200, 3, 6, 0, 9, 0, 2⟩), (0xB1486419000D8242, 0, .evbpenc ⟨100, 200, 3, 6, 0, 9, 0, 2⟩)] = true := by decide +kernel

/-- R49, R66. -/
theorem decode_class6_b : reads [
    (0xB150640C600041C2, 0, .vbpdec ⟨100, 99, 0, 1, 0, 7, 0, 2⟩), (0xB158640C600041C2, 0, .evbpdec ⟨100, 99, 0, 1, 0, 7, 0, 2⟩),
    (0xB16001004000B7C2, 0, .vredadd ⟨1, 2, 0, 2, 13, 15, 0, 2⟩), (0xB16801004000B7C2, 0, .evredadd ⟨1, 2, 0, 2, 13, 15, 0, 2⟩),
    (0xB1700100400110C2, 0, .vredmax ⟨1, 2, 0, 4, 4, 3, 0, 2⟩), (0xB1780100400110C2, 0, .evredmax ⟨1, 2, 0, 4, 4, 3, 0, 2⟩),
    (0xB1800100400044C2, 0, .vredmin ⟨1, 2, 0, 1, 1, 3, 0, 2⟩), (0xB1880100400044C2, 0, .evredmin ⟨1, 2, 0, 1, 1, 3, 0, 2⟩),
    (0xB19001004000CD42, 0, .vscan ⟨1, 2, 0, 3, 3, 5, 0, 2⟩), (0xB19801004000CD42, 0, .evscan ⟨1, 2, 0, 3, 3, 5, 0, 2⟩)] = true := by decide +kernel

/-- R49, R67. -/
theorem decode_class7 : reads [
    (0xB8100100017FFFC3, 0, .vld ⟨1, 2, 131071, 3⟩), (0xB820000021400003, 0, .vst ⟨1, 2, 65536, 3⟩), (0xB830010040000037, 0, .vldx ⟨1, 2, 13, 3⟩),
    (0xB8400100400F31C9, 0, .vperm ⟨1, 2, 3, 0xCC7, 2, 1⟩), (0xB8500100400FF002, 0, .vrmg ⟨1, 2, 3, 63, 2⟩),
    (0xB860010001000025, 0, .vbcast ⟨1, 2, 9, 1⟩), (0xB880010001007FED, 0, .vins ⟨1, 2, 511, 11, 1⟩), (0xB8B0978000000003, 0, .mand ⟨1, 2, 15, 3⟩),
    (0xB8C0978000000003, 0, .mor ⟨1, 2, 15, 3⟩), (0xB8D0F00000000003, 0, .mnot ⟨1, 14, 3⟩), (0xB8180100017FFFC3, 0, .evld ⟨1, 2, 131071, 3⟩),
    (0xB828000021400003, 0, .evst ⟨1, 2, 65536, 3⟩), (0xB838010040000037, 0, .evldx ⟨1, 2, 13, 3⟩),
    (0xB8480100400F31C9, 0, .evperm ⟨1, 2, 3, 0xCC7, 2, 1⟩), (0xB8580100400FF002, 0, .evrmg ⟨1, 2, 3, 63, 2⟩),
    (0xB868010001000025, 0, .evbcast ⟨1, 2, 9, 1⟩), (0xB888010001007FED, 0, .evins ⟨1, 2, 511, 11, 1⟩),
    (0xB8B8978000000003, 0, .emand ⟨1, 2, 15, 3⟩), (0xB8C8978000000003, 0, .emor ⟨1, 2, 15, 3⟩), (0xB8D8F00000000003, 0, .emnot ⟨1, 14, 3⟩),
    (0xB87000005F801FC6, 0, .vext ⟨63, 2, 127, 1, 2⟩), (0xB890000180000001, 0, .hpush ⟨12, 1⟩), (0xB8A00C0000000001, 0, .hpop ⟨12, 1⟩)] = true := by decide +kernel

/-- R50, R68, R253. -/
theorem decode_class8 : reads [
    (0xC00F800418000000, 0, .mringSet ⟨15, 2, 3⟩), (0xC00F000A00000004, 0, .mringRead ⟨14, 5⟩), (0xC00E800C00000008, 0, .mringLoad ⟨13, 6⟩),
    (0xC016000E00000000, 0, .mtail ⟨12, 7⟩), (0xC018007E00000000, 0, .fmtq ⟨63⟩), (0xC020480007FF0002, 0, .mwld ⟨9, some 1023, 2⟩),
    (0xC028801404000001, 0, .mmacr ⟨1, 10, some 0, 1⟩), (0xC031001600000001, 0, .mmasr ⟨2, 11, none, 1⟩),
    (0xC039801804020001, 0, .emmul ⟨3, 12, some 2, 1⟩), (0xC042001A00000001, 0, .emfma ⟨4, 13, none, 1⟩), (0xC048000006000000, 0, .emclr ⟨some 512⟩)] = true := by decide +kernel

/-- R50, R68, R279. -/
theorem decode_class9 : reads [
    (0xC80890002C070079, 0, .rtqr ⟨1, 2, 5, 30, some 7, 1⟩), (0xC81090082800048F, 0, .rtapl ⟨1, 2, 4, 5, 3, 9, none, 3⟩),
    (0xC81810082800007C, 0, .rtinvQr ⟨2, 4, 5, 31, none, 0⟩), (0xC819900828001E04, 0, .rtinvApl ⟨3, 2, 4, 5, 1, 28, none, 0⟩),
    (0xC82000082C010FFA, 0, .rtsolve ⟨4, 5, 30, 31, some 1, 2⟩), (0xC82800080000007C, 0, .rtrd ⟨4, 31, 0, none⟩),
    (0xC830000804050E88, 0, .rtwr ⟨4, 2, 29, some 5⟩), (0xC8380000000017E0, 0, .rtgainSet ⟨24, 15, 2⟩), (0xC838005000008000, 0, .rtgainRead ⟨40⟩),
    (0xC840000000000000, 0, .ertclr ⟨none⟩)] = true := by decide +kernel

/-- R51, R69, R296. -/
theorem decode_classA : reads [
    (0xD00FF2AF290D8000, 0, .cpy ⟨3, 31, 10, 2, 30, 20, 33, 44⟩), (0xD01202AF290D8000, 0, .cpyx ⟨1, 0, 10, 2, 30, 20, 33, 44⟩),
    (0xD01FF2AF290D8010, 0, .cpycPack ⟨⟨3, 31, 10, 2, 30, 20, 33, 44⟩, 2⟩),
    (0xD01FF2AF290D800C, 0, .cpycUnpack ⟨⟨3, 31, 10, 2, 30, 20, 33, 44⟩, 1⟩), (0xD027F2AF290D801C, 0, .cpyg ⟨⟨3, 31, 10, 2, 30, 20, 33, 44⟩, 7⟩),
    (0xD02FF2AF290D8D1C, 0, .cpys ⟨⟨3, 31, 10, 2, 30, 20, 33, 44⟩, 7, 4, true, 1⟩), (0xD035F280010D8000, 0, .cpyz ⟨2, 31, 10, 33, 44⟩),
    (0xD03FF2AF290D8258, 0, .cpyv ⟨⟨3, 31, 10, 2, 30, 20, 33, 44⟩, 6, 9⟩), (0xD045F280290D97E0, 0, .ppcmp ⟨2, 31, 10, 20, 33, 44, 8, true, 47⟩)] = true := by decide +kernel

/-- R51, R69, R330, R360. -/
theorem decode_classB : reads [
    (0xD808210607F85E00, 0, .lsend ⟨1, 2, 3, 255, 128, 23⟩), (0xD810800607F000D8, 0, .lrecv ⟨4, 3, 254, 22, true⟩),
    (0xD818210620501830, 0, .lradd ⟨1, 2, 3, 4, 10, 12, false, true, true⟩), (0xD820000004080000, 0, .lcancel ⟨129⟩),
    (0xD828E00004100000, 0, .lprec ⟨7, 130⟩), (0xD830E00004180060, 0, .lwprec ⟨7, 131, 24⟩), (0xD880828C3DF80000, 0, .nmc ⟨4, 5, 6, 7, 31, 5⟩)] = true := by decide +kernel

/-- R51, R69, R91, R100, R101, R378, R379. -/
theorem decode_classC : reads [
    (0xE0080003C0000000, 0, .wake ⟨15⟩), (0xE010000200000000, 0, .gate ⟨8⟩), (0xE01920017F000000, 0, .clkdiv ⟨9, 5, 63⟩),
    (0xE020A00000000010, 0, .rdmeterUsed ⟨5, true⟩), (0xE020C00040000000, 0, .rdmeterBal ⟨6, false⟩), (0xE040A07000000000, 0, .dsync ⟨5, 7⟩),
    (0xE048217000FFFFF0, 0, .xsend ⟨1, 2, 7, 0xFFFFF⟩), (0xE050626C80800000, 0, .xrecv ⟨3, 4, 6, 50, 0x80000⟩)] = true := by decide +kernel

/-- R52. -/
theorem decode_classF : reads [
    (0x780676B000000000, 0, .pfx ⟨true, 9, true, 5, 2, true, 3⟩)] = true := by decide +kernel
/-! ## Witnesses: concrete states and operands that meet the hypotheses of each statement, clause by clause -/

/-- One atoll of the package, with nothing on the agenda. -/
def lone : State := { State.reset with others := [], agenda := [] }

def strand (f : Strand → Strand) : State := { lone with a := { lone.a with st := f lone.a.st } }

def atollBy (f : Atoll → Atoll) : State := { lone with a := f lone.a }

def frontBy (f : Fe → Fe) : State := { lone with fe := f lone.fe }

/-- Scalar registers with these values and the others zero. -/
def regs (l : List (Fin 64 × Word)) : Vector Word 64 := l.foldl (fun v p => v.set p.1 p.2) (Vector.replicate 64 0)

/-- Handles with these values and the others zero. -/
def handles (l : List (Fin 32 × Word)) : Vector Word 32 := l.foldl (fun v p => v.set p.1 p.2) (Vector.replicate 32 0)

/-- A strand in an open region of 100 core cycles that began at ATC 0. -/
def inRegion (st : Strand) : Strand := { st with rgn := some ⟨0, 100, false⟩ }

/-- A launch of one strand on atoll 0, in launch slot 1, of queue 0. -/
def one : Launch :=
  { id := 1, slot := 1, q := 0, seqn := 0, tag := 0, home := none, desc := List.replicate 32 0, meter := 0, gx := 0, gy := 0, w := 1, h := 1
    atolls := [0], graphs := [], brken := false, imported := false, saved := false, pcount := 0, rung := 0, reason := 0, since := 0
    unfit := none, tried := none, members := [], meters := [], kept := [], gone := [], fault := (0, []) }

/-- Atoll 0 with that launch. -/
def launched (x : Launch) (f : Atoll → Atoll) : State :=
  { lone with a := f { lone.a with slot := x.slot }, fe := { lone.fe with launches := [x] } }

theorem numbered : Numbered State.reset.a.n (State.reset.others.map Atoll.n) := List.Perm.of_eq (by decide +kernel)

theorem witness_ScalarRegisterForms :
    (∃ (s : State) (b : Reg), s.rdS b = 0) ∧
    (∃ (s : State) (a b : Reg), (s.rdS a).toInt = -2 ^ 63 ∧ (s.rdS b).toInt = -1) ∧
    (∃ (s : State) (a b : Reg), s.rdS b ≠ 0 ∧ ¬((s.rdS a).toInt = -2 ^ 63 ∧ (s.rdS b).toInt = -1)) ∧
    (∃ w : Word, sylClass w = 0 ∧ sylOpcode w = 1 ∧ w.extractLsb' 4 29 ≠ 0) ∧ (∃ w : Word, sylClass w = 0 ∧ sylOpcode w = 0x13 ∧ w.extractLsb' 4 29 ≠ 0) ∧
    (∃ w : Word, sylClass w = 0 ∧ sylOpcode w = 0x14 ∧ w.extractLsb' 4 35 ≠ 0) ∧ (∃ w : Word, sylClass w = 0 ∧ sylOpcode w = 0x15 ∧ w.extractLsb' 4 35 ≠ 0) ∧
    (∃ w : Word, sylClass w = 0 ∧ sylOpcode w = 0x16 ∧ w.extractLsb' 4 23 ≠ 0) ∧ ∃ w : Word, sylClass w = 0 ∧ sylOpcode w = 0x16 ∧ w.extractLsb' 31 2 ≠ 0 := by
  refine ⟨⟨lone, 1, ?_⟩, ⟨strand fun st => { st with regs := regs [(1, 0x8000000000000000), (2, -1)] }, 1, 2, ?_⟩,
    ⟨strand fun st => { st with regs := regs [(1, 0x8000000000000000), (2, 1)] }, 1, 2, ?_⟩, ⟨0x8008208400000010, ?_⟩, ⟨0x8098208500000000, ?_⟩, ⟨0x80A0208000000010, ?_⟩,
    ⟨0x80A8208400000000, ?_⟩, ⟨0x80B0208400000010, ?_⟩, 0x80B0208480000000, ?_⟩ <;> decide +kernel

theorem witness_ComparesAndPredicates :
    (∃ w : Word, sylClass w = 0 ∧ sylOpcode w = 0x20 ∧ w.extractLsb' 49 2 ≠ 0) ∧ (∃ w : Word, sylClass w = 0 ∧ sylOpcode w = 0x25 ∧ w.extractLsb' 49 2 ≠ 0) ∧
    (∃ w : Word, sylClass w = 0 ∧ sylOpcode w = 0x28 ∧ w.extractLsb' 43 2 ≠ 0) ∧ (∃ w : Word, sylClass w = 0 ∧ sylOpcode w = 0x29 ∧ w.extractLsb' 37 2 ≠ 0) ∧
    ∃ w : Word, sylClass w = 0 ∧ sylOpcode w = 0x2A ∧ w.extractLsb' 33 6 ≠ 0 := by
  refine ⟨⟨0x8102000000000000, ?_⟩, ⟨0x812C000000000000, ?_⟩, ⟨0x8140080000000000, ?_⟩, ⟨0x8148004000000000, ?_⟩, 0x8150000200000000, ?_⟩ <;>
  decide +kernel

theorem witness_RegistersTakeWhatLands :
    (∃ (s : State) (k : Nat), s.a.st.lastCh.1 ≠ k ∧ s.a.st.quota < 2 ^ 96 ∧ k ≤ s.now) ∧
    (∃ v : Word, v.extractLsb' 19 3 ≤ 3#3) ∧ (∃ v : Word, 3#3 < v.extractLsb' 19 3) ∧
    (∃ (s : State) (v : Word), 360 ≤ (v.extractLsb' 16 12).toNat ∧ (v.extractLsb' 16 12).toNat + 10 ≤ s.railOf s.a.n) ∧
    ∃ (s : State) (k c : Nat), s.a.st.lastCh = (k, c) := by
  refine ⟨⟨{ lone with now := 1 }, 1, ?_⟩, ⟨3 <<< 19, ?_⟩, ⟨4 <<< 19, ?_⟩, ⟨lone, 490 <<< 16, ?_⟩, lone, 0, 0, ?_⟩ <;> decide +kernel

theorem witness_SystemRegisterInstructions :
    (∃ s : State, s.privileged = true) ∧
    (∃ (s : State) (a : Reg) (r : SysReg), r ∈ [SysReg.aclass, .sbmode, .tvec, .idlemx, .lc, .trpc, .trcause, .trinfo] ∧
      ¬(r = .tvec ∧ (s.rdS a).getLsbD 47 = true)) ∧
    (∃ (s : State) (r : SysReg), s.privileged = false ∧ r ∉ [SysReg.aclass, .sbmode, .tvec, .idlemx, .lc, .trpc, .trcause, .trinfo]) ∧
    ∃ (s : State) (a : Reg), s.privileged = false ∧ (s.rdS a).getLsbD 47 = true := by
  refine ⟨⟨strand fun st => { st with bpc := 2 ^ 47 }, ?_⟩, ⟨lone, 1, .tvec, ?_⟩, ⟨lone, .qsw, ?_⟩,
    strand fun st => { st with regs := regs [(1, 1 <<< 47)] }, 1, ?_⟩ <;> decide +kernel

theorem witness_BranchesAndJumps :
    (∃ (s : State) (c d : Prd) (n : Bool) (off : BitVec 32), (BitVec.ofNat 48 s.a.st.bpc + 8 * off.signExtend 48).toNat < 2 ^ 47 ∧ s.rdP c ≠ n ∧
      s.rdP d = n ∧ 1 < s.a.st.lc) ∧
    (∃ (s : State) (a : Reg), (s.rdS a).toNat % 2 ^ 48 / 8 * 8 < 2 ^ 47) ∧ (∃ s : State, s.a.st.lc = 1) ∧ (∃ s : State, s.a.st.lc = 0) ∧
    (∃ (s : State) (c : Prd) (n : Bool) (off : BitVec 32), s.privileged = false ∧
      2 ^ 47 ≤ (BitVec.ofNat 48 s.a.st.bpc + 8 * off.signExtend 48).toNat ∧ s.rdP c ≠ n ∧ 1 < s.a.st.lc) ∧
    ∃ (s : State) (a : Reg), s.privileged = false ∧ (s.rdS a).getLsbD 47 = true := by
  refine ⟨⟨strand fun st => { st with lc := 2 }, 0, 1, false, 1, ?_⟩, ⟨lone, 1, ?_⟩, ⟨strand fun st => { st with lc := 1 }, ?_⟩, ⟨lone, ?_⟩,
    ⟨strand fun st => { st with lc := 2 }, 0, false, 0xFFFFFFFF, ?_⟩, strand fun st => { st with regs := regs [(1, 1 <<< 47)] }, 1, ?_⟩ <;> decide +kernel

theorem witness_WaitsEnd :
    (∃ s : State, s.a.st.rgn = none ∧ s.a.st.wake = true) ∧ (∃ s : State, s.a.st.rgn = none ∧ s.a.st.wake = false) ∧
    (∃ (s : State) (k : Nat), s.a.st.rgn = none ∧ s.a.st.wait = .idle k ∧ s.a.st.more = []) ∧
    (∃ (s : State) (k : Nat) (x : Wait) (r : List Wait), s.a.st.rgn = none ∧ s.a.st.wait = .idle k ∧ s.a.st.more = x :: r) ∧
    (∃ (s : State) (b : Reg), (0 : Word) &&& 0x7FFFFFFFFF800000 = 0 ∧ s.pfxSpace < 2 ∧ s.a.st.rgn = none ∧ Mem.word s.a.sp 0 ≠ s.rdS b) ∧
    (∃ (s : State) (b : Reg), s.pfxSpace < 2 ∧ s.a.st.rgn = none ∧ Mem.word s.a.sp 0 = s.rdS b ∧ ∀ m ∈ s.a.st.mons, m.any (fun x => x.byte ≠ 0) = true) ∧
    (∃ (s : State) (b : Reg), s.pfxSpace < 2 ∧ s.a.st.rgn = none ∧ Mem.word s.a.sp 0 = s.rdS b ∧ none ∈ s.a.st.mons) ∧
    (∃ (s : State) (k : Nat) (d : Reg), s.pfxSpace < 2 ∧ s.a.st.rgn = none ∧ s.a.st.wait = .await k d 6291448 ∧ s.a.st.more = []) ∧
    (∃ (s : State) (k : Nat) (d : Reg) (x : Wait) (r : List Wait), s.pfxSpace < 2 ∧ s.a.st.rgn = none ∧ s.a.st.wait = .await k d 6291448 ∧ s.a.st.more = x :: r) ∧
    ∃ s : State, LocalAddr (s.rdS 1) := by
  refine ⟨⟨strand fun st => { st with wake := true }, ?_⟩, ⟨lone, ?_⟩, ⟨strand fun st => { st with wait := .idle 1 }, 1, ?_⟩,
    ⟨strand fun st => { st with wait := .idle 1, more := [.outcome] }, 1, .outcome, [], ?_⟩,
    ⟨strand fun st => { st with regs := regs [(2, 1)] }, 2, ?_⟩, ⟨strand fun st => { st with mons := List.replicate 16 (some ⟨8, 0⟩) }, 2, ?_⟩, ⟨lone, 2, ?_⟩,
    ⟨strand fun st => { st with wait := .await 1 3 6291448 }, 1, 3, ?_⟩,
    ⟨strand fun st => { st with wait := .await 1 3 6291448, more := [.outcome] }, 1, 3, .outcome, [], ?_⟩, strand fun st => { st with regs := regs [(1, 6291455)] }, ?_, ?_⟩ <;> decide +kernel

theorem witness_RegionsOpenAndClose :
    (∃ s : State, s.a.st.rgn = none) ∧ (∃ (s : State) (r : Rgn), s.a.st.rgn = some r ∧ s.a.st.run = .run) ∧
    (∃ s : State, s.a.st.rgn.isSome = true) ∧
    (∃ s : State, s.a.st.rgn.isSome = true ∧ s.a.st.act = true ∧ s.privileged = true) ∧
    ∃ s : State, s.a.st.rgn.isSome = true ∧ s.a.st.act = true ∧ s.a.st.trpc.getLsbD 47 = false := by
  refine ⟨⟨lone, ?_⟩, ⟨strand fun st => { inRegion st with run := .run }, ⟨0, 100, false⟩, ?_⟩, ⟨strand inRegion, ?_⟩,
    ⟨strand fun st => { inRegion st with bpc := 2 ^ 47, trcause := 0x10000 }, ?_⟩, strand fun st => { inRegion st with trcause := 0x10000 }, ?_⟩ <;> decide +kernel

theorem witness_TrapEntry :
    (∃ s : State, s.a.st.act = true) ∧ (∃ s : State, s.a.st.act = false ∧ s.a.st.bal < 0) ∧
    (∃ s : State, s.a.st.act = false ∧ 0 ≤ s.a.st.bal ∧ s.a.st.tvec.extractLsb' 3 45 = 0) ∧
    ∃ s : State, s.a.st.act = false ∧ 0 ≤ s.a.st.bal ∧ s.a.st.tvec.extractLsb' 3 45 ≠ 0 := by
  refine ⟨⟨strand fun st => { st with trcause := 0x10000 }, ?_⟩, ⟨strand fun st => { st with bal := -1 }, ?_⟩, ⟨lone, ?_⟩,
    strand fun st => { st with tvec := 0x1000 }, ?_⟩ <;> decide +kernel

theorem witness_ReturnFromTrap :
    (∃ s : State, s.a.st.trcause.getLsbD 16 = true ∧ s.a.st.rgn = none ∧ s.privileged = true) ∧
    (∃ s : State, s.a.st.trcause.getLsbD 16 = true ∧ s.a.st.rgn = none ∧ s.a.st.trpc.getLsbD 47 = false) ∧
    (∃ s : State, s.a.st.trcause.getLsbD 16 = false) ∧
    (∃ s : State, s.a.st.trcause.getLsbD 16 = true ∧ s.privileged = false ∧ s.a.st.trpc.getLsbD 47 = true) ∧
    ∃ s : State, s.a.st.trcause.getLsbD 16 = true ∧ s.a.st.trpc.getLsbD 47 = false ∧ s.a.st.rgn.isSome = true := by
  refine ⟨⟨strand fun st => { st with bpc := 2 ^ 47, trcause := 0x10000, trpc := 1 <<< 47 }, ?_⟩, ⟨strand fun st => { st with trcause := 0x10000 }, ?_⟩, ⟨lone, ?_⟩,
    ⟨strand fun st => { st with trcause := 0x10000, trpc := 1 <<< 47 }, ?_⟩, strand fun st => { inRegion st with trcause := 0x10000 }, ?_⟩ <;> decide +kernel

theorem witness_TrapsTaken :
    (∃ s : State, s.a.st.rgn = none ∧ s.launch = none) ∧ (∃ (s : State) (l : Launch), s.a.st.rgn = none ∧ s.launch = some l ∧ l.brken = false) ∧
    (∃ (s : State) (l : Launch), s.a.st.rgn = none ∧ s.launch = some l ∧ l.brken = true) ∧
    (∃ (s : State) (c : Nat), s.a.st.dflag = some c) ∧ ∃ (s : State) (c : Nat), s.a.st.xfault = some c := by
  refine ⟨⟨lone, ?_⟩, ⟨launched one id, one, ?_⟩, ⟨launched { one with brken := true } id, { one with brken := true }, ?_⟩,
    ⟨strand fun st => { st with dflag := some 0x70 }, 0x70, ?_⟩, strand fun st => { st with xfault := some 0x83 }, 0x83, ?_⟩ <;> decide +kernel

theorem witness_HaltAndInstructionStore :
    (∃ s : State, s.a.st.rgn = none) ∧
    (∃ s : State, s.a.st.rgn = none ∧ s.a.st.run = .halting ∧ (∀ e ∈ s.agenda, e.atoll = s.a.n → e.dom ∉ [Dom.vx, .mx, .rt, .ring]) ∧
      (∀ c ∈ s.a.cq, c.kind ≠ .ppcmp ∧ ¬(c.dst.sp ≤ 1 ∧ c.dst.atoll = s.a.n)) ∧ s.a.arriving = []) ∧
    (∀ m ∈ [some 1, none], ∃ (s : State) (line : Nat) (e : PageMap), s.a.st.rgn = none ∧ s.a.st.run = .run ∧ s.a.st.miss = m ∧ line = 1 ∧
      s.walkVa (line * 128) = some e ∧
      let row := (e.frame * 2 ^ 16 + line * 128 % (if e.big then 2 ^ 21 else 2 ^ 16)) / 128
      s.served row s.a.slot false = true ∧ s.dev.bad row = false ∧ (row, true) ∉ s.dev.errs) ∧
    ∀ m ∈ [some 1, none], ∃ (s : State) (line : Nat), s.walkVa (line * 128) = none ∧ s.a.st.run = .run ∧ s.a.st.miss = m ∧ line = 1 := by
  let m : PageMap := ⟨0, false, 2, false, false, 0, 0⟩
  refine ⟨⟨lone, by decide +kernel⟩, ⟨strand fun st => { st with run := .halting }, by decide +kernel⟩, fun o ho =>
    ⟨{ launched one (fun a => { a with st := { a.st with run := .run, miss := o } }) with
      fe := { lone.fe with launches := [one], tables := [(0, [m])] } }, 1, m, rfl, rfl, rfl, rfl, ?_⟩,
    fun o ho => ⟨strand fun st => { st with run := .run, miss := o }, 1, ?_, rfl, rfl, rfl⟩⟩ <;> revert o <;> decide +kernel


/-- A strand that runs with these words in its instruction store, line 0 on. -/
def stored (l : List Word) (f : Strand → Strand) : State :=
  let row : Row := BitVec.ofNat 1024 (l.foldr (fun w n => n * 2 ^ 64 + w.toNat) 0)
  strand fun st => f { st with run := .run, istore := [(0, row)], codeLo := 0, codeHi := 128 }

theorem witness_BundlesAreFetched :
    (∃ s : State, (s.a.st.run = .run ∧ s.a.st.wait = .none ∧ s.a.st.held = none ∧ s.a.st.lagHold = false ∧ s.a.st.rgn = none) ∧ s.a.st.bal < 0 ∧
      s.a.st.act = false) ∧
    (∃ (s : State) (l : List Word), (s.a.st.run = .run ∧ s.a.st.wait = .none ∧ s.a.st.held = none ∧ s.a.st.lagHold = false ∧ s.a.st.rgn = none) ∧
      0 ≤ s.a.st.bal ∧ s.a.st.pc < 2 ^ 47 ∧ s.a.st.fetchBundle 4 0 s.a.st.pc = (l, none) ∧ bundleReason l = some 4) ∧
    (∃ (s : State) (l : List Word), (s.a.st.run = .run ∧ s.a.st.wait = .none ∧ s.a.st.held = none ∧ s.a.st.lagHold = false ∧ s.a.st.rgn = none) ∧
      0 ≤ s.a.st.bal ∧ s.a.st.pc < 2 ^ 47 ∧ s.a.st.fetchBundle 4 0 s.a.st.pc = (l, none) ∧ bundleReason l = none ∧ l.length = 2) ∧
    (∃ (s : State) (l : List Word), (s.a.st.run = .run ∧ s.a.st.wait = .none ∧ s.a.st.held = none ∧ s.a.st.lagHold = false ∧ s.a.st.rgn = none) ∧
      0 ≤ s.a.st.bal ∧ 2 ^ 47 ≤ s.a.st.bpc ∧ s.a.st.pinned ≠ [] ∧ s.a.st.fetchBundle 4 0 s.a.st.pc = (l, none) ∧ bundleReason l = none) ∧
    (∃ (s : State) (l : List Word), s.a.st.run = .run ∧ s.a.st.act = false ∧ 2 ^ 47 ≤ s.a.st.bpc ∧ s.a.st.pinned = [] ∧
      s.a.st.fetchBundle 4 0 s.a.st.pc = (l, none)) ∧
    (∃ (s : State) (l : List Word) (r : Rgn), s.a.st.run = .run ∧ s.a.st.rgn = some r ∧ s.regionCycle < r.n ∧
      s.a.st.fetchBundle 4 0 s.a.st.pc = (l, none) ∧ bundleReason l = none) ∧
    (∃ (s : State) (l : List Word) (r : Rgn), s.a.st.run = .run ∧ s.a.st.rgn = some r ∧ r.n ≤ s.regionCycle ∧
      s.a.st.fetchBundle 4 0 s.a.st.pc = (l, none) ∧ s.closes (l.map sylOf) = true) ∧
    (∃ (s : State) (l : List Word) (r : Rgn), s.a.st.run = .run ∧ s.a.st.rgn = some r ∧ r.n ≤ s.regionCycle ∧
      s.a.st.fetchBundle 4 0 s.a.st.pc = (l, none) ∧ s.closes (l.map sylOf) = false) ∧
    (∃ (s : State) (l : List Word) (k line : Nat), (s.a.st.run = .run ∧ s.a.st.wait = .none ∧ s.a.st.held = none ∧ s.a.st.lagHold = false ∧
      s.a.st.rgn = none) ∧ 0 ≤ s.a.st.bal ∧ s.a.st.pc < 2 ^ 47 ∧ s.a.st.fetchBundle 4 0 s.a.st.pc = (l, some (k, .miss line))) ∧
    ∃ s : State, (s.a.st.run = .run ∧ s.a.st.wait = .none ∧ s.a.st.held = none ∧ s.a.st.lagHold = false ∧ s.a.st.rgn = none) ∧ 0 ≤ s.a.st.bal ∧
      s.a.st.bpc < 2 ^ 47 ∧ 2 ^ 47 ≤ s.a.st.pc ∧ s.a.st.pc < 2 ^ 48 := by
  refine ⟨⟨stored [] fun st => { st with bal := -1 }, ?_⟩, ⟨stored [0x0008208400000000, 0x8010208400000000] id, [0x0008208400000000, 0x8010208400000000], ?_⟩,
    ⟨stored [0x0008208400000000, 0x8010408400000000] id, [0x0008208400000000, 0x8010408400000000], ?_⟩,
    ⟨stored [] fun st => { st with bpc := 2 ^ 47, pc := 2 ^ 47, pinned := [(2 ^ 40, 0x9810000000000000)] }, [0x9810000000000000], ?_⟩,
    ⟨stored [0x8010408400000000] fun st => { st with bpc := 2 ^ 47 }, [0x8010408400000000], ?_⟩,
    ⟨stored [0x8010408400000000] inRegion, [0x8010408400000000], ⟨0, 100, false⟩, ?_⟩,
    ⟨stored [0x9810000000000000] fun st => { inRegion st with atc := 100 }, [0x9810000000000000], ⟨0, 100, false⟩, ?_⟩,
    ⟨stored [0x8010408400000000] fun st => { inRegion st with atc := 100 }, [0x8010408400000000], ⟨0, 100, false⟩, ?_⟩,
    ⟨stored [] fun st => { st with istore := [] }, [], 0, 0, ?_⟩,
    stored [] fun st => { st with pc := 2 ^ 47 }, ?_⟩ <;> decide +kernel

/-- The first step of a package in which `add s1, s1, s2` is to be fetched, and its state when the step is in hand, before the issue. -/
def adds : State := lone.withFetchWord 64 0x8008208400000000

def fetching : Ev := ⟨0, 5, 0, 0, .core, .bundleFetch, .none⟩

def taken : State := adds.take fetching []

def issuing : State :=
  { taken with seq := taken.seq + 1, ev := { taken.ev with seq := taken.seq + 1 }, issueQ := [some ⟨0, .add ⟨1, 1, 2⟩⟩]
               a := { taken.a with st := { taken.a.st with bpc := taken.a.st.pc, npc := (taken.a.st.pc + 8) % 2 ^ 48, pos := 0, pfx := none, miss := none } } }

theorem witness_StepRunsDecodedInstruction :
    adds.agenda = [fetching] ∧ fetching.i = .bundleFetch ∧ taken.a.st.run = .run ∧ taken.a.st.wait = .none ∧ taken.a.st.held = none ∧
    taken.a.st.lagHold = false ∧ taken.a.st.rgn = none ∧ 0 ≤ taken.a.st.bal ∧ taken.a.st.xfault = none ∧ taken.a.st.dflag = none ∧
    taken.a.st.evReq = false ∧ taken.a.st.pc < 2 ^ 47 ∧ taken.a.st.fetchBundle 4 0 taken.a.st.pc = ([0x8008208400000000], none) ∧
    bundleReason [0x8008208400000000] = none ∧ (decode 0x8008208400000000).toOption = some ⟨0, .add ⟨1, 1, 2⟩⟩ ∧ taken.rdP 0 = true ∧
    issuing.heldBack [some ⟨0, .add ⟨1, 1, 2⟩⟩] = false ∧ issuing.heldLast [some ⟨0, .add ⟨1, 1, 2⟩⟩] = false ∧
    trapAt [some ⟨0, .add ⟨1, 1, 2⟩⟩] issuing (issuing.opened [(0, .add ⟨1, 1, 2⟩)]) 0 = none ∧
    issuing.walkDue [(0, .add ⟨1, 1, 2⟩)] = none := by
  decide +kernel

theorem witness_ScratchpadAccesses :
    (∃ (s : State) (a : Reg), LocalAddr (s.rdS a) ∧ s.pfxSpace < 2 ∧ s.a.st.rgn = none ∧ s.a.res ≠ []) ∧
    (∃ (s : State) (a : Reg), LocalAddr (s.rdS a) ∧ s.pfxSpace < 2 ∧ s.a.st.rgn ≠ none ∧ s.a.res = []) ∧
    (∃ (s : State) (b : Reg), 0 < (s.rdS b).toNat ∧ (s.rdS b).toNat ≤ 65535) ∧
    ∃ (s : State) (a : Reg) (k : Nat), RemoteAddr s (s.rdS a) ∧ s.pfxSpace < 2 ∧ s.a.st.rgn = none ∧
      s.atollAt ((s.rdS a).extractLsb' 48 10).toNat ((s.rdS a).extractLsb' 40 8).toNat = some k ∧ k < 1000 := by
  unfold LocalAddr RemoteAddr
  refine ⟨⟨atollBy fun a => { a with st := { a.st with regs := regs [(1, 0x80000000005FFFFF)] }, res := [(8, 0)] }, 1, ?_⟩,
    ⟨strand fun st => { inRegion st with regs := regs [(1, 8)] }, 1, ?_⟩, ⟨strand fun st => { st with regs := regs [(1, 65535)] }, 1, ?_⟩,
    { launched { one with w := 2 } id with a := { (launched one id).a with st := { lone.a.st with regs := regs [(1, 0x00010080005FFFF8)] } } }, 1, 8, ?_⟩ <;>
    decide +kernel

theorem witness_AddressesAreChecked :
    (∃ (s : State) (a : Reg), s.pfxSpace < 2 ∧ s.a.st.rgn = none ∧ 6291456 ≤ (s.rdS a).toNat % 2 ^ 23) ∧
    (∃ (s : State) (a : Reg), s.pfxSpace < 2 ∧ s.a.st.rgn = none ∧ s.rdS a &&& 0x7C00007FFF800000 ≠ 0) ∧
    (∃ (s : State) (a : Reg), s.pfxSpace < 2 ∧ s.a.st.rgn = none ∧ (s.rdS a).getLsbD 39 = false ∧ s.rdS a &&& 0x03FFFF0000000000 ≠ 0) ∧
    (∃ (s : State) (a : Reg), s.pfxSpace < 2 ∧ s.a.st.rgn = none ∧ (s.rdS a).toNat % 2 ^ 23 = 6291448 ∧ s.rdS a &&& 0x7C00007FFF800000 = 0 ∧
      (s.rdS a).getLsbD 39 = true ∧ s.inRect ((s.rdS a).extractLsb' 48 10).toNat ((s.rdS a).extractLsb' 40 8).toNat = false) ∧
    (∃ (s : State) (b : Reg), (s.rdS b).toNat = 0) ∧ (∃ (s : State) (b : Reg), (s.rdS b).toNat = 65536) ∧
    (∃ (s : State) (h : HReg), s.a.st.rgn = none ∧ (s.rdH h).getLsbD 63 = false) ∧
    (∃ (s : State) (h : HReg) (a b : Reg), s.a.st.rgn = none ∧ (s.rdH h).getLsbD 63 = true ∧ (s.rdH h).getLsbD 62 = false ∧ (s.rdS a).toInt = 65536 ∧
      (s.rdS b).toInt = -1) ∧
    (∃ (s : State) (h : HReg), s.a.st.rgn = none ∧ s.pfxSpace = 0 ∧ (s.rdH h).getLsbD 63 = true ∧ (s.rdH h).getLsbD 59 = false) ∧
    (∃ (s : State) (h : HReg), s.a.st.rgn = none ∧ (s.rdH h).getLsbD 63 = true ∧ (s.rdH h).getLsbD 59 = true ∧ s.pfxSpace ≠ 0 ∧
      s.pfxSpace ≠ ((s.rdH h).extractLsb' 60 2).toNat) ∧
    ∃ (s : State) (h : HReg), s.a.st.rgn = none ∧ s.pfxSpace = 0 ∧ (s.rdH h).getLsbD 63 = true ∧ (s.rdH h).getLsbD 59 = true ∧ (s.rdH h).extractLsb' 60 2 = 3#2 := by
  refine ⟨⟨strand fun st => { st with regs := regs [(1, 6291456)] }, 1, ?_⟩, ⟨strand fun st => { st with regs := regs [(1, 1 <<< 23)] }, 1, ?_⟩,
    ⟨strand fun st => { st with regs := regs [(1, 1 <<< 40)] }, 1, ?_⟩, ⟨strand fun st => { st with regs := regs [(1, 0x00010080005FFFF8)] }, 1, ?_⟩,
    ⟨lone, 1, ?_⟩, ⟨strand fun st => { st with regs := regs [(1, 65536)] }, 1, ?_⟩, ⟨lone, 1, ?_⟩,
    ⟨strand fun st => { st with regs := regs [(1, 65536), (2, -1)], hs := handles [(1, 0xA000000000010000)] }, 1, 1, 2, ?_⟩,
    ⟨strand fun st => { st with hs := handles [(1, 0xA000000000010000)] }, 1, ?_⟩,
    ⟨strand fun st => { st with hs := handles [(1, 0xA800000000010000)], pfx := some ⟨false, 0, false, 0, 3, false, 0⟩ }, 1, ?_⟩,
    strand fun st => { st with hs := handles [(1, 0xB800000000010000)] }, 1, ?_⟩ <;> decide +kernel

theorem witness_HandlesAndFences :
    (∃ (s : State) (a : Reg) (h : HReg), (s.rdH h).getLsbD 63 = true ∧ (s.rdH h).getLsbD 62 = false ∧ (s.rdS a).toInt = 65535 ∧ s.pfxSpace = 0 ∧
      s.a.st.rgn = none ∧ (s.rdH h).getLsbD 59 = true ∧ ((s.rdH h).extractLsb' 60 2 == 3#2) = false) ∧
    (∃ s : State, s.a.st.rgn = none ∧ s.a.st.walked = none) ∧ (∃ (s : State) (v : Word), s.a.st.rgn = none ∧ s.a.st.walked = some (some v)) ∧
    (∃ s : State, s.a.st.rgn = none ∧ s.a.st.walked = some none) ∧ (∃ (s : State) (m : BitVec 16), s.fenced m s.ev.seq = [] ∧ s.a.st.ext = []) ∧
    (∃ (s : State) (m : BitVec 16), s.a.st.rgn = none ∧ m ≠ 0 ∧ s.fenced m s.ev.seq ≠ []) ∧
    (∃ (s : State) (m : BitVec 16), s.a.st.rgn = none ∧ m ≠ 0 ∧ s.fenced m s.ev.seq = [] ∧ ¬∀ x ∈ s.a.st.ext, m.getLsbD x.2.cls.toNat = false) ∧
    ∃ (s : State) (m : BitVec 16) (q : Nat), s.fenced m q = [] ∧ ∀ x ∈ s.a.st.ext, m.getLsbD x.2.cls.toNat = false := by
  refine ⟨⟨strand fun st => { st with regs := regs [(1, 65535)], hs := handles [(1, 0xA800000000010000)] }, 1, 1, ?_⟩, ⟨lone, ?_⟩,
    ⟨strand fun st => { st with walked := some (some 5) }, 5, ?_⟩, ⟨strand fun st => { st with walked := some none }, ?_⟩, ⟨lone, 0xFFFF, ?_⟩,
    ⟨{ lone with ev := { lone.ev with seq := 1 }, agenda := [⟨8, 6, 0, 0, .none, .gmAccess, .gacc ⟨false, 0, .read, .s 1, 0, 0, 0, 0, 0⟩⟩] }, 1, ?_⟩,
    ⟨strand fun st => { st with ext := [(1000, ⟨.read, 8, .s 1, 0, 0, 0, 0⟩)] }, 1, ?_⟩,
    lone, 0xFFFF, 1, ?_⟩ <;> decide +kernel

theorem witness_StationsAndBarriers :
    (∃ s : State, s.a.burst = [] ∧ ∀ e ∈ s.agenda, e.i = .scalarStationAccess → e.atoll = s.a.n → s.ev.seq ≤ e.seq) ∧ (∃ (s : State) (ph : Bool), barDone (Mem.word s.a.sp 8) ph = false) ∧
    (∃ (s : State) (ph : Bool), barDone (Mem.word s.a.sp 8) ph = true) ∧
    (∃ (s : State) (x : Acc), x.op = .arrive false false 0 ∧ s.a.burst = [] ∧ s.remoteWait x = none ∧ s.releaseWait x = none ∧
      (Mem.word s.a.sp x.byte).getLsbD 62 = true) ∧
    (∃ (s : State) (x : Acc), x.op = .arrive true true 255 ∧ s.a.burst = [] ∧ s.remoteWait x = none ∧ s.releaseWait x = none ∧
      (Mem.word s.a.sp x.byte).getLsbD 62 = false ∧ true ≠ (Mem.word s.a.sp x.byte).getLsbD 63) ∧
    (∃ (s : State) (x : Acc), x.op = .arrive true false 0 ∧ s.a.burst = [] ∧ s.remoteWait x = none ∧ s.releaseWait x = none ∧
      (Mem.word s.a.sp x.byte).getLsbD 62 = false ∧ true ≠ (Mem.word s.a.sp x.byte).getLsbD 63) ∧
    (∃ (s : State) (x : Acc), x.op = .arrive false false 0 ∧ s.a.burst = [] ∧ s.remoteWait x = none ∧ s.releaseWait x = none ∧
      (Mem.word s.a.sp x.byte).getLsbD 62 = false ∧ (Mem.word s.a.sp x.byte).getLsbD 63 = false ∧
      (Mem.word s.a.sp x.byte).extractLsb' 16 16 + 1 = (Mem.word s.a.sp x.byte).extractLsb' 32 16) ∧
    ∃ (s : State) (x : Acc), x.op = .arrive false true 0 ∧ s.a.burst = [] ∧ s.remoteWait x = none ∧ s.releaseWait x = none ∧
      (Mem.word s.a.sp x.byte).getLsbD 62 = false ∧ (Mem.word s.a.sp x.byte).getLsbD 63 = false ∧
      (Mem.word s.a.sp x.byte).extractLsb' 16 16 + 1 ≠ (Mem.word s.a.sp x.byte).extractLsb' 32 16 := by
  let b := fun (w : Word) => atollBy fun a => { a with sp := Mem.setWord [] 8 w }
  refine ⟨⟨lone, ?_⟩, ⟨lone, false, ?_⟩, ⟨lone, true, ?_⟩, ⟨b (1 <<< 62), ⟨.arrive false false 0, 8, .none, 0, 0, 0, 0⟩, ?_⟩,
    ⟨b (1 <<< 32), ⟨.arrive true true 255, 8, .none, 0, 0, 0, 0⟩, ?_⟩, ⟨b (1 <<< 32), ⟨.arrive true false 0, 8, .none, 0, 0, 0, 0⟩, ?_⟩,
    ⟨b (1 <<< 32), ⟨.arrive false false 0, 8, .none, 0, 0, 0, 0⟩, ?_⟩, b (2 <<< 32), ⟨.arrive false true 0, 8, .none, 0, 0, 0, 0⟩, ?_⟩ <;> decide +kernel

theorem witness_AccessesEnd :
    (∃ (chg : Nat) (d : Dst), chg ≠ 0 ∧ d ≠ .none) ∧ (∃ (s : State) (b : Nat) (ph : Bool), s.a.st.wait = .bwait b ph ∧ s.a.st.more = []) ∧
    (∃ (s : State) (b : Nat) (ph : Bool) (x : Wait) (r : List Wait), s.a.st.wait = .bwait b ph ∧ s.a.st.more = x :: r) ∧
    (∃ s : State, s.ev.atoll = s.a.n) ∧ (∃ s : State, s.a.st.wait = .outcome ∧ s.a.st.more = []) ∧
    (∃ (s : State) (x : Wait) (r : List Wait), s.a.st.wait = .outcome ∧ s.a.st.more = x :: r) ∧ (∃ s : State, s.ev.phase = 6) ∧
    ∀ op ∈ [AccOp.write 5, .read, .amo .add 5, .amo (.cas 0) 5, .amo (.cas 1) 5], ∃ (s : State) (x : Acc), x.op = op ∧ s.ev.phase ≠ 6 ∧ x.src < 1000 ∧
      x.src ≠ s.a.n ∧ s.remoteWait x = none ∧ 0 < x.chg ∧ Mem.word s.a.sp x.byte = 0 := by
  refine ⟨⟨1, .s 1, ?_⟩, ⟨strand fun st => { st with wait := .bwait 8 true }, 8, true, ?_⟩,
    ⟨strand fun st => { st with wait := .bwait 8 true, more := [.outcome] }, 8, true, .outcome, [], ?_⟩, ⟨lone, ?_⟩,
    ⟨strand fun st => { st with wait := .outcome }, ?_⟩, ⟨strand fun st => { st with wait := .outcome, more := [.reply] }, .reply, [], ?_⟩,
    ⟨lone, ?_⟩, fun op ho => ⟨{ lone with ev := { lone.ev with phase := 1 } }, ⟨op, 8, .none, 1, 0, 1, 0⟩, rfl, ?_⟩⟩
  case refine_8 => revert op; decide +kernel
  all_goals decide +kernel

theorem witness_VectorIntegerElements :
    (∃ (k : BitVec 2) (lg : BitVec 4) (dist : BitVec 6), k = 1 ∧ lg = 3 ∧ dist = 7) ∧ (∃ (k : BitVec 2) (dist : BitVec 6), k = 2 ∧ dist = 63) ∧
    ∃ (et : BitVec 4) (j : Nat), et = 13 ∧ j = 15 ∧ j < 1024 / etWidth et := by
  refine ⟨⟨1, 3, 7, ?_⟩, ⟨2, 63, ?_⟩, 13, 15, ?_⟩ <;> decide +kernel

theorem witness_VectorAccumulatesAndWrites :
    (∃ (s : State) (a : VReg), (∀ e ∈ s.agenda.filter (fun e => e.atoll == s.a.n && e.dom == .vx && decide (e.tick ≤ s.a.edge 1 s.now)),
      ∀ l c f, e.arg ≠ .puts l c f) ∧ SMap.get s.a.v a.toNat = 0) ∧
    (∃ (s : State) (a : VReg), s.agenda = [] ∧ SMap.get s.a.v a.toNat ≠ 0) ∧
    (∃ (s : State) (a : VReg) (e : Ev), (s.agenda.filter fun e => e.atoll == s.a.n && e.dom == .vx && decide (e.tick ≤ s.a.edge 1 s.now)) = [e] ∧
      e.arg = .puts [.xor a.toNat 1] 0 none ∧ SMap.get s.a.v a.toNat = 0) ∧ (∃ d e : Nat, d ≠ e) ∧
    ∃ (w j : Nat), w = 32 ∧ j = 31 ∧ j < 1024 / w := by
  refine ⟨⟨lone, 2047, ?_, ?_⟩, ⟨atollBy fun a => { a with v := SMap.set [] 2047 1 }, 2047, ?_⟩,
    ⟨{ lone with now := 1, agenda := [⟨4, 2, 0, 0, .vx, .vectorResultLand, .puts [.xor 7 1] 0 none⟩] }, 7,
      ⟨4, 2, 0, 0, .vx, .vectorResultLand, .puts [.xor 7 1] 0 none⟩, ?_⟩, ⟨0, 2047, ?_⟩, 32, 31, ?_⟩
  · intro e he; cases he
  all_goals decide +kernel

theorem witness_VectorFloatElements :
    (∃ x : BitVec 4, x = 0) ∧ (∃ x : BitVec 4, x = 5) ∧ (∃ o : VC, etInt o.x = true ∧ etWidth o.x = 64) := by
  refine ⟨⟨0, rfl⟩, ⟨5, rfl⟩, ⟨1, 2, 0, 13, 13, 4, 0, 0⟩, ?_⟩
  decide +kernel

theorem witness_VectorConversions :
    (∃ o : VC, etFloat o.x = true) ∧ (∃ o : VC, etFloat o.x = false ∧ o.x ≠ 3) ∧ (∃ o : VC, o.x = 3) ∧ (∃ o : VC, o.x = 6) ∧
    (∃ (et : BitVec 4) (c : Nat), et = 13 ∧ et.toNat ≤ 13 ∧ c < 2 ^ etWidth et ∧ (valOf et c).isNan = false ∧ digitBad et c = false) ∧
    ∃ (et : BitVec 4) (c : Nat), et = 11 ∧ et.toNat ≤ 13 ∧ c < 2 ^ etWidth et ∧ (valOf et c).isNan = false ∧ digitBad et c = false := by
  refine ⟨⟨⟨1, 2, 3, 4, 8, 1, 0, 0⟩, ?_⟩, ⟨⟨1, 2, 3, 8, 4, 1, 0, 0⟩, ?_⟩, ⟨⟨1, 2, 3, 3, 6, 0, 0, 0⟩, ?_⟩, ⟨⟨1, 2, 3, 6, 0, 0, 0, 0⟩, ?_⟩,
    ⟨13, 2 ^ 64 - 1, ?_⟩, 11, 1, ?_⟩ <;> decide +kernel

theorem witness_VectorMovesAndMasks :
    (∃ s : State, s.a.edge 1 s.now = s.now) ∧ ∃ s : State, s.a.edge 1 s.now ≠ s.now := by
  refine ⟨⟨lone, ?_⟩, { lone with now := 1 }, ?_⟩ <;> decide +kernel

theorem witness_VectorRowsMove :
    (∃ (s : State) (q : Reg) (imm : BitVec 17), LocalAddr (s.rdS q + BitVec.ofNat 64 (128 * imm.toNat)) ∧ s.pfxSpace < 2 ∧ s.a.st.rgn = none ∧
      s.a.edge 1 s.now = s.now) ∧
    (∃ (s : State) (q : Reg) (imm : BitVec 17), LocalAddr (s.rdS q + BitVec.ofNat 64 (128 * imm.toNat)) ∧ s.pfxSpace < 2 ∧ s.a.res = [] ∧
      s.a.edge 1 s.now ≠ s.now) ∧
    (∃ row : Nat, row = 65535 ∧ row < 2 ^ 16) ∧
    (∃ (s : State) (et : BitVec 4) (j id : Nat), 4 ≤ etWidth et ∧ j < 1024 / etWidth et ∧
      ∀ k < 8, s.a.latch.find? (fun l => l.1 == id + k) = some (id + k, BitVec.ofNat 1024 k)) ∧
    ∃ s : State, s.a.burst = [] := by
  unfold LocalAddr
  refine ⟨⟨lone, 1, 49151, ?_⟩, ⟨{ strand inRegion with now := 1 }, 1, 0, ?_⟩, ⟨65535, ?_⟩,
    ⟨atollBy fun a => { a with latch := (List.range 8).map fun k => (8 + k, BitVec.ofNat 1024 k) }, 9, 255, 8, ?_⟩, lone, ?_⟩ <;> decide +kernel

/-- A grotto of 10 rows from row 100 on, 2 of them a spill window, with this depth. -/
def grotto (depth : Nat) : State := strand fun st => { st with grBase := 0x0000000200000064, grRows := BitVec.ofNat 64 (depth * 2 ^ 32 + 10) }

theorem witness_HistoryMoves :
    (∃ s : State, s.pfxSpace < 2 ∧ s.a.st.rgn = none ∧ ¬((s.a.st.grBase.extractLsb' 32 16).toNat < (s.a.st.grRows.extractLsb' 0 16).toNat)) ∧
    (∀ depth ∈ [2 ^ 32 - 1, 0, 1, 8, 7], (grotto depth).pfxSpace < 2 ∧ (grotto depth).a.st.rgn = none ∧
      ((grotto depth).a.st.grBase.extractLsb' 32 16).toNat = 2 ∧ ((grotto depth).a.st.grRows.extractLsb' 0 16).toNat = 10 ∧
      ((grotto depth).a.st.grBase.extractLsb' 0 16).toNat + 10 ≤ 49152 ∧ ((grotto depth).a.st.grRows.extractLsb' 32 32).toNat = depth ∧
      Mem.row (grotto depth).a.sp (100 + 2 + depth % 8) = 0 ∧ SMap.get (grotto depth).a.v 5 = 0) ∧
    (∃ s : State, SMap.get s.a.v 5 ≠ 0 ∧ Mem.row s.a.sp 109 ≠ 0) ∧
    (∃ s : State, (s.a.st.grBase.extractLsb' 32 16).toNat = 2 ∧ (s.a.st.grRows.extractLsb' 0 16).toNat = 10 ∧
      (s.a.st.grRows.extractLsb' 32 32).toNat = 9 ∧ SMap.get s.a.v 5 = 0 ∧ s.pfxSpace = 0 ∧ s.a.st.rgn = none ∧ s.a.st.hovf.getLsbD 63 = true ∧
      s.a.st.hovf.getLsbD 62 = false) ∧
    (∃ (s : State) (row : Nat), row = 49151 ∧ s.a.edge 4 s.now = s.now ∧ s.a.burst = [] ∧ (s.now, 1000 + row % 8) ∉ s.a.res ∧
      (s.now, 1000 + row % 8 + 8) ∉ s.a.res ∧ (∀ e ∈ s.agenda, e.ofRow s.a.n row = false) ∧ s.a.st.wait = .history ∧ s.a.st.more = []) ∧
    (∃ (s : State) (src : Nat), src = 7 ∧ s.dev.dead src = false ∧ s.served src s.a.slot true = true ∧ s.served src s.a.slot false = true ∧
      (src, true) ∉ s.dev.errs ∧ s.dev.bad src = false) ∧
    ∃ (s : State) (src : Nat), src = 7 ∧ s.served src s.a.slot false = true ∧ (src, true) ∉ s.dev.errs ∧ s.dev.bad src = true ∧ s.a.st.dflag = none := by
  refine ⟨⟨lone, ?_⟩, ?_, ⟨atollBy fun a => { a with v := SMap.set [] 5 1, sp := Mem.setRow [] 109 1 }, ?_⟩,
    ⟨strand fun st => { (grotto 9).a.st with hovf := 0xA800000000010000 }, ?_⟩, ⟨strand fun st => { st with wait := .history }, 49151, ?_⟩, ⟨lone, 7, ?_⟩,
    { lone with dev := { lone.dev with poison := [7] } }, 7, ?_⟩ <;> decide +kernel

theorem witness_RingsAndEngineRegisters :
    (∃ (s : State) (x : Ring) (a : Reg), s.ev.arg = .none ∧ (s.rdS a).toNat < 2 ^ 16 ∧
      ((s.ring x).extractLsb' 0 16).toNat + (s.rdS a).toNat + s.a.writeClaimed x = ((s.ring x).extractLsb' 32 16).toNat) ∧
    (∃ (s : State) (x : Ring) (a : Reg), s.ev.arg = .none ∧ (s.rdS a).toNat < 2 ^ 16 ∧
      ¬(((s.ring x).extractLsb' 0 16).toNat + (s.rdS a).toNat + s.a.writeClaimed x ≤ ((s.ring x).extractLsb' 32 16).toNat)) ∧
    (∃ s : State, s.a.st.rgn = none) ∧ (∃ s : State, s.a.st.rgn.isSome ∧ s.a.fq.length = 15) ∧ (∃ s : State, s.a.st.rgn.isSome ∧ 16 ≤ s.a.fq.length) ∧
    (∃ (s : State) (a : Reg), s.a.st.rgn = none ∧ (s.rdS a).getLsbD 39 = true) ∧
    (∃ (s : State) (a b : Reg), s.a.st.rgn = none ∧ (s.rdS a).getLsbD 39 = false ∧ (s.rdS b).toNat % 8 = 0 ∧
      49152 < ((s.rdS a).extractLsb' 7 16).toNat + (s.rdS b).toNat) ∧
    (∃ (s : State) (a b : Reg), s.a.st.rgn = none ∧ (s.rdS a).getLsbD 39 = false ∧ (s.rdS b).toNat ≠ 0 ∧ (s.rdS b).toNat % 8 = 0 ∧
      ((s.rdS a).extractLsb' 7 16).toNat + (s.rdS b).toNat = 49152) ∧
    (∃ s : State, s.privileged = false) ∧ (∃ s : State, s.privileged = true ∧ s.a.st.rgn.isSome) ∧
    (∃ (s : State) (a : Reg), s.privileged = true ∧ s.a.st.rgn = none ∧ ((s.rdS a).extractLsb' 32 16).toNat = 8 ∧ ((s.rdS a).extractLsb' 48 16).toNat + 8 ≤ 49152 ∧
      ((s.rdS a).extractLsb' 16 16).toNat < 8 ∧ ((s.rdS a).extractLsb' 0 16).toNat ≤ 8) ∧
    (∃ (s : State) (a : Reg), s.privileged = true ∧ s.a.st.rgn = none ∧ ((s.rdS a).extractLsb' 32 16).toNat % 8 ≠ 0) ∧
    (∃ (s : State) (x : Ring) (v : Word), ((s.ring x).extractLsb' 0 16).toNat + v.toNat < 2 ^ 16) ∧
    (∃ s : State, s.a.st.grRows.extractLsb' 32 32 ≠ 0) := by
  let r := fun (f : Strand → Strand) (l : List (Fin 64 × Word)) =>
    atollBy fun a => { a with st := f { a.st with regs := regs l }, rings := a.rings.set 3 0x0064001000000008 }
  refine ⟨⟨r id [(1, 8)], 3, 1, ?_⟩, ⟨r id [(1, 9)], 3, 1, ?_⟩, ⟨lone, ?_⟩, ⟨atollBy fun a => { a with st := inRegion a.st, fq := List.replicate 15 (none, 0) }, ?_⟩,
    ⟨atollBy fun a => { a with st := inRegion a.st, fq := List.replicate 16 (none, 0) }, ?_⟩, ⟨r id [(1, 1 <<< 39)], 1, ?_⟩,
    ⟨r id [(1, 49152 * 128), (2, 8)], 1, 2, ?_⟩, ⟨r id [(1, 49144 * 128), (2, 8)], 1, 2, ?_⟩, ⟨lone, ?_⟩, ⟨strand fun st => { inRegion st with bpc := 2 ^ 47 }, ?_⟩,
    ⟨r (fun st => { st with bpc := 2 ^ 47 }) [(1, 0x0064000800070008)], 1, ?_⟩, ⟨r (fun st => { st with bpc := 2 ^ 47 }) [(1, 0x0064000700000000)], 1, ?_⟩,
    ⟨lone, 3, 65535, ?_⟩, grotto 1, ?_⟩ <;> decide +kernel

/-- A format word of R252: INT8 operands, INT64 accumulators, Kl = 64, Nl = 16, Ml = 1. -/
def word8 : Word := 0x000D000000000000 ||| 63 <<< 28 ||| 15 <<< 21

/-- An atoll with that word in FQ, weights of that shape and 16 rows published on ring 3. -/
def matrixBy (f : Atoll → Atoll) : State :=
  atollBy fun a => f { a with fq := [(none, word8)], shape := some word8, rings := a.rings.set 3 0x0064001000000010 }

/-- What the checks of a product look at, for the state and a command of ring 3 with address register 1. -/
def product (k : MKind) (s : State) (w : Word) : Prop :=
  s.ev.arg = .none ∧ s.a.fqNext = some w ∧ fLegal w = true ∧ s.a.shape.map shapeOf = some (shapeOf w) ∧
    ¬((k = .macr ∨ k = .masr) ∧ fFloating w = true ∨ k = .fma ∧ fFloating w = false) ∧ (s.rdS 1).getLsbD 39 = false ∧
    ((s.rdS 1).extractLsb' 7 16).toNat + accRows w * fMl w ≤ 49152 ∧ actRows w * fMl w ≤ s.unclaimed 3 ∧ s.a.div.mx = s.a.div.ring

theorem witness_MatrixCommandsStart :
    (∃ s : State, Punctual s 2 s.a.mbusy none 0 ∧ s.jobLane (productJob .macr ⟨3, 1, none, 0⟩ s) none = none ∧ product .macr s word8) ∧
    (∃ s : State, Punctual s 2 s.a.mbusy (some 5) 20 ∧ s.jobLane (productJob .mul ⟨3, 1, some 5, 0⟩ s) (some 5) = none ∧ product .mul s word8) ∧
    (∃ (s : State) (w : Word), Punctual s 2 s.a.mbusy none 0 ∧ s.jobLane (productJob .fma ⟨3, 1, none, 0⟩ s) none = none ∧ product .fma s w) ∧
    (∃ s : State, s.ev.arg = .none ∧ Punctual s 2 s.a.mbusy none 0 ∧ s.jobLane (mwldJob ⟨3, none, 0⟩ s) none = none ∧ s.a.fqNext = some word8 ∧
      colRows word8 * fNl word8 ≤ s.unclaimed 3 ∧ s.a.div.mx = s.a.div.ring) ∧
    (∃ s : State, s.ev.arg = .none ∧ s.a.st.rgn = none) ∧ (∃ (s : State) (c : BitVec 10), s.a.st.rgn.isSome ∧ c.toNat < s.regionCycle) ∧
    ∃ (s : State) (c : BitVec 10), s.a.st.rgn.isSome ∧ s.regionCycle ≤ c.toNat ∧
      s.a.edge 2 (s.a.edge 0 s.now + (c.toNat - s.regionCycle) * s.a.div.core) < s.a.mbusy ∧
      s.a.edge 3 (s.a.edge 0 s.now + (c.toNat - s.regionCycle) * s.a.div.core) < s.rtFree .clr := by
  unfold product Punctual
  let f : Word := 0x0446000000000000 ||| 63 <<< 28 ||| 15 <<< 21
  refine ⟨⟨matrixBy id, ?_⟩, ⟨matrixBy fun a => { a with st := inRegion a.st }, ?_⟩, ⟨matrixBy fun a => { a with fq := [(none, f)], shape := some f }, f, ?_⟩,
    ⟨matrixBy fun a => { a with rings := a.rings.set 3 0x0064002000000020 }, ?_⟩, ⟨lone, ?_⟩, ⟨strand fun st => { inRegion st with atc := 6 }, 5, ?_⟩,
    { atollBy (fun a => { a with st := inRegion a.st, mbusy := 100,
                                 rjobs := [⟨1, .clr, 0, 1, 1, 1, 0, 0, 0, 0, 0, 0, 0, 0, 0, 1, [], [], [], [], 0, none⟩] }) with
      agenda := [⟨100, 3, 1, 0, .rt, .rotatorRetire, .n3 1 0 0⟩] }, 5, ?_⟩ <;> decide +kernel

/-- A matrix command in flight. -/
def mjob (k : MKind) : MJob := ⟨7, k, 0, word8, 200, 3, 0, 2, 1, [], [], [], [], 0, none⟩

theorem witness_MatrixStepsRun :
    (∃ (s : State) (j : MJob), s.a.mjob 7 = some j ∧ j.kind = .clr) ∧
    (∃ (s : State) (j : MJob), s.a.mjob 7 = some j ∧ j.kind = .wld ∧ ((j.acts.filter fun x => x.1 == 5).map fun x => x.2).length = colRows j.word ∧ fSW j.word ≤ 1) ∧
    (∃ (s : State) (j : MJob) (rows : List Row), s.a.mjob 7 = some j ∧ s.rowsHeld [200] true = false ∧ s.rowsHeld [200] false = false ∧
      s.rowsHeld [100, 101] false = false ∧ (j.outs.find? fun x => x.1 == 0) = some (0, rows) ∧ rows.length = accRows j.word) ∧
    ∃ (j : MJob) (c : Nat), j.kind = .mul ∧ fAT j.word = 0#4 ∧ fWT j.word = 0#4 ∧ fCT j.word = 13#4 ∧ fSA j.word = 0 ∧ fSW j.word = 0 ∧
      c = 15 ∧ c < 16 * accRows j.word := by
  refine ⟨⟨atollBy fun a => { a with mjobs := [mjob .clr] }, mjob .clr, ?_⟩,
    ⟨atollBy fun a => { a with mjobs := [{ mjob .wld with acts := [(5, 1), (5, 2)] }] }, { mjob .wld with acts := [(5, 1), (5, 2)] }, ?_⟩,
    ⟨atollBy fun a => { a with mjobs := [{ mjob .macr with outs := [(0, [9])] }] }, { mjob .macr with outs := [(0, [9])] }, [9], ?_⟩, mjob .mul, 15, ?_⟩ <;>
    decide +kernel

theorem witness_RotatorCommandsStart :
    (∃ (s : State) (k : RKind), s.ev.arg = .none ∧ k = .qr ∧ Punctual s 3 (s.rtFree k) none 0 ∧ s.a.div.rt = s.a.div.ring ∧ (s.rdS 2).toNat = 4096 ∧
      4096 ≤ s.unclaimed 1 ∧ rCnt (s.ring 2) + s.a.writeClaimed 2 + 4096 ≤ rSize (s.ring 2) ∧ s.a.st.rgn = none) ∧
    (∃ (s : State) (k : RKind), s.ev.arg = .none ∧ k = .invApl ∧ Punctual s 3 (s.rtFree k) none 0 ∧ s.a.div.rt = s.a.div.ring ∧ (s.rdS 2).toNat = 1 ∧
      (s.rdS 1).getLsbD 39 = false ∧ ((s.rdS 1).extractLsb' 7 16).toNat + 1 = 49152 ∧ 2 ≤ s.unclaimed 1 ∧ 1 ≤ s.unclaimed 2 ∧ s.a.st.rgn = none) ∧
    (∃ s : State, s.ev.arg = .none ∧ Punctual s 3 (s.rtFree .solve) none 0 ∧ s.a.div.rt ≠ s.a.div.ring) ∧
    (∃ s : State, s.ev.arg = .none ∧ Punctual s 3 (s.rtFree .solve) none 0 ∧ s.a.div.rt = s.a.div.ring ∧ (s.rdS 2).toNat = 48) ∧
    (∃ s : State, s.ev.arg = .none ∧ Punctual s 3 (s.rtFree .solve) none 0 ∧ s.a.div.rt = s.a.div.ring ∧ (s.rdS 2).toNat = 47 ∧
      (s.rdS 1).getLsbD 39 = false ∧ ((s.rdS 1).extractLsb' 7 16).toNat + 2 = 49152 ∧ s.a.st.rgn = none) ∧
    (∃ s : State, s.a.st.rgn.isSome ∧ trapsRtsolve ⟨1, 2, 3, 4, some 5, 0⟩ s = none ∧ trapsErtclr ⟨none⟩ s = none ∧ trapsRtwr ⟨1, 0, 3, none⟩ s = none) ∧
    ∃ s : State, s.a.st.rgn.isSome ∧ trapsRtqr ⟨1, 2, 2, 3, none, 0⟩ s = none := by
  unfold Punctual
  let r := fun (l : List (Fin 64 × Word)) => atollBy fun a =>
    { a with st := { a.st with regs := regs l }, rings := (a.rings.set 1 0x0000200000001FFF).set 2 0x2000200000000010 }
  refine ⟨⟨r [(2, 4096)], .qr, ?_⟩, ⟨r [(1, 49151 * 128), (2, 1)], .invApl, ?_⟩, ⟨atollBy fun a => { a with div := { a.div with rt := 8 } }, ?_⟩, ⟨r [(2, 48)], ?_⟩,
    ⟨r [(1, 49150 * 128), (2, 47)], ?_⟩, ⟨{ r [(2, 47)] with a := { (r [(2, 47)]).a with st := inRegion (r [(2, 47)]).a.st } }, ?_⟩,
    { r [(2, 4)] with a := { (r [(2, 4)]).a with st := inRegion (r [(2, 4)]).a.st } }, ?_⟩ <;> decide +kernel

/-- A rotator command in flight, of two blocks, from rings 1 and 2. -/
def rjob (k : RKind) : RJob := ⟨7, k, 0, 3, 4, 2, 200, 1, 1, 0, 2, 2, 0, 2, 0x118, 1, [], [], [], [], 0, none⟩

def rotating (j : RJob) : State := atollBy fun a => { a with rjobs := [j], rings := (a.rings.set 1 0x0064001000000010).set 2 0x00C8001000000010 }

theorem witness_RotatorStepsRun :
    (∀ k ∈ [RKind.qr, .apl], ∀ part ∈ [0, 1], ∃ (s : State) (j : RJob), s.a.rjob 7 = some j ∧ j.kind = k ∧ j.kind.streams ∧ s.rowsHeld [100] false = false ∧
      s.rowsHeld [200] false = false ∧ (part = 0 ∧ j.kind ≠ .qr ∨ ¬(part = 0 ∧ j.kind ≠ .qr))) ∧
    (∃ (j : RJob) (v : Visit) (b : RBlk), j.kind.streams ∧ v.i = 31 ∧ v.i < b.ang.length ∧ j.kind = .qr ∧ v.col = v.i) ∧
    (∃ (j : RJob), j.kind.streams ∧ j.delays = [] ∧ 0 ≤ j.start ∧ j.due 4 1000 ≠ []) ∧
    (∃ (s : State) (j : RJob) (b : RBlk), s.a.rjob 7 = some j ∧ j.kind = .qr ∧ (j.blks.find? fun x => x.k == 0) = some b ∧ s.rowsHeld [200] true = false ∧
      (blockRows j b).length = [200].length ∧ [200].Nodup) ∧
    (∃ (s : State) (j : RJob), s.a.rjob 7 = some j ∧ j.kind = .invQr ∧ s.rowsHeld [201] true = false ∧
      ((j.got.filter fun r => r.1 == 1).map fun r => r.2).length = 1) ∧
    (∃ (s : State) (j : RJob), s.a.rjob 7 = some j ∧ j.kind = .gainSet) ∧ (∃ (s : State) (j : RJob), s.a.rjob 7 = some j ∧ j.kind = .clr) ∧
    (∃ (s : State) (j : RJob), s.a.rjob 7 = some j ∧ j.kind = .solve ∧ j.outs = [(0, [1, 2])] ∧ s.rowsHeld [200, 201] true = false) ∧
    (∃ (s : State) (j : RJob), s.a.rjob 7 = some j ∧ j.kind = .rd ∧ s.rowsHeld [200, 201] true = false) ∧
    (∃ (s : State) (j : RJob), s.a.rjob 7 = some j ∧ j.kind = .wr ∧ s.rowsHeld [200, 201] false = false ∧
      (j.got.filter fun r => r.1 == 0).map (fun r => r.2) = [3, 4]) ∧
    ∃ (q : Nat) (a b : Int), a = -2 ^ 47 ∧ b = 2 ^ 47 - 1 ∧ q = 3 ∧ -2 ^ 47 ≤ a ∧ a < 2 ^ 47 ∧ -2 ^ 47 ≤ b ∧ b < 2 ^ 47 ∧ q < 4 := by
  let b : RBlk := ⟨0, List.replicate 32 0, List.replicate 32 0, []⟩
  refine ⟨fun k hk p hp => ⟨rotating (rjob k), rjob k, ?_⟩, ⟨rjob .qr, ⟨0, 7, 0, 31, 31⟩, b, by decide +kernel⟩, ⟨{ rjob .qr with blks := [b] }, by decide +kernel⟩,
    ⟨rotating { rjob .qr with blks := [b] }, { rjob .qr with blks := [b] }, b, by decide +kernel⟩,
    ⟨rotating { rjob .invQr with got := [(1, 1)] }, { rjob .invQr with got := [(1, 1)] }, by decide +kernel⟩, ⟨rotating (rjob .gainSet), rjob .gainSet, by decide +kernel⟩,
    ⟨rotating (rjob .clr), rjob .clr, by decide +kernel⟩,
    ⟨rotating { rjob .solve with outs := [(0, [1, 2])] }, { rjob .solve with outs := [(0, [1, 2])] }, by decide +kernel⟩,
    ⟨rotating (rjob .rd), rjob .rd, by decide +kernel⟩,
    ⟨rotating { rjob .wr with got := [(0, 3), (0, 4)] }, { rjob .wr with got := [(0, 3), (0, 4)] }, by decide +kernel⟩,
    3, -2 ^ 47, 2 ^ 47 - 1, by decide +kernel⟩
  revert k p; decide +kernel

/-- An atoll whose scalar registers hold the operands of a copy: destination, source, count and barrier address. -/
def copying (d s n b : Word) : State := strand fun st => { st with regs := regs [(1, d), (2, s), (3, n), (4, b)] }

def cop : COp := ⟨0, 0, 1, 0, 0, 2, 3, 4⟩

theorem witness_CopyCommandsAreQueued :
    (∃ s : State, s.ev.arg = .none ∧ (insCpy cop s).n.toNat = 65536) ∧
    (∃ s : State, (insPack ⟨cop, 0⟩ s).n.toNat % 8 ≠ 0 ∧ (insPack ⟨cop, 0⟩ s).kind = .pack) ∧
    (∃ s : State, (insCpyv ⟨cop, 6, 9⟩ s).kind = .cpyv ∧
      (insCpyv ⟨cop, 6, 9⟩ s).n.toNat * etWidth (insCpyv ⟨cop, 6, 9⟩ s).y % etWidth (insCpyv ⟨cop, 6, 9⟩ s).x ≠ 0) ∧
    (∃ (s : State) (w : Trap), s.ev.arg = .none ∧ trapsCpy cop s = some w) ∧
    (∃ s : State, s.ev.arg = .none ∧ trapsCpy cop s = none ∧ trapsCpyz ⟨0, 0, 1, 3, 4⟩ s = none) ∧
    (∃ s : State, (s.rdS 3).toNat < 65536 ∧ LocalAddr (s.rdS 1) ∧ LocalAddr (s.rdS 2) ∧ LocalAddr (s.rdS 4) ∧
      ((s.rdS 1).extractLsb' 7 16).toNat + (s.rdS 3).toNat = 49153) ∧
    (∃ s : State, (s.rdS 3).toNat < 65536 ∧ LocalAddr (s.rdS 1) ∧ LocalAddr (s.rdS 2) ∧ LocalAddr (s.rdS 4) ∧
      ((s.rdS 1).extractLsb' 7 16).toNat + (s.rdS 3).toNat ≤ 49152 ∧ ((s.rdS 2).extractLsb' 7 16).toNat + (s.rdS 3).toNat = 49153) ∧
    (∃ s : State, (s.rdS 3).toNat < 65536 ∧ LocalAddr (s.rdS 1) ∧ LocalAddr (s.rdS 2) ∧ LocalAddr (s.rdS 4) ∧ (s.rdS 3).toNat = 5 ∧
      ((s.rdS 1).extractLsb' 7 16).toNat = 10 ∧ ((s.rdS 2).extractLsb' 7 16).toNat = 14) ∧
    ∃ s : State, (s.rdS 3).toNat < 65536 ∧ LocalAddr (s.rdS 1) ∧ LocalAddr (s.rdS 2) ∧ LocalAddr (s.rdS 4) ∧ (s.rdS 3).toNat = 5 ∧
      ((s.rdS 1).extractLsb' 7 16).toNat = 10 ∧ ((s.rdS 2).extractLsb' 7 16).toNat = 15 := by
  unfold LocalAddr
  refine ⟨⟨copying 0 0 65536 0, ?_⟩, ⟨copying 0 0 9 0, ?_⟩, ⟨copying 0 0 9 0, ?_⟩, ⟨copying (1 <<< 23) 0 8 0, ⟨15, 0x10⟩, ?_⟩, ⟨copying 0 1280 5 8, ?_⟩,
    ⟨copying (49151 * 128) 0 2 0, ?_⟩, ⟨copying 0 (49151 * 128) 2 0, ?_⟩, ⟨copying 1280 (14 * 128) 5 0, ?_⟩, copying 1280 (15 * 128) 5 0, ?_⟩ <;> decide +kernel

/-- A copy command of eight rows, from row 20 to row 10. -/
def ccmd (k : CKind) : CCmd :=
  ⟨3, k, 0, 0, ⟨0, 0, 1280, 0, 0⟩, ⟨0, 0, 2560, 0, 0⟩, ⟨0, 0, 0, 0, 0⟩, 8, 0, 0, false, 0, 0, 0, 0, false, 0, [], [], 0, 0, false, []⟩

def queued (c : CCmd) : State := atollBy fun a => { a with cq := [c] }

def image : List Word := 0x301 :: List.replicate 255 0

theorem witness_CopyCommandsRun :
    (∀ k ∈ [CKind.cpy, .cpyg], ∃ (s : State) (c : CCmd), s.a.copy 3 = some c ∧ c.kind = k ∧ c.stop = false ∧ c.started = false ∧ c.lost s = false ∧
      s.startHold 3 c.cls c.lv = none ∧ s.a.copyFree c = true ∧ c.done ≠ c.total ∧ (c.kind = .cpyg → (s.graph c.f 8).isSome)) ∧
    (∃ (s : State) (c : CCmd), s.a.copy 3 = some c ∧ c.stop = false ∧ c.done ≠ c.total ∧ s.saving = false ∧ edgeAt s.a.div.ring s.now = s.now ∧
      c.todo = [] ∧ c.got = [] ∧ s.a.copyOrder c = false ∧ c.grouped = false ∧ c.ahead ≠ [] ∧ (∀ x ∈ c.ahead, s.ownArea x.a = true) ∧
      ∀ f ∈ c.ahead.head?, s.portIced (portCode (station f.row) false) = false ∧
        0 < s.portRun (portCode (station f.row) false) s.now ((c.ahead.filter fun x => station x.row == station f.row).take 8).length) ∧
    (∀ k ∈ [CKind.cpy, .cpyx, .cpyg], ∃ (s : State) (c : CCmd), s.a.copy 3 = some c ∧ c.kind = k ∧ c.stop = false ∧ s.a.n < 160 ∧
      s.copyBusy 3 = false ∧ c.got = [] ∧ c.todo = [] ∧ c.src.sp = 0 ∧ c.src.atoll = s.a.n) ∧
    (∃ (s : State) (c : CCmd), s.a.copy 3 = some c ∧ c.kind = .cpyg ∧ c.stop = false ∧ s.a.n < 160 ∧ s.copyBusy 3 = false ∧ c.got = [] ∧
      c.todo = [] ∧ c.src.sp = 2 ∧ s.served (c.src.byte / 128 + c.done) s.a.slot false = true ∧ ∀ e ∈ s.dev.errs, e.1 ≠ c.src.byte / 128 + c.done) ∧
    (∀ k ∈ [CKind.cpy, .cpyx, .cpyz, .cpyg], ∃ (s : State) (c : CCmd), s.a.copy 3 = some c ∧ c.kind = k ∧ c.stop = false ∧ s.a.n < 160 ∧
      s.copyBusy 3 = false ∧ c.got = (if c.kind = .cpyz then [] else [(0, Mem.row s.a.sp (c.src.byte / 128 + c.done), false)]) ∧ c.todo = [] ∧
      c.dst.sp = 0 ∧ c.done ≠ c.total ∧ s.saving = false ∧ edgeAt s.a.div.ring s.now = s.now ∧ (c.kind = .cpyz → s.a.copyOrder c = false)) ∧
    (∀ x ∈ [true, false], ∃ (s : State) (c : CCmd), s.a.copy 3 = some c ∧ c.kind = .cpyx ∧ c.stop = false ∧ s.a.n < 160 ∧ s.copyBusy 3 = false ∧
      c.todo = [⟨false, c.dst.byte / 128 + c.done, 7, BitVec.allOnes 1024, x, false, .whole⟩] ∧ c.dst.sp = 0 ∧ c.dst.atoll = s.a.n) ∧
    (packBlock 1 0 = (0, [])) ∧ (∃ b : Nat, b < 2 ^ 8192 ∧ (packBlock 8 b).1.getLsbD 63 = true) ∧
    ∃ b : Nat, b < 2 ^ 8192 ∧ b ≠ 0 ∧ (packBlock 4 b).1.getLsbD 63 = false := by
  let gm : CCmd := { ccmd .cpyg with src := ⟨2, 0, 2560, 0, 0⟩ }
  let got := fun (k : CKind) => { ccmd k with started := true, got := if k = CKind.cpyz then [] else [(0, 0, false)] }
  let wr := fun x => { ccmd .cpyx with started := true, got := [(0, 7, false)], todo := [⟨false, 10, 7, BitVec.allOnes 1024, x, false, .whole⟩] }
  refine ⟨fun k hk => ⟨{ launched { one with graphs := [(0, image)] } id with a := { (launched one id).a with cq := [ccmd k] } }, ccmd k, ?_⟩,
    ⟨queued { ccmd .cpyx with started := true }, { ccmd .cpyx with started := true }, by decide +kernel⟩, fun k hk => ⟨queued (ccmd k), ccmd k, ?_⟩,
    ⟨queued gm, gm, by decide +kernel⟩, fun k hk => ⟨queued (got k), got k, ?_⟩, fun x hx => ⟨queued (wr x), wr x, ?_⟩, by decide +kernel,
    ⟨2 ^ 8192 - 1, by decide +kernel⟩, 256, by decide +kernel⟩
  · revert k; decide +kernel
  · revert k; decide +kernel
  · revert k; decide +kernel
  · revert x; decide +kernel

/-- A command of the link engine on tile 5, its buffer at row 100. -/
def lcmd (k : LKind) : LCmd :=
  ⟨3, k, 0, 0, 5, 9, 0, 100, 6, 0, 0, false, 4, false, true, true, false, false, false, 0, false, 0, false, 0, 0, 0, 0, 0, []⟩

/-- That command, with a step in hand that follows its wait for the ring cycle. -/
def linked (c : LCmd) (f : Atoll → Atoll) : State :=
  { atollBy (fun a => f { a with lq := [c] }) with ev := { Ev.init with phase := 1 } }

theorem witness_LinkCommandsAreQueued :
    (∃ (s : State) (w : Trap), s.ev.arg = .none ∧ trapsLrecv ⟨1, 2, 5, 0, false⟩ s = some w) ∧
    (∃ s : State, s.ev.arg = .none ∧ trapsLrecv ⟨1, 2, 5, 0, false⟩ s = none) ∧
    (∃ s : State, LocalAddr (s.rdS 1) ∧ LocalAddr (s.rdS 2) ∧ ((s.rdS 1).extractLsb' 7 16).toNat + 4 * (0 + 1) = 49152) ∧
    (∃ s : State, LocalAddr (s.rdS 1) ∧ LocalAddr (s.rdS 2) ∧ ((s.rdS 1).extractLsb' 7 16).toNat + 4 * (0 + 1) = 49151 ∧
      (SMap.get s.a.ctr 5).extractLsb' 60 4 ∈ [1#4, 2#4, 3#4]) ∧
    (∃ s : State, LocalAddr (s.rdS 1) ∧ LocalAddr (s.rdS 2) ∧ ((s.rdS 1).extractLsb' 7 16).toNat + 4 * (0 + 1) = 49151 ∧
      (SMap.get s.a.ctr 5).extractLsb' 60 4 ∉ [1#4, 2#4, 3#4]) ∧
    (∃ (s : State) (h : HReg), (s.rdH h).getLsbD 63 = true ∧ (s.rdH h).getLsbD 62 = true ∧ (s.rdH h).getLsbD 59 = true ∧ (s.rdH h).getLsbD 58 = true ∧
      (s.rdH h).extractLsb' 60 2 = 2#2 ∧ (s.rdS 1).toInt = 2 ^ 21 - 1 ∧ (s.rdS 2).toNat = 16384 ∧ LocalAddr (s.rdS 3)) ∧
    (∃ s : State, s.ev.arg = .none ∧ s.a.st.rgn.isSome) ∧
    (∃ s : State, s.ev.arg = .none ∧ s.a.st.rgn = none ∧ 24 ≤ ((SMap.get s.a.ctr 5).extractLsb' 46 5).toNat) ∧
    (∃ s : State, s.ev.arg = .none ∧ s.a.st.rgn = none ∧ ¬(1 ≤ ((SMap.get s.a.ctr 5).extractLsb' 46 5).toNat ∨ 4 ≤ ((SMap.get s.a.ctr 5).extractLsb' 60 4).toNat)) ∧
    (∃ s : State, (∀ c ∈ s.a.lq, c.started = true → c.kind ≠ .nmc → 5 ∉ c.tiles) ∧ ∀ x ∈ s.a.held, x.tile ≠ 5) ∧
    ∃ (s : State) (x : Stream), (∀ c ∈ s.a.lq, c.started = true → c.kind ≠ .nmc → 5 ∉ c.tiles) ∧ (s.a.held.find? fun y => y.tile == 5) = some x ∧
      x.src < 1000 ∧ x.planes = [] := by
  unfold LocalAddr
  refine ⟨⟨copying (1 <<< 23) 0 0 0, ⟨15, 0x10⟩, ?_⟩, ⟨copying 0 8 0 0, ?_⟩, ⟨copying (49148 * 128) 0 0 0, ?_⟩,
    ⟨{ copying (49147 * 128) 0 0 0 with a := { (copying (49147 * 128) 0 0 0).a with ctr := SMap.set [] 5 (3 <<< 60) } }, ?_⟩, ⟨copying (49147 * 128) 0 0 0, ?_⟩,
    ⟨strand fun st => { st with regs := regs [(1, 0x1FFFFF), (2, 16384)], hs := handles [(1, 0xEC00000000200000)] }, 1, ?_⟩, ⟨strand inRegion, ?_⟩,
    ⟨atollBy fun a => { a with ctr := SMap.set [] 5 (24 <<< 46) }, ?_⟩, ⟨lone, ?_⟩, ⟨linked { lcmd .send with started := true, tile := 6 } id, ?_⟩,
    atollBy fun a => { a with held := [⟨5, 1, 7, 0, 0, [], false, false⟩] }, ⟨5, 1, 7, 0, 0, [], false, false⟩, ?_⟩ <;> decide +kernel

theorem witness_TileStreamsRun :
    (∃ (s : State) (c : LCmd), s.a.link 3 = some c ∧ s.a.st.wait = .none ∧ c.kind = .recv ∧ c.started = false ∧ c.stop = false ∧ c.lost s = false ∧
      s.startHold 3 c.cls c.lv = none ∧ (∀ x ∈ s.a.lq, x.id < c.id → x.cls = c.cls → x.started = true) ∧ s.tileBusy c.tile = false ∧
      ∀ x ∈ s.a.held, x.tile ≠ c.tile) ∧
    (∃ (s : State) (c : LCmd) (p : Nat), s.a.link 3 = some c ∧ s.a.st.wait = .none ∧ c.kind = .send ∧ p = 4 ∧ p = c.p ∧ p ≠ 0 ∧
      s.lkHold posLK ((List.range 4).map fun i => c.buf + 4 * p - 3 + i) false = none ∧ c.peer < 1000) ∧
    (∃ (s : State) (c : LCmd) (p : Nat), s.a.link 3 = some c ∧ s.a.st.wait = .none ∧ c.kind = .send ∧ 3 = p / 256 ∧ c.id = 3 ∧ c.hdr = true ∧ c.peer < 1000) ∧
    (∃ (s : State) (c : LCmd) (h : Row), s.a.st.wait = .none ∧ s.a.receiver 5 = some c ∧ (SMap.get s.a.ctr 5).extractLsb' 60 4 = 1#4 ∧ s.a.stream 5 = none ∧
      c.kind = .recv ∧ c.tile = 5 ∧ min 24 (h.extractLsb' 264 8).toNat ≠ 0 ∧ s.lkHold posXB [c.buf] true = none) ∧
    (∃ s : State, s.a.st.wait = .none ∧ (SMap.get s.a.ctr 5).extractLsb' 60 4 ≠ 1#4 ∧ 5 ∉ s.a.refuse ∧ ∀ x ∈ s.a.held, x.tile ≠ 5) ∧
    (∃ s : State, s.a.st.wait = .none ∧ (SMap.get s.a.ctr 5).extractLsb' 60 4 ≠ 1#4 ∧ 5 ∈ s.a.refuse) ∧
    (∃ s : State, s.a.st.wait = .none ∧ (SMap.get s.a.ctr 5).extractLsb' 60 4 ≠ 1#4 ∧ ∃ x ∈ s.a.held, x.tile = 5) ∧
    (∃ s : State, s.a.st.wait = .none ∧ s.behind 5 1 7 100 = false ∧ s.a.receiver 5 = none ∧ ∃ x ∈ s.a.ins, x.is 5 1 7 = true) ∧
    (∃ s : State, s.a.st.wait = .none ∧ s.behind 5 1 7 100 = false ∧ s.a.receiver 5 = none ∧ (∀ x ∈ s.a.ins, x.is 5 1 7 = false) ∧
      ∃ x ∈ s.a.held, x.is 5 1 7 = true) ∧
    ∃ (s : State) (c : LCmd) (x : Stream), s.a.st.wait = .none ∧ s.a.receiver 5 = some c ∧ c.kind = .recv ∧ c.tile = 5 ∧
      (s.a.ins.find? fun y => y.is 5 1 7) = some x ∧ x.ended = false ∧ s.behind 5 1 7 4 = false ∧ 4 ≤ c.p ∧
      x.p + 1 < min 24 (x.hdr.extractLsb' 264 8).toNat ∧ s.lkHold posXB ((List.range 4).map fun i => c.buf + 4 * 4 - 3 + i) true = none := by
  let h : Row := 24 <<< 264
  let x : Stream := ⟨5, 1, 7, h, 3, [], false, false⟩
  let r : LCmd := { lcmd .recv with started := true }
  refine ⟨⟨linked (lcmd .recv) id, lcmd .recv, ?_⟩, ⟨linked (lcmd .send) id, lcmd .send, 4, ?_⟩,
    ⟨linked { lcmd .send with hdr := true } id, { lcmd .send with hdr := true }, 773, ?_⟩,
    ⟨linked r fun a => { a with ctr := SMap.set [] 5 (1 <<< 60) }, r, h, ?_⟩, ⟨lone, ?_⟩, ⟨atollBy fun a => { a with refuse := [5] }, ?_⟩,
    ⟨atollBy fun a => { a with held := [x] }, ?_⟩, ⟨atollBy fun a => { a with ins := [x] }, ?_⟩, ⟨atollBy fun a => { a with held := [x] }, ?_⟩,
    linked r fun a => { a with ins := [x], ctr := SMap.set [] 5 (2 <<< 60) }, r, x, ?_⟩ <;> decide +kernel

theorem witness_RelaysAddStreams :
    (∃ (s : State) (c : LCmd) (x y : Stream), s.a.link 3 = some c ∧ c.id = 3 ∧ s.a.st.wait = .none ∧ s.a.inputs c = some (x, y) ∧ c.peer < 1000 ∧ c.hdr = false ∧
      s.lkHold posLK (if c.loc then [c.buf] else []) true = none) ∧
    (∃ (s : State) (c : LCmd) (x y : Stream), s.a.link 3 = some c ∧ c.id = 3 ∧ s.a.st.wait = .none ∧ s.a.inputs c = some (x, y) ∧ c.peer < 1000 ∧ c.hdr = true ∧
      c.s2 = true ∧ c.sent + 1 = 2 ∧ min 3 (min 24 (x.hdr.extractLsb' 264 8).toNat) ≤ x.p ∧ min 3 (min 24 (y.hdr.extractLsb' 264 8).toNat) ≤ y.p ∧
      s.lkHold posLK ((List.range 4).map fun i => c.buf + 4 * 2 - 3 + i) true = none) ∧
    (∃ (s : State) (c : LCmd) (x y : Stream), s.a.link 3 = some c ∧ c.id = 3 ∧ s.a.st.wait = .none ∧ s.a.inputs c = some (x, y) ∧ c.peer < 1000 ∧ c.hdr = true ∧
      c.s2 = false ∧ c.sent + 1 = 2 ∧ min 3 (min 24 (x.hdr.extractLsb' 264 8).toNat) ≤ x.p ∧
      min 3 (min 24 (y.hdr.extractLsb' 264 8).toNat) ≤ y.planes.length ∧ s.lkHold posLK ((List.range 4).map fun i => c.buf + 4 * 2 - 3 + i) true = none) ∧
    ∃ (x y : Stream) (e : Int), sumLive x.hdr y.hdr 0 = some e := by
  let h : Row := 3 <<< 264 ||| 130
  let st := fun (t : Nat) (src : Nat) => (⟨t, src, 7, h, 3, [[0, 0, 0, 0], [0, 0, 0, 0], [0, 0, 0, 0]], false, false⟩ : Stream)
  let r : LCmd := { lcmd .relay with started := true, s2 := true }
  refine ⟨⟨linked r fun a => { a with ins := [st 5 1, st 6 2] }, r, st 5 1, st 6 2, ?_⟩,
    ⟨linked { r with hdr := true, sent := 1 } fun a => { a with ins := [st 5 1, st 6 2] }, { r with hdr := true, sent := 1 }, st 5 1, st 6 2, ?_⟩,
    ⟨linked { r with hdr := true, s2 := false, sent := 1 } fun a => { a with ins := [st 5 1, st 261 2] }, { r with hdr := true, s2 := false, sent := 1 },
      st 5 1, st 261 2, ?_⟩,
    st 5 1, st 6 2, -126, ?_⟩ <;> decide +kernel

/-- A graph image whose header allows a stream and a near-memory update. -/
def graphed (c : LCmd) (t : List Nat) : State :=
  { launched { one with graphs := [(0, image)] } (fun a => { a with lq := [c] }) with dev := { lone.dev with cctab := t } }

theorem witness_ReefsServe :
    (∃ (s : State) (x : GAcc), x.host = false ∧ s.gmWait { x with op := .read } false = none ∧ s.gmWait { x with op := .write 5 } true = none ∧
      s.dev.bad (x.byte / 128) = false ∧ s.gmWait { x with op := .amo .add 5 } true = none) ∧
    (∃ (s : State) (x : GAcc), x.host = false ∧ s.gmWait { x with op := .write 5 } true = none ∧ s.gmWait { x with op := .amo .add 5 } true = none ∧
      s.dev.bad (x.byte / 128) = true) ∧
    (∃ (s : State) (x : GAcc), x.host = false ∧ s.gmWait { x with op := .read } false = none ∧ s.gmWait { x with op := .amo .add 5 } true = none ∧
      (s.dev.errs.find? fun e => e.1 == x.byte / 128) = some (x.byte / 128, true)) ∧
    (∃ (s : State) (c : LCmd), s.a.link 3 = some c ∧ c.stop = false ∧ s.graph c.slot 9 = none) ∧
    (∃ (s : State) (c : LCmd), s.a.link 3 = some c ∧ c.stop = false ∧ s.graph c.slot 9 = some image ∧ s.dev.cctab.contains (c.frame / 32) = true ∧
      c.row + c.p ≤ c.lim ∧ c.p = 0) ∧
    (∃ (s : State) (c : LCmd), s.a.link 3 = some c ∧ c.stop = false ∧ s.graph c.slot 9 = some image ∧ s.dev.cctab.contains (c.frame / 32) = true ∧
      c.row + c.p ≤ c.lim ∧ c.p ≠ 0 ∧ s.a.nmcBefore c (c.row + c.sent) = false ∧ s.served (c.row + c.sent) s.a.slot true = true ∧
      s.dev.bad (c.row + c.sent) = false ∧ (∀ e ∈ s.dev.errs, e.1 ≠ c.row + c.sent) ∧ c.sent + 1 < c.p) ∧
    (∃ (s : State) (c : LCmd), s.a.link 3 = some c ∧ c.stop = false ∧ s.graph c.slot 9 = some image ∧ s.dev.cctab.contains (c.frame / 32) = true ∧ c.lim < c.row + c.p) ∧
    (∃ s : State, s.fe.nqbase = 0) ∧ (∃ s : State, s.fe.nqbase ≠ 0 ∧ 5 ∉ s.fe.queued ∧ (s.fe.nqtail + 1) % 4096 = s.fe.nqhead) ∧
    (∃ s : State, s.fe.nqbase ≠ 0 ∧ 5 ∉ s.fe.queued ∧ (s.fe.nqtail + 1) % 4096 ≠ s.fe.nqhead ∧ 8 ∣ s.fe.nqbase) ∧
    (∃ (s : State) (x : Launch), s.launchOf 1 = some x ∧ ¬(imageOk [] = true)) ∧
    ∃ (s : State) (x : Launch) (l : List Word), s.launchOf 1 = some x ∧ (1 : Nat) ≠ 0 ∧ 7 < 8 ∧ imageOk l = true ∧
      s.fe.graphsHeld - (x.graphs.length - (x.graphs.filter fun k => k.1 != 7).length) < 8 := by
  let c : LCmd := { lcmd .nmc with started := true, lim := 16384 }
  let g : GAcc := ⟨false, 896, .read, .s 1, 0, 0, 0, 0, 0⟩
  refine ⟨⟨lone, g, ?_⟩, ⟨{ lone with dev := { lone.dev with poison := [7] } }, g, ?_⟩, ⟨{ lone with dev := { lone.dev with errs := [(7, true)] } }, g, ?_⟩,
    ⟨linked c id, c, ?_⟩, ⟨graphed { c with p := 0 } [0], { c with p := 0 }, ?_⟩, ⟨graphed c [0], c, ?_⟩,
    ⟨graphed { c with lim := 3 } [0], { c with lim := 3 }, ?_⟩, ⟨lone, ?_⟩, ⟨frontBy fun f => { f with nqbase := 4096, nqtail := 4095 }, ?_⟩,
    ⟨frontBy fun f => { f with nqbase := 4096 }, ?_⟩, ⟨launched one id, one, ?_⟩, launched one id, one, image, ?_⟩ <;> decide +kernel


def gated (g : Gate) (mark : Option Bool) : State := atollBy fun a => { a with gvx := ⟨g, 0, 0, mark⟩ }

theorem witness_EnginesAndClocks :
    (∃ (s : State) (m : BitVec 4), m.getLsbD 0 = true ∧ (s.a.gateSt 0).g = .gated) ∧ (∃ (s : State) (x : Nat), (s.a.gateSt 0).g = .waking x) ∧
    (∃ s : State, s.a.st.rgn.isSome) ∧ (∃ s : State, s.a.st.rgn = none ∧ (s.a.gateSt 0).g = .awake ∧ s.engineBusy 0 = none ∧ (s.a.gateSt 0).mark.isSome) ∧
    (∃ s : State, s.a.st.rgn = none ∧ (s.a.gateSt 3).g = .awake ∧ s.engineBusy 3 = none ∧ 16 * (s.a.st.idlemx.toNat / 2 ^ (8 * 3) % 256) ≠ 0 ∧
      16 * (s.a.st.idlemx.toNat / 2 ^ (8 * 3) % 256) = (s.a.gateSt 3).cnt + (s.now - (s.a.gateSt 3).since) / s.a.div.core) ∧
    (∃ s : State, s.a.st.rgn = none ∧ (s.a.gateSt 3).g = .awake ∧ s.engineBusy 3 = none ∧ (s.a.gateSt 3).mark = none ∧
      16 * (s.a.st.idlemx.toNat / 2 ^ (8 * 3) % 256) = 0) ∧
    (∃ s : State, s.a.st.rgn = none ∧ (s.a.gateSt 3).g = .awake ∧ s.engineBusy 3 = none ∧ (s.a.gateSt 3).mark = none ∧
      (s.a.gateSt 3).cnt + (s.now - (s.a.gateSt 3).since) / s.a.div.core < 16 * (s.a.st.idlemx.toNat / 2 ^ (8 * 3) % 256)) ∧
    (∃ (s : State) (o : ClkOp), s.ev.arg = .none ∧ o.dom.toNat = 5 ∧ s.a.st.rgn = none ∧ max (o.n.toNat + 1) 4 = s.a.div.get o.dom.toNat ∧
      500 ≤ s.railOf s.a.n ∧ s.railOf s.a.n < 540) ∧
    (∃ (s : State) (o : ClkOp), s.ev.arg = .none ∧ o.dom.toNat = 0 ∧ s.a.st.rgn = none ∧ max (o.n.toNat + 1) 4 ≠ s.a.div.get o.dom.toNat ∧
      s.a.st.idlemx.getLsbD 63 = false) ∧
    ∃ (s : State) (o : ClkOp), s.ev.arg = .none ∧ o.dom.toNat = 0 ∧ s.a.st.rgn = none ∧ max (o.n.toNat + 1) 4 ≠ s.a.div.get o.dom.toNat ∧
      s.a.st.idlemx.getLsbD 63 = true := by
  refine ⟨⟨gated .gated none, 1, ?_⟩, ⟨gated (.waking 9) none, 9, ?_⟩, ⟨strand inRegion, ?_⟩, ⟨gated .awake (some false), ?_⟩, ⟨{ lone with now := 1024 }, ?_⟩,
    ⟨strand fun st => { st with idlemx := 0 }, ?_⟩, ⟨{ lone with now := 1023 }, ?_⟩, ⟨lone, ⟨9, 5, 1⟩, ?_⟩, ⟨lone, ⟨9, 0, 7⟩, ?_⟩,
    strand fun st => { st with idlemx := 1 <<< 63 }, ⟨9, 0, 7⟩, ?_⟩ <;> decide +kernel

theorem witness_MeterAndRails :
    (∃ s : State, s.ev.arg = .none ∧ s.a.st.rgn = none) ∧
    (∃ s : State, s.a.st.wait = .drain ∧ s.a.st.more = [] ∧ s.drainSteps = [] ∧ s.a.edge 0 s.now = s.now ∧ ∀ x ∈ s.a.st.due, x.1 ≤ s.now) ∧
    (∃ s : State, s.ev.arg = .none ∧ s.a.st.rgn.isSome) ∧ (∃ mv : Nat, mv = 419 ∧ mv < 420) ∧ (∃ mv : Nat, mv = 601 ∧ 600 < mv ∧ mv < 4096) ∧
    (∃ (s : State) (mv : Nat), mv = 420 ∧ 420 ≤ mv ∧ mv ≤ 600 ∧ s.dieBusy 0 = true) ∧
    ∃ (s : State) (mv die : Nat), mv = 600 ∧ 420 ≤ mv ∧ mv ≤ 600 ∧ s.dieBusy die = false ∧ die = 1 ∧ die < 2 := by
  refine ⟨⟨lone, ?_⟩, ⟨strand fun st => { st with wait := .drain, due := [(0, 100)] }, ?_⟩, ⟨strand inRegion, ?_⟩, ⟨419, ?_⟩, ⟨601, ?_⟩, ⟨strand fun st => { st with run := .run }, 420, ?_⟩,
    lone, 600, 1, ?_⟩ <;> decide +kernel

/-- The whole package with that launch on atoll 0. -/
def whole (x : Launch) (f : Atoll → Atoll) : State :=
  { State.reset with a := { f State.reset.a with n := 0, slot := x.slot }, fe := { State.reset.fe with launches := [x] } }

theorem witness_RealignAndDsync :
    (∃ (s : State) (x : Launch), s.ev.arg = .none ∧ s.launch = some x ∧ s.a.st.rgn = none ∧ x.atolls = [0] ∧ s.a.n = 0) ∧
    (∃ (s : State) (x : Launch) (b : Atoll), s.ev.arg = .none ∧ s.launch = some x ∧ s.a.st.rgn = none ∧ x.atolls = [0, 1] ∧ s.a.n = 0 ∧ s.atoll 1 = some b ∧
      b.st.run = .halted ∧ s.coords 1 ≠ s.coords s.a.n) ∧
    (∃ (s : State) (x : Launch), s.ev.arg = .none ∧ s.launch = some x ∧ s.a.st.rgn = none ∧ ∃ h ∈ x.gone, h ≠ s.coords s.a.n) ∧
    (∃ (s : State) (x : Launch), s.ev.arg = .none ∧ s.launch = some x ∧ s.a.st.rgn.isSome) ∧
    (∃ (s : State) (x : Launch) (b : Atoll), Numbered s.a.n (s.others.map Atoll.n) ∧ s.ev.arg = .none ∧ s.launch = some x ∧ s.launchOf x.slot = some x ∧ x.atolls = [0] ∧
      x.atolls.Nodup ∧ s.atoll 0 = some b ∧ b.st.wait = .realign ∧ b.st.more = []) ∧
    (∃ (s : State) (x : Launch), s.ev.arg = .none ∧ s.launch = some x ∧ s.a.st.rgn = none ∧ s.a.st.realigned = false) ∧
    (∃ (s : State) (x : Launch) (b : Atoll), s.ev.arg = .none ∧ s.launch = some x ∧ s.a.st.rgn = none ∧ s.a.st.realigned = true ∧
      1 ∈ x.atolls ∧ s.coords 1 ≠ s.coords s.a.n ∧ inDomain s.a.st.domain 7 ((s.coords 1).1 - x.gx) ((s.coords 1).2 - x.gy) = true ∧
      s.atoll 1 = some b ∧ b.st.run = .halted) ∧
    (∃ (s : State) (x : Launch), s.ev.arg = .none ∧ s.launch = some x ∧ s.a.st.rgn = none ∧ s.a.st.realigned = true ∧
      ∃ h ∈ x.gone, h ≠ s.coords s.a.n ∧ inDomain s.a.st.domain 7 (h.1 - x.gx) (h.2 - x.gy) = true) ∧
    ∃ (s : State) (x : Launch), Numbered s.a.n (s.others.map Atoll.n) ∧ s.ev.arg = .none ∧ s.launch = some x ∧ s.launchOf x.slot = some x ∧ x.atolls.Nodup ∧
      s.domainOf x s.a.n 7 = [0] ∧ s.dsyncReady 0 7 = true ∧ s.a.st.more = [] ∧ s.a.st.wait = .dsync 7 5 := by
  let two : Launch := { one with w := 2, atolls := [0, 1] }
  let far : Launch := { one with w := 32, gone := [(20, 0)] }
  let b : Atoll := { Atoll.init 1 with slot := 1, st := { Strand.init with run := .halted, domain := 0x0 } }
  let r := fun (x : Wait) (st : Strand) => { st with wait := x, realigned := true }
  refine ⟨⟨launched one id, one, ?_⟩, ⟨{ launched two id with others := [b] }, two, b, ?_⟩, ⟨launched far id, far, ?_⟩, ⟨launched one fun a => { a with st := inRegion a.st }, one, ?_⟩,
    ⟨whole one fun a => { a with st := r .realign a.st }, one, { Atoll.init 0 with slot := 1, st := r .realign Strand.init }, numbered, ?_⟩, ⟨launched one id, one, ?_⟩,
    ⟨{ launched two (fun a => { a with st := r .none { a.st with domain := 0x0 } }) with others := [b] }, two, b, ?_⟩,
    ⟨launched far fun a => { a with st := r .none { a.st with domain := 0x0 } }, far, ?_⟩,
    whole one fun a => { a with st := r (.dsync 7 5) a.st }, one, numbered, ?_⟩ <;> decide +kernel

/-- A strand that knows its phase tick of level 7, whose partner is itself. -/
def paired (f : Atoll → Atoll) : State := launched one fun a =>
  f { a with st := { a.st with regs := regs [(1, 1280), (2, 0x0000008000000000), (3, 8)], phaseTick := a.st.phaseTick.set 7 (some 0) } }

def xkey (t : Nat) : XKey := ⟨0, 0, 7, t⟩

def xent (t : Nat) : XEnt := ⟨2, xkey t, 0, 0, 10, 8, 0, false, []⟩

/-- The four hypotheses of the checks of xsend and xrecv. -/
def pairs (s : State) : Prop :=
  s.ev.arg = .none ∧ LocalAddr (s.rdS 1) ∧ LocalAddr (s.rdS 3) ∧ s.peerTrap (s.rdS 2) = none ∧ s.partner 7 (s.owner (s.rdS 2)) = true

theorem witness_ExchangesMoveRows :
    (∃ s : State, pairs s ∧ s.a.st.phaseTick[7]? = some (some 0) ∧ ∃ e ∈ s.a.xs, e.key = xkey 100 ∧ e.phase = 0) ∧
    (∃ s : State, pairs s ∧ s.a.st.phaseTick[7]? = some (some 0) ∧ s.a.xs = [] ∧ 0 + 1 < s.xbTick 10) ∧
    (∃ s : State, pairs s ∧ s.a.st.phaseTick[7]? = some (some 0) ∧ s.a.xs = [] ∧ s.xbTick 10 ≤ 0 + 100 ∧ s.laneTrap (s.xbReq 10) = none) ∧
    (∃ s : State, pairs s ∧ s.a.st.phaseTick[7]? = some (some 0) ∧ s.a.xr = [] ∧ s.now = 0 + 100 + s.pathTo 0 + 256) ∧
    (∃ s : State, pairs s ∧ s.a.st.phaseTick[7]? = some (some 0) ∧ s.a.xr = [] ∧ s.now = 0 + 100 + s.pathTo 0 + 257) ∧
    (∃ s : State, pairs s ∧ s.a.st.phaseTick[7]? = some none) ∧
    (∃ (s : State) (e : XEnt), s.a.st.wait = .none ∧ (s.a.xs.find? fun x => x.key == xkey 100) = some e ∧ s.portHeld e.dst true false = false) ∧
    (∃ (s : State) (e : XEnt), (s.a.xs.find? fun x => x.key == xkey 100) = some e ∧ (xkey 100).rcv < 1000 ∧ s.sendsFrom ≤ s.now ∧ s.links = [] ∧ 4 ∣ s.now ∧
      (xkey 100).snd = s.a.n ∧ s.a.n < 160) ∧
    (∃ (s : State) (e : XEnt), s.a.st.wait = .none ∧ (s.a.xr.find? fun x => x.key == xkey 100) = some e ∧ s.lkHold posXB [e.dst] true = none) ∧
    (∃ s : State, s.a.st.wait = .none ∧ ∀ e ∈ s.a.xr, e.key ≠ xkey 100) ∧
    ∃ s : State, s.a.st.wait = .none ∧ (∃ e ∈ s.a.xr, e.key = xkey 100 ∧ s.now = e.phase + (xkey 100).t + s.pathTo (xkey 100).snd + 256) ∧
      ∀ e ∈ s.agenda, e.i ≠ .xrecvArrival := by
  unfold pairs LocalAddr
  refine ⟨⟨paired fun a => { a with xs := [xent 100] }, ?_⟩, ⟨paired id, ?_⟩, ⟨paired id, ?_⟩, ⟨{ paired id with now := 356 + (paired id).pathTo 0 }, ?_⟩,
    ⟨{ paired id with now := 357 + (paired id).pathTo 0 }, ?_⟩, ⟨paired fun a => { a with st := { a.st with phaseTick := Vector.replicate 8 none } }, ?_⟩,
    ⟨paired fun a => { a with xs := [xent 100] }, xent 100, ?_⟩, ⟨{ paired (fun a => { a with xs := [xent 100] }) with now := 1000 }, xent 100, ?_⟩,
    ⟨{ paired (fun a => { a with xr := [xent 100] }) with ev := { Ev.init with phase := 1 } }, xent 100, ?_⟩, ⟨paired id, ?_⟩,
    { paired (fun a => { a with xr := [xent 100] }) with now := 356 + (paired id).pathTo 0 }, ?_⟩ <;> decide +kernel

/-- Device memory with channel 0 in this state. -/
def chan0 (c : Chan) : State := { lone with dev := { lone.dev with chans := [c] } }

theorem witness_ControllersAndScripts :
    (∃ (s : State) (row : Nat), s.dev.dead row = true) ∧
    (∃ (s : State) (row : Nat) (ch : Chan), s.dev.dead row = false ∧ (s.dev.chans.find? fun x => x.c == s.dev.chanOf row) = some ch ∧ ∀ e ∈ s.dev.errs, e.1 ≠ row) ∧
    (∀ b ∈ [true, false], ∃ (s : State) (row : Nat) (ch : Chan), s.dev.dead row = false ∧ (s.dev.chans.find? fun x => x.c == s.dev.chanOf row) = some ch ∧
      (s.dev.errs.find? fun e => e.1 == row) = some (row, b)) ∧
    (∃ temp : Nat, temp = 104 ∧ temp < 105) ∧ (∃ temp : Nat, temp = 105 ∧ 105 ≤ temp) ∧
    (∃ (s : State) (c : Nat) (ch : Chan), (s.dev.chans.find? fun x => x.c == c) = some ch ∧ ch.script[ch.wi]? = none ∧ ch.running = false) ∧
    (∃ (s : State) (c : Nat) (ch : Chan) (w : Word), (s.dev.chans.find? fun x => x.c == c) = some ch ∧ ch.script[ch.wi]? = some w ∧
      ch.failed ((25 * s.now + 63) / 88) w = none) ∧
    (∃ (s : State) (c : Nat) (ch : Chan) (w : Word), (s.dev.chans.find? fun x => x.c == c) = some ch ∧ ch.script[ch.wi]? = some w ∧
      ch.failed ((25 * s.now + 63) / 88) w = none ∧ swCmd w = 7) ∧
    ∃ (s : State) (c k : Nat) (ch : Chan) (w : Word), (s.dev.chans.find? fun x => x.c == c) = some ch ∧ ch.script[ch.wi]? = some w ∧
      ch.failed ((25 * s.now + 63) / 88) w = some k := by
  let run := fun (w : Word) => { Chan.init 0 with script := [w], running := true, owner := 1 }
  refine ⟨⟨lone, 2 ^ 40, ?_⟩, ⟨lone, 0, Chan.init 0, ?_⟩,
    fun b hb => ⟨{ lone with dev := { lone.dev with errs := [(0, b)] } }, 0, Chan.init 0, ?_⟩, ⟨104, ?_⟩, ⟨105, ?_⟩, ⟨lone, 0, Chan.init 0, ?_⟩, ⟨chan0 (run 0), 0, run 0, 0, ?_⟩,
    ⟨chan0 (run (7 <<< 60 ||| 1 <<< 10)), 0, run (7 <<< 60 ||| 1 <<< 10), 7 <<< 60 ||| 1 <<< 10, ?_⟩, chan0 (run (3 <<< 60)), 0, 12, run (3 <<< 60), 3 <<< 60, ?_⟩
  case refine_3 => revert b; decide +kernel
  all_goals decide +kernel

/-- The device READY, with queue 3 in this state. -/
def hosted (f : Queue → Queue) : State :=
  frontBy fun e => { e with firm := { e.firm with ready := true }, queues := [f { Queue.init 3 with q := 3 }] }

/-- With a launch in that queue. -/
def hostedBy (x : Launch) (f : Queue → Queue) : State := { hosted f with fe := { (hosted f).fe with launches := [x] } }

theorem witness_PacketsEnd :
    (∃ w : List Word, w.length = 8) ∧ (∃ (s : State) (w : Word) (f : Nat), s.frameOf (fld w 0 6) f = true) ∧
    (∃ (s : State) (w : Word) (f : Nat), s.frameOf (fld w 0 6) f = false) ∧ (∃ (s : State) (f : Nat), s.nmcOn f = true) ∧ ∃ (s : State) (f : Nat), s.nmcOn f = false := by
  refine ⟨⟨List.replicate 8 0, ?_⟩, ⟨lone, 0, 196607, ?_⟩, ⟨lone, 0, 196608, ?_⟩,
    ⟨linked { lcmd .nmc with hdr := true } id, 0, ?_⟩, lone, 0, ?_⟩ <;> decide +kernel

/-- A queue that may take the slot at its head. -/
def idleQ (x : Queue) : Queue := { x with qcfg := 1 <<< 63 ||| 0x404, state := 0 }

theorem witness_QueueRegistersWrite :
    (∃ s : State, s.fe.firm.ready = false) ∧
    (∃ s : State, s.fe.firm.ready = true ∧ Idle s.fe (s.fe.queue 3) ∧ (s.fe.queue 3).head ≠ 1) ∧
    (∃ (s : State) (w : List Word), s.fe.firm.ready = true ∧ (s.fe.queue 3).heldc = some w ∧ w.length = 8 ∧ ({ s.fe.queue 3 with chead := 1 } : Queue).full = false) ∧
    (∃ (s : State) (w : List Word), s.fe.firm.ready = true ∧ (s.fe.queue 3).heldc = some w ∧ w.length = 8 ∧ ({ s.fe.queue 3 with chead := 0 } : Queue).full = true) ∧
    (∃ s : State, s.fe.firm.ready = true ∧ (s.fe.queue 3).heldc = none ∧ (s.fe.queue 3).en = true ∧ s.headOf 3 = none) ∧
    (∃ s : State, s.fe.firm.ready = true ∧ (s.fe.queue 3).en = false ∧ s.headOf 3 = none) ∧
    (∃ (s : State) (l : Launch), s.fe.firm.ready = true ∧ (s.fe.queue 3).en = false ∧ s.headOf 3 = some l) ∧
    (∃ s : State, s.fe.firm.ready = true ∧ (s.fe.queue 3).state ≠ 0 ∧ (s.fe.queue 3).state ≠ 9) ∧
    (∃ (s : State) (y : Launch), s.headOf 3 = some y ∧ y.saved = false ∧ y.slot ≠ 0 ∧ (s.fe.queue 3).state = 4 ∧ y.members = [] ∧ y.atolls.Nodup ∧
      Numbered s.a.n (s.others.map Atoll.n)) ∧
    (∃ (s : State) (y : Launch), s.headOf 3 = some y ∧ y.saved = false ∧ (s.fe.queue 3).state = 2 ∧ y.desc.length = 32) ∧
    (∃ (s : State) (y : Launch), (s.fe.queue 3).state = 7 ∧ s.headOf 3 = some y) ∧
    ∃ s : State, (s.fe.queue 3).state = 8 ∧ s.fe.blocker ≠ some 3 ∧ (s.fe.queue 3).pend = none ∧ Idle s.fe { s.fe.queue 3 with state := 0 } ∧
      (s.fe.queue 3).head ≠ (s.fe.queue 3).tail := by
  unfold Idle
  let x : Launch := { one with q := 3 }
  let held := fun (x : Queue) => { idleQ x with heldc := some (List.replicate 8 0), ctail := 15 }
  let p := fun (k : Nat) => fun (x : Queue) => { idleQ x with state := k, tail := 1 }
  refine ⟨⟨lone, ?_⟩, ⟨hosted idleQ, ?_⟩, ⟨hosted held, List.replicate 8 0, ?_⟩, ⟨hosted held, List.replicate 8 0, ?_⟩, ⟨hosted idleQ, ?_⟩, ⟨hosted id, ?_⟩,
    ⟨hostedBy x id, x, ?_⟩, ⟨hosted (p 5), ?_⟩,
    ⟨{ State.reset with fe := (hostedBy x (p 4)).fe }, x, ?_, ?_, ?_, ?_, ?_, ?_, numbered⟩, ⟨hostedBy x (p 2), x, ?_⟩, ⟨hostedBy x (p 7), x, ?_⟩, hosted (p 8), ?_⟩ <;>
    decide +kernel

/-- Descriptor words: word 21 names a dependence on launch 5 of queue 1. -/
def after5 : Launch := { one with desc := (List.replicate 32 0).set 21 (1 <<< 31 ||| 5 <<< 12 ||| 1) }

/-- A descriptor at address 0 of a launch of one atoll in the package to the east, one history row, 128 bytes of code, and a save area at
4096 that holds a header without records. -/
def described : State :=
  let words := ([(0, 1), (8, 20), (32, 128), (88, 1 <<< 16), (184, 4096), (4096, 0x101), (4104, 20)] : List (Nat × Word)) ++
    (List.range 4).map fun k => (4096 + 32 + 8 * k, (lone.dev.digest 4096 []).getD k 0)
  { lone with dev := { lone.dev with mem := words.foldl (fun m p => Mem.setWord m p.1 p.2) [] }, fe := { lone.fe with mesh := (2, 1) } }

theorem witness_LaunchPacketsEnter :
    (∃ (s : State) (w : List Word), s.descBad ((s.given (.packet 3 7 w)).launchOfPacket 3 7 w) (w.getD 1 0).toNat = true) ∧
    (∃ (s : State) (w : List Word), (((s.given (.packet 3 7 w)).launchOfPacket 3 7 w).dw 0).getLsbD 11 = true) ∧
    (∃ (u : State) (z : Launch), z.home = none ∧ (z.dw 0).getLsbD 12 = false ∧ z.deps.map (fun d => u.fe.endOf d) = [some 5]) ∧
    (∃ (u : State) (z : Launch), z.home = none ∧ z.deps.map (fun d => u.fe.endOf d) = [some 0]) ∧
    (∃ (u : State) (z : Launch), z.home = none ∧ z.deps.map (fun d => u.fe.endOf d) = [none]) ∧ (∃ z : Launch, z.meter = 0) ∧
    ∃ (s : State) (w : List Word), let g := s.given (.packet 3 7 w)
      let y := g.launchOfPacket 3 7 w
      g.descBad y (w.getD 1 0).toNat = false ∧ (y.dw 0).getLsbD 11 = false ∧ g.headerBad y = false := by
  refine ⟨⟨lone, List.replicate 8 0, ?_⟩, ⟨{ lone with dev := { lone.dev with mem := Mem.setWord [] 0 0x800 } }, List.replicate 8 0, ?_⟩,
    ⟨frontBy fun f => { f with ended := [(1, 5, 5)] }, after5, ?_⟩, ⟨frontBy fun f => { f with ended := [(1, 5, 0)] }, after5, ?_⟩, ⟨lone, after5, ?_⟩, ⟨one, ?_⟩,
    described, List.replicate 8 0, ?_⟩ <;>
    decide +kernel

theorem witness_StartsAndFirmware :
    (∃ s : State, s.fe.firm.busy = false ∧ s.fe.firm.image = some 0) ∧ (∃ s : State, s.fe.firm.image = none) ∧ (∃ s : State, s.fe.firm.recov = true) ∧
    (∃ s : State, s.fe.firm.recov = false ∧ ∀ e ∈ s.agenda, e.i = .devctlCold → e.tick ≠ s.now) ∧ (∃ s : State, ∃ e ∈ s.agenda, e.i = .devctlCold ∧ e.tick = s.now) ∧
    (∃ s : State, s.fe.firm.warm = true ∧ s.fe.firm.image = some 0 ∧ s.dev.live = ((List.range 256).filter fun c => !s.dev.retire.contains c)) ∧
    (∃ s : State, s.dev.live ≠ ((List.range 256).filter fun c => !s.dev.retire.contains c)) ∧
    (∃ (s : State) (v : Word), v.getLsbD 0 = true ∧ s.fe.firm.busy = false) ∧ ∃ (s : State) (v : Word), v.getLsbD 0 = true ∧ s.fe.firm.busy = true := by
  let f := fun (g : Firm → Firm) => frontBy fun e => { e with firm := g e.firm }
  refine ⟨⟨lone, ?_⟩, ⟨f fun x => { x with image := none }, ?_⟩, ⟨f fun x => { x with recov := true }, ?_⟩, ⟨lone, ?_⟩,
    ⟨{ lone with agenda := [⟨0, 6, 0, 0, .none, .devctlCold, .none⟩] }, ?_⟩, ⟨f fun x => { x with warm := true }, ?_⟩,
    ⟨{ lone with dev := { lone.dev with retire := [7] } }, ?_⟩, ⟨lone, 1, ?_⟩, f (fun x => { x with busy := true }), 1, ?_⟩ <;> decide +kernel

/-- DBGADDR of a unit, an atoll and an index. -/
def dbg (unit atoll index : Nat) : Word := BitVec.ofNat 64 (unit * 2 ^ 56 + atoll * 2 ^ 48 + index)

def debugged (x : Launch) (a : Word) (tdi : List Nat) (q : Nat) : State :=
  { whole x id with fe := { (hostedBy x fun y => { y with state := q, qsw := 0x400 }).fe with dbgaddr := a, tdi := tdi } }

theorem witness_HostRegistersAndDebugWindow :
    (∃ s : State, s.fe.firm.ready = true) ∧ (∃ (s : State) (fn j q : Nat), s.fe.firm.ready = true ∧ fn = 63 ∧ q = 3 ∧ fn < 64 ∧ (s.fe.owned fn)[j]? = some q) ∧
    (∃ s : State, s.dbgUnit ≠ 0x10 ∧ s.dbgUnit ≠ 0x11 ∧ s.dbgAtoll = 160) ∧
    (∃ s : State, s.dbgUnit = 1 ∧ s.dbgAtoll < 160 ∧ s.guarded (s.slotOf s.dbgAtoll) = true) ∧
    (∃ s : State, s.dbgUnit = 8 ∧ s.dbgAtoll < 160 ∧ s.guarded (s.slotOf s.dbgAtoll) = false) ∧
    (∃ (s : State) (c : Chan), s.dbgUnit = 0x10 ∧ s.dbgIndex = 0 ∧ (s.dev.chans.find? fun x => x.c == s.dbgAtoll) = some c) ∧
    (∃ s : State, Numbered s.a.n (s.others.map Atoll.n) ∧ s.fe.firm.ready = true ∧ s.dbgAtoll < 160 ∧ s.guarded (s.slotOf s.dbgAtoll) = false ∧
      (s.focus s.dbgAtoll).a.atRest = true ∧ s.dbgUnit = 1 ∧ 0 < s.dbgIndex ∧ s.dbgIndex < 64) ∧
    (∃ s : State, s.dbgUnit = 4 ∧ s.dbgIndex = 786431 ∧ s.dbgIndex < 786432) ∧
    (∃ s : State, s.slotOf s.dbgAtoll = 0) ∧ (∃ s : State, s.slotOf s.dbgAtoll ≠ 0 ∧ s.guarded (s.slotOf s.dbgAtoll) = false) ∧
    (∃ (s : State) (x : Launch), s.slotOf s.dbgAtoll ≠ 0 ∧ s.launchOf (s.slotOf s.dbgAtoll) = some x ∧ s.guarded (s.slotOf s.dbgAtoll) = false) ∧
    ∃ (s : State) (x : Launch), (s.fe.launches.find? fun y => y.home.isNone && (s.fe.queue y.q).state == 7 && fld (s.fe.queue y.q).qsw 8 3 == 4 &&
      y.atolls.contains s.dbgAtoll && !s.fe.tdi.contains (s.fe.queue y.q).func) = some x := by
  let x : Launch := { one with q := 3 }
  refine ⟨⟨hosted id, ?_⟩, ⟨hosted fun x => { x with func := 63 }, 63, 0, 3, ?_⟩, ⟨debugged x (dbg 1 160 0) [] 4, ?_⟩, ⟨debugged x (dbg 1 0 5) [0] 4, ?_⟩, ⟨debugged x (dbg 8 0 5) [] 4, ?_⟩,
    ⟨debugged x (dbg 0x10 5 0) [] 4, Chan.init 5, ?_⟩, ⟨debugged x (dbg 1 0 63) [] 4, numbered, ?_⟩, ⟨debugged x (dbg 4 0 786431) [] 4, ?_⟩,
    ⟨debugged x (dbg 1 1 0) [] 4, ?_⟩, ⟨debugged x (dbg 1 0 0) [] 4, ?_⟩, ⟨debugged x (dbg 1 0 0) [] 4, x, ?_⟩, debugged x (dbg 1 0 0) [] 7, x, ?_⟩ <;>
    decide +kernel

theorem witness_FaultsAndHealth :
    (∃ (s : State) (t : Nat), s.fe.firm.mismatch = some t ∧ s.now - t < 4400000000) ∧ (∃ s : State, s.fe.firm.mismatch = none) ∧
    (∃ s : State, ∀ e ∈ s.agenda, e.arg = .none) ∧
    (∃ (s : State) (e : Ev) (l : List Word), s.agenda = [e] ∧ e.arg = .packet 3 7 l ∧ (s.fe.queue 3).head < 2 ^ (s.fe.queue 3).qlog ∧
      Idle s.fe { s.fe.queue 3 with busy := false, head := 15 } ∧ 15 ≠ (s.fe.queue 3).tail) ∧
    (∃ (s : State) (i eolh : Nat), i < s.fe.ages.length ∧ i = 9 ∧ s.fe.agethr ≤ fld (s.fe.ages.getD i 0) 0 32 ∧ min eolh (2 ^ 32 - 1) < s.fe.agethr) ∧
    (∃ (s : State) (i eolh : Nat), i < s.fe.ages.length ∧ ¬(s.fe.agethr ≤ fld (s.fe.ages.getD i 0) 0 32 ∧ min eolh (2 ^ 32 - 1) < s.fe.agethr)) ∧
    (∃ temp : Nat, temp = 110 ∧ 110 ≤ temp) ∧ (∃ temp : Nat, temp = 109 ∧ 105 ≤ temp ∧ temp < 110) ∧ ∃ temp : Nat, temp = 104 ∧ temp < 105 := by
  unfold Idle
  let e : Ev := ⟨9, 6, 0, 0, .none, .nop, .packet 3 7 []⟩
  refine ⟨⟨frontBy fun f => { f with firm := { f.firm with mismatch := some 0 } }, 0, ?_⟩, ⟨lone, ?_⟩, ⟨lone, ?_⟩, ⟨{ hosted idleQ with agenda := [e] }, e, [], ?_⟩,
    ⟨lone, 9, 8759, ?_⟩, ⟨lone, 0, 8760, ?_⟩, ⟨110, ?_⟩, ⟨109, ?_⟩, 104, ?_⟩ <;> decide +kernel

theorem witness_TranslationsAndAssignments :
    (∃ (s : State) (a : Atoll), Numbered s.a.n (s.others.map Atoll.n) ∧ s.atoll 0 = some a ∧ a.slot ≠ 0 ∧ a.st.wait = .pager ∧
      (s.launchOf a.slot).map (fun x => x.da 5) = some 0 ∧ fld a.st.trinfo 0 48 / 2 ^ 16 = 3) ∧
    (∃ s : State, ∃ e ∈ s.agenda, ∃ x, e.arg = .gacc x ∧ x.frame = 5 ∧ (x.host = true ↔ 2 = 3)) ∧
    (∃ s : State, s.agenda = [] ∧ s.others = [] ∧ s.a.cq = [] ∧ s.a.lq = []) ∧
    (∃ (s : State) (x : Launch), x ∈ s.fe.launches ∧ x.home = none ∧ fld (s.fe.queue x.q).qcfg 32 20 = 9) ∧
    (∃ (s : State) (x : Launch), x ∈ s.fe.launches ∧ x.home = none ∧ (x.slot ≠ 0 ∨ x.saved = true) ∧ s.binds x 9 = true) ∧
    (∃ s : State, (∀ x ∈ s.fe.launches, x.slot = 0 ∧ ¬(x.home = none ∧ (fld (s.fe.queue x.q).qcfg 32 20 = 9 ∨ (x.slot ≠ 0 ∨ x.saved = true) ∧ s.binds x 9 = true))) ∧
      ∀ x ∈ s.fe.queues, x.qcfg.getLsbD 61 = true ∧ fld x.qcfg 32 20 = 9 → ¬∃ e ∈ s.agenda, ∃ k w, e.arg = .packet x.q k w) ∧
    ∃ (s : State) (x : Queue), s.fe.launches = [] ∧ s.fe.queues.find? (fun y => y.q == x.q) = some x ∧ x.qcfg.getLsbD 61 = true ∧ fld x.qcfg 32 20 = 9 ∧
      ∃ e ∈ s.agenda, ∃ k w, e.arg = .packet x.q k w := by
  let e : Ev := ⟨9, 6, 0, 0, .none, .gmAccess, .gacc ⟨false, 0, .read, .s 1, 0, 0, 0, 5, 0⟩⟩
  let x : Launch := { one with q := 3 }
  let d : Ev := ⟨9, 6, 0, 0, .none, .nop, .packet 3 7 []⟩
  let b : Launch := { x with desc := (List.replicate 32 0).set 7 2 }
  let bound : State := { hostedBy b id with dev := { lone.dev with mem := Mem.setWord [] 8 9 } }
  let w : State := whole one fun a => { a with st := { a.st with wait := .pager, trinfo := 0x30000 } }
  refine ⟨⟨w, w.a, numbered, ?_⟩, ⟨{ lone with agenda := [e] }, e, List.mem_singleton.2 rfl, ⟨false, 0, .read, .s 1, 0, 0, 0, 5, 0⟩, ?_⟩, ⟨lone, ?_⟩,
    ⟨hostedBy x fun q => { q with qcfg := 9 <<< 32 }, x, ?_⟩, ⟨bound, b, ?_⟩, ⟨lone, List.forall_mem_nil _, List.forall_mem_nil _⟩,
    { hosted (fun q => { q with qcfg := 1 <<< 61 ||| 9 <<< 32 }) with agenda := [d] }, { Queue.init 3 with qcfg := 1 <<< 61 ||| 9 <<< 32 }, ?_, ?_, ?_, ?_, d,
    List.mem_singleton.2 rfl, 7, [], ?_⟩ <;> decide +kernel

theorem witness_StraitFramesArrive :
    (∃ s : State, (s.portsOf 1).length = 3 ∧ s.fe.ports.any (fun p => p.n == 17 && !p.up) = true) ∧
    (∃ (s : State) (p : Port), (s.fe.ports.find? fun p => p.n == 0 && p.up) = some p ∧ p.rx.getD 7 0 = 0 ∧ s.fromName 0 < 1000) ∧
    (∃ (s : State) (p : Port) (b : Atoll) (l : List Row), (s.fe.ports.find? fun p => p.n == 0 && p.up) = some p ∧ p.rx.getD 7 0 = 0 ∧ s.fromName 0 < 1000 ∧
      s.atoll (s.fromName 0) = some b ∧ (b.parts.find? fun y => y.1 == 5 && y.2.1 == 1 && y.2.2.1 == 7) = some (5, 1, 7, l) ∧ l.length = 3) ∧
    (∃ s : State, (s.fe.ports.find? fun p => p.n == 8 && p.up) = none) ∧
    (∃ seq : Nat, seq = 1 ∧ seq ≠ 0 ∧ 2048 < (0 + 4096 - seq) % 4096) ∧ (∃ seq : Nat, seq = 2048 ∧ seq ≠ 0 ∧ (0 + 4096 - seq) % 4096 ≤ 2048) ∧
    (∃ (s : State) (p : Port), (s.fe.ports.find? fun p => p.n == 0 && p.up) = some p ∧ 7 ∈ p.asked) ∧
    (∃ (s : State) (p : Port) (x y : Frame), (s.fe.ports.find? fun p => p.n == 0) = some p ∧ p.up = true ∧ p.wait = [] ∧
      (p.kept.filter fun k => k.1 == 7) = [(7, 4, x), (7, 5, y)]) ∧
    ∃ (s : State) (p : Port), (s.fe.ports.find? fun p => p.n == 0 && p.up) = some p ∧ p.fails = [(7, 5, 8)] ∧
      8 < ((p.fails.find? fun k => k.1 == 7 && k.2.1 == 5).map fun k => k.2.2).getD 0 + 1 := by
  let z := List.replicate 8 0
  let f : Frame := ⟨0, .refusal 5 1⟩
  let p : Port := { n := 0, up := true, grp := 0, rx := z, tx := z, asked := [7], kept := [(6, 4, f), (7, 4, f), (7, 5, f)], wait := [], fails := [(7, 5, 8)], gtcOff := 0 }
  let s : State := frontBy fun f => { f with ports := [p] }
  let h : Atoll := { lone.a with parts := [(5, 1, 7, [0, 0, 0])] }
  refine ⟨⟨frontBy fun f => { f with ports := f.ports.map fun p => if p.n = 4 then { p with up := false } else p }, ?_⟩, ⟨s, p, ?_⟩,
    ⟨{ s with a := h }, p, h, [0, 0, 0], ?_⟩, ⟨lone, ?_⟩, ⟨1, ?_⟩, ⟨2048, ?_⟩, ⟨s, p, ?_⟩, ⟨s, p, f, f, ?_⟩, s, p, ?_⟩ <;> decide +kernel

/-- The whole package with launch `x` in queue 3 and this state of the queue. -/
def front3 (x : Launch) (k : Nat) : State := { whole x id with fe := (hostedBy x fun y => { idleQ y with state := k }).fe }

theorem witness_LaunchesArePlaced :
    (∃ s : State, s.fe.blocker = none ∧ s.candidates = []) ∧
    (∃ (s : State) (x y : Launch), s.fe.blocker = none ∧ (s.fe.launches.map Launch.id).Nodup ∧ s.candidates = [x] ∧ (s.choices x).find? (fun y => s.fits y) = some y ∧
      ∀ p ∈ y.packages, 32 * p.1 + p.2 = s.fe.pkg) ∧
    (∃ (s : State) (x : Launch), s.fe.blocker = none ∧ s.candidates = [x] ∧ x.unfit = some 0 ∧ 0 + 44000000 ≤ s.now) ∧
    (∃ (s : State) (x : Launch), s.fe.blocker = some 3 ∧ s.headOf 3 = some x) ∧
    (∃ (s : State) (x : Launch), Numbered s.a.n (s.others.map Atoll.n) ∧ s.launchOf 1 = some x ∧ (s.fe.queue x.q).state = 3 ∧ x.home = none ∧ s.pathsUp x = true ∧
      s.placedBad x = false ∧ x.members = [] ∧ x.atolls.Nodup ∧ (∀ m ∈ x.atolls, m < 160) ∧ x.saved = false ∧ x.df 14 0 16 = 0 ∧ x.df 16 0 16 = 0) ∧
    (∃ (s : State) (x : Launch), Numbered s.a.n (s.others.map Atoll.n) ∧ s.launchOf 1 = some x ∧ (s.fe.queue x.q).state = 3 ∧ x.home = none ∧ s.pathsUp x = true ∧
      x.members = [] ∧ x.saved = true) ∧
    (∃ (s : State) (x : Launch), s.launchOf 1 = some x ∧ (s.fe.queue x.q).state ≠ 3) ∧
    (∃ (s : State) (x : Launch), s.launchOf 1 = some x ∧ (s.fe.queue x.q).state = 3 ∧ x.home = none ∧ s.pathsUp x = true ∧ s.placedBad x = true) ∧
    ∃ (s : State) (x : Launch), s.launchOf 1 = some x ∧ (s.fe.queue x.q).state = 3 ∧ x.home = none ∧ s.pathsUp x = false := by
  let x : Launch := { one with q := 3 }
  let w : Launch := { x with slot := 0 }
  let z : Launch := { x with saved := true }
  let far : Launch := { x with w := 40 }
  let bad : Launch := { x with desc := ((List.replicate 32 0).set 0 0x800).set 7 2 }
  refine ⟨⟨lone, ?_⟩, ⟨{ front3 w 2 with a := Atoll.init 0 }, w, w, ?_⟩, ⟨{ front3 { w with unfit := some 0 } 2 with now := 44000000 }, { w with unfit := some 0 }, ?_⟩,
    ⟨{ front3 x 2 with fe := { (front3 x 2).fe with blocker := some 3 } }, x, ?_⟩, ⟨front3 x 3, x, numbered, ?_⟩, ⟨front3 z 3, z, numbered, ?_⟩, ⟨front3 x 4, x, ?_⟩, ⟨front3 bad 3, bad, ?_⟩,
    { front3 far 3 with fe := { (front3 far 3).fe with ports := [] } }, far, ?_⟩ <;> decide +kernel

theorem witness_LadderOfPreemption :
    (∃ (s : State) (x : Launch), s.launchOf 1 = some x ∧ x.home = none ∧ (s.fe.queue x.q).state = 3) ∧
    (∃ (s : State) (x : Launch), Numbered s.a.n (s.others.map Atoll.n) ∧ s.launchOf 1 = some x ∧ x.home = none ∧ (s.fe.queue x.q).state = 4 ∧ x.atolls.Nodup) ∧
    (∃ (s : State) (x : Launch), s.launchOf 1 = some x ∧ x.home = none ∧ (s.fe.queue x.q).state = 5 ∧ x.rung = 1 ∧ x.members = [] ∧ s.rungDone x = true ∧ x.savePa % 8 = 0) ∧
    (∃ (s : State) (x : Launch), s.launchOf 1 = some x ∧ x.home = none ∧ (s.fe.queue x.q).state = 5 ∧ x.rung = 2 ∧ x.members = [] ∧ s.rungDone x = false ∧
      s.workOf x ≠ []) ∧
    ∃ (s : State) (x : Launch), s.launchOf 1 = some x ∧ x.home = none ∧ x.rung = 0 := by
  let x : Launch := { one with q := 3 }
  let r := fun (n : Nat) => ({ x with rung := n, reason := 2 } : Launch)
  refine ⟨⟨front3 x 3, x, ?_⟩, ⟨front3 x 4, x, numbered, ?_⟩, ⟨front3 (r 1) 5, r 1, ?_⟩,
    ⟨{ front3 (r 2) 5 with agenda := [⟨8, 2, 0, 0, .vx, .vectorResultLand, .puts [] 0 none⟩] }, r 2, ?_⟩, front3 x 4, x, ?_⟩ <;> decide +kernel

theorem witness_LaunchesEndAndFree :
    (∃ (s : State) (x : Launch), s.launchOf 1 = some x ∧ x.home = none ∧ s.teamOver x = true ∧ (s.fe.queue x.q).state = 4 ∧ ∀ m ∈ x.members, m.2 = 3) ∧
    (∃ (s : State) (x : Launch) (b : Atoll), s.launchOf 1 = some x ∧ x.home = none ∧ s.teamOver x = false ∧ 0 ∈ x.atolls ∧ s.atoll 0 = some b ∧ b.st.run ≠ .halted) ∧
    (∃ (s : State) (x : Launch) (b : Atoll), s.launchOf 1 = some x ∧ x.home = none ∧ s.teamOver x = false ∧ x.atolls = [0] ∧ s.atoll 0 = some b ∧
      b.st.run = .halted ∧ b.empty = true ∧ s.workOf x ≠ []) ∧
    ∃ (s : State) (x : Launch) (a : Atoll), s.launchOf 1 = some x ∧ x.home = none ∧ x.meter = 0 ∧ s.fe.launches = [x] ∧ x.atolls = [0] ∧ s.atoll 0 = some a ∧
      (s.fe.queue x.q).full = false := by
  let x : Launch := { one with q := 3 }
  let h : State := { front3 x 4 with a := { Atoll.init 0 with slot := 1, st := { Strand.init with run := .halted } } }
  refine ⟨⟨h, x, ?_⟩, ⟨front3 x 4, x, (front3 x 4).a, ?_⟩, ⟨{ h with agenda := [⟨8, 2, 0, 0, .vx, .vectorResultLand, .puts [] 0 none⟩] }, x, h.a, ?_⟩,
    front3 x 4, x, (front3 x 4).a, ?_⟩ <;> decide +kernel

theorem witness_MembersOfALaunch :
    (∃ (s : State) (rect : List Nat), rect = [0] ∧ s.freeAtolls rect = true ∧ s.cool rect = true ∧ s.unitsFree 8 [0] = true) ∧
    (∃ s : State, ¬(s.freeAtolls [0] = true ∧ s.cool [0] = true ∧ s.unitsFree 8 [0] = true)) ∧
    (∃ (s : State) (x : Launch), s.launchId 1 = some x ∧ x.home = none ∧ (s.fe.queue x.q).state = 3 ∧ x.slot ≠ 0 ∧ ∀ m ∈ x.members, m.1 = 1 ∨ m.2 ≠ 0) ∧
    (∃ (s : State) (x : Launch), s.launchId 1 = some x ∧ x.home = none ∧ (s.fe.queue x.q).state ≠ 3) ∧
    (∃ (s : State) (x : Launch), s.launchId 1 = some x ∧ x.home = some 1 ∧ x.slot ≠ 0 ∧ x.saved = true) ∧
    ∃ (s : State) (x : Launch) (a : Atoll), Numbered s.a.n (s.others.map Atoll.n) ∧ s.launchId 1 = some x ∧ x.home = some 1 ∧ x.atolls.Nodup ∧ x.slot ≠ 0 ∧
      (∀ m ∈ x.atolls, m < 160) ∧ 0 ∈ x.atolls ∧ s.atoll 0 = some a ∧ a.st.run = .off := by
  let x : Launch := { one with q := 3, members := [(1, 0), (2, 1)] }
  let m : Launch := { one with home := some 1 }
  refine ⟨⟨lone, [0], ?_⟩, ⟨launched one id, ?_⟩, ⟨front3 x 3, x, ?_⟩, ⟨front3 x 4, x, ?_⟩, ⟨front3 { m with saved := true } 4, { m with saved := true }, ?_⟩, front3 m 4, m, (front3 m 4).a, numbered, ?_⟩ <;> decide +kernel

theorem witness_DecodeAndEncodeAgree :
    (∃ y : Syl, y.wf = true) ∧ ∃ (w : Word) (y : Syl), (decode w).toOption = some y ∧ sylLast w = true := by
  refine ⟨⟨⟨15, .rgn ⟨1024⟩⟩, ?_⟩, 0x8008208400000000, ⟨0, .add ⟨1, 1, 2⟩⟩, ?_⟩ <;> decide +kernel

theorem witness_StepKeepsInv : ∃ s t : State, s.Inv ∧ step s = .next t := by
  refine ⟨{ State.reset with agenda := [] }, _, ⟨rfl, ⟨rfl, rfl, rfl⟩, rfl, by unfold Atoll.Canon; decide +kernel, ?_, numbered⟩, rfl⟩
  intro a ha
  obtain ⟨k, -, rfl⟩ := List.mem_map.1 ha
  exact ⟨rfl, rfl, rfl, rfl, rfl, rfl⟩

theorem witness_StepAlwaysAnswers :
    (∃ s : State, s.agenda = []) ∧
    ∃ (s t : State) (e : Ev), s.agenda = [e] ∧ e.i ≠ .bundleFetch ∧ exec e.i (s.take e []) = .next t ∧ t.issueQ = [] ∧ s.a.n = e.atoll := by
  let e : Ev := ⟨9, 6, 0, 0, .none, .nop, .none⟩
  refine ⟨⟨lone, rfl⟩, { lone with agenda := [e] }, _, e, rfl, by decide +kernel, rfl, ?_, rfl⟩
  decide +kernel

/-! ## Values and single steps whose results the manual works out -/

/-- The example of R202: 65,520 becomes +infinity in FP16, and 65,519 becomes 65,504. -/
theorem test_fp16_overflow : conv (.fin false 65520 0) 4 = 0x7C00 ∧ conv (.fin false 65519 0) 4 = 0x7BFF := by decide +kernel

/-- The example beside R46: SMOD 0xD40 is legal for FP32, and no INT64 syllable may carry it. -/
theorem test_smod_depends_on_type : (Instr.vfadd ⟨7, 1, 2, 0xD40, 6, 0⟩).wf = true ∧ (Instr.vadd ⟨7, 1, 2, 0xD40, 13, 0⟩).wf = false := by decide

/-- The example of R347: with channel 77 retired, row 1,000,000 lies in channel 146; with every channel live, in channel 64. -/
theorem test_livemap : ({ Dev.init with live := (List.range 256).filter fun c => c != 77 } : Dev).chanOf 1000000 = 146 ∧ Dev.init.chanOf 1000000 = 64 := by
  decide +kernel

/-- The example of R12 to R14: global atoll (47, 13) is atoll 61 of package (2, 1). -/
theorem test_atoll_number : ({ lone with fe := { lone.fe with px := 2, py := 1 } } : State).atollAt 47 13 = some 61 := by decide +kernel

/-- The rotation worked out by hand in the notes on the rotator (R275 to R277): N = 12, CM = 0. -/
theorem test_rotation : ((Pair.vec 12 0 ⟨12288, 16384, false⟩).2.2.a, (Pair.vec 12 0 ⟨12288, 16384, false⟩).2.2.b) = (20481, 3) ∧
    (Pair.vec 12 0 ⟨12288, 16384, false⟩).1 = 1 ∧
    (let v := Pair.vec 12 0 ⟨12288, 16384, false⟩
     let r := Pair.rot 12 0 v.1 v.2.1 ⟨20480, 40960, false⟩
     (r.a, r.b) = (45054, 8202)) := by decide +kernel

/-- A stream of the notes on the straits: one live shoal of exponent 0, these digits in order, for group 0. -/
def digits (l : List Int) : Stream :=
  ⟨5, 1, 7, BitVec.ofNat 1024 (l.length * 2 ^ 264), l.length, l.map fun d => [rowOf 2 fun _ => digitCode d, 0, 0, 0], false, false⟩

/-- The sum worked out in those notes (R325): x + y has the digit +1 at planes 1, 4, 8, 12 and 16, and −1 at plane 17. -/
theorem test_relay_sum :
    (let x := digits ((List.replicate 4 [1, 0, 1, 1]).flatten)
     let y := digits ((List.replicate 4 [0, 1, 1, 0]).flatten)
     sumP x y = 17 ∧ (List.range 17).map (fun j => sumDigit x y (j + 1) 0) = [1, 0, 0, 1, 0, 0, 0, 1, 0, 0, 0, 1, 0, 0, 0, 1, -1]) := by decide +kernel

/-- What one step leaves due to land, from a strand whose next bundle is the word. -/
def landsAfter (w : Nat) (f : State → State) : List Arg :=
  match step (f (lone.withFetchWord 64 w)) with
  | .next t => (t.agenda.filter fun e => e.i == .scalarResultLand).map fun e => e.arg
  | _ => []

/-- The cause and TRINFO of the trap that one step takes. -/
def trapAfter (w : Nat) (f : State → State) : Option (Nat × Nat) :=
  match step (f (lone.withFetchWord 64 w)) with
  | .next t => some (fld t.a.st.trcause 0 8, t.a.st.trinfo.toNat)
  | _ => none

def withRegs (l : List (Fin 64 × Word)) (s : State) : State := { s with a := { s.a with st := { s.a.st with regs := regs l } } }

/-- R114: a sum wraps, and it goes to sd. -/
theorem test_add_wraps : landsAfter 0x8008208400000000 (withRegs [(1, 0xFFFFFFFFFFFFFFFF), (2, 3)]) = [.land (.s 1) 2] := by decide +kernel

/-- R115: `addi s2, s2, 1`. -/
theorem test_addi : landsAfter 0x8808410000000080 (withRegs [(2, 41)]) = [.land (.s 2) 42] := by decide +kernel

/-- R114: the division corners: by zero the quotient has every bit set; −2^63 by −1 is −2^63.  `div s1, s1, s2`. -/
theorem test_div_corners : landsAfter 0x8068208400000000 (withRegs [(1, 7)]) = [.land (.s 1) 0xFFFFFFFFFFFFFFFF] ∧
    landsAfter 0x8068208400000000 (withRegs [(1, 0x8000000000000000), (2, 0xFFFFFFFFFFFFFFFF)]) = [.land (.s 1) 0x8000000000000000] := by decide +kernel

/-- R114: srai takes copies of the sign; the count is the low six bits.  `sra s1, s1, s2`. -/
theorem test_sra : landsAfter 0x8048208400000000 (withRegs [(1, 0x8000000000000000), (2, 65)]) = [.land (.s 1) 0xC000000000000000] := by decide +kernel

/-- R116: cmplt is signed.  `cmplt p3, s4, s5`. -/
theorem test_cmplt_signed : landsAfter 0x8110620A00000000 (withRegs [(4, 0xFFFFFFFFFFFFFFFF), (5, 0)]) = [.land (.p 3) 1] := by decide +kernel

/-- R142: `trap 9` raises T_DATA with 0x10000 + 9 (R70). -/
theorem test_trap : trapAfter 0x9828000000004800 id = some (15, 0x10009) := by decide +kernel

/-- R58: an opcode outside the map raises T_ILL, cause 0x01. -/
theorem test_reserved_opcode : (trapAfter 0x8000000000000000 id).map (fun p => p.1) = some 1 := by decide +kernel

/-- R150: a load from behind the scratchpad raises T_DATA 0x10.  `lds s6, [s1+8]`. -/
theorem test_load_outside : trapAfter 0xA008C08000008000 (withRegs [(1, 6291448)]) = some (15, 0x10) := by decide +kernel

/-- R141: rti with no trap active raises T_PRIV with reason 4. -/
theorem test_rti_without_trap : trapAfter 0x9830000000000000 id = some (14, 4) := by decide +kernel

end Sys2Proof.Tests
end

/-! Returns from traps, and the scalar and predicate forms of class 0x0: O10, O1 and O3. -/

namespace Sys2Proof.Machine

/-! ## Returns from traps (R141) -/

/-- With a trap active, and where it may go to TRPC, rti is left with the check that it stands in no timed region. -/
theorem trapsRti_allowed {s : State} (hact : s.a.st.act = true) (hto : s.privileged = true ∨ s.a.st.trpc.getLsbD 47 = false) :
    trapsRti s = s.rgnIll := by
  have hp : (!s.privileged && s.a.st.trpc.getLsbD 47) = false := by rcases hto with h | h <;> rw [h] <;> simp
  rw [trapsRti, hp, hact]
  cases h : s.rgnIll <;> rfl

theorem rgnIll_outside {s : State} (h : s.a.st.rgn = none) : s.rgnIll = none := by rw [State.rgnIll, h]; rfl

theorem rgnIll_inside {s : State} (h : s.a.st.rgn.isSome = true) : s.rgnIll = some ⟨tRgnIll, s.a.st.pos⟩ := by rw [State.rgnIll, h]; rfl

/-- With no trap active rti finds T_PRIV with reason 4, whatever else holds. -/
theorem trapsRti_inactive {s : State} (hact : s.a.st.act = false) : trapsRti s = some ⟨tPriv, s.privInfo 4⟩ := by
  simp [trapsRti, trapIf, firstTrap, hact]

/-- A user's rti into privileged space finds T_PRIV with reason 3, in a region too. -/
theorem trapsRti_privileged {s : State} (hact : s.a.st.act = true) (hp : s.privileged = false)
    (hto : s.a.st.trpc.getLsbD 47 = true) : trapsRti s = some ⟨tPriv, s.privInfo 3⟩ := by
  simp [trapsRti, trapIf, firstTrap, hact, hp, hto]

/-- Writing 0 to one bit of a word clears it and leaves the others. -/
theorem setBits_clear_getLsbD {w : Nat} (x : BitVec w) (k j : Nat) (hj : j < w) :
    (setBits x k 1 0).getLsbD j = (decide (j ≠ k) && x.getLsbD j) := by
  rw [setBits_getLsbD x k 1 0 j hj]
  by_cases h : j = k
  · simp [h]
  · rw [if_neg (by omega)]
    simp [h]

theorem untouched_returnTrap (s : State) : Untouched s s.returnTrap := by
  simp [Untouched, State.returnTrap, State.fetchAt, State.noFetchOf]

theorem returnTrap_pc (s : State) : s.returnTrap.a.st.pc = s.a.st.trpc.toNat % 2 ^ 48 := by
  change fld s.a.st.trpc 0 48 = _
  rw [fld, pow_zero, Nat.div_one]

/-- Settles O10: the checks of rti are taken in the order of R141; without one, `fetchAt` leaves the one issue at t+3. -/
theorem returnFromTrap : Obligations.ReturnFromTrap := by
  unfold Obligations.ReturnFromTrap
  intro s
  refine ⟨fun hact hrgn hto => ?_, fun hact => ?_, fun hact hp hto => ?_, fun hact hto hrgn => ?_⟩
  · have hnone : trapsRti s = none := (trapsRti_allowed hact hto).trans (rgnIll_outside hrgn)
    exact ⟨s.returnTrap, unless_none s hnone _, untouched_returnTrap s, returnTrap_pc s, fun j hj => setBits_clear_getLsbD _ 16 j hj,
      rfl, onlyFetch_fetchAt _ _⟩
  · exact raises_of rfl (trapsRti_inactive hact)
  · exact raises_of rfl (trapsRti_privileged hact hp hto)
  · exact raises_of rfl ((trapsRti_allowed (s := s) hact hto).trans (rgnIll_inside hrgn))

/-! ## Values of the scalar register forms (R114) -/

theorem aluShl_eq (a : Word) (n : Nat) : aluShl a n = a <<< n := by
  apply BitVec.eq_of_toNat_eq
  rw [aluShl, BitVec.toNat_ofNat, BitVec.toNat_shiftLeft, Nat.shiftLeft_eq]

theorem aluShr_eq (a : Word) (n : Nat) : aluShr a n = a >>> n := by
  apply BitVec.eq_of_toNat_eq
  rw [aluShr, BitVec.toNat_ofNat, BitVec.toNat_ushiftRight, Nat.shiftRight_eq_div_pow,
    Nat.mod_eq_of_lt (lt_of_le_of_lt (Nat.div_le_self _ _) a.isLt)]

theorem aluSra_eq (a : Word) (n : Nat) : aluSra a n = a.sshiftRight n := by
  rw [aluSra, BitVec.sshiftRight, Int.shiftRight_eq_div_pow]
  norm_cast

theorem aluMul_eq (a b : Word) : aluMul a b = a * b := rfl

theorem divOverflow_iff (a b : Word) : divOverflow a b = true ↔ a.toInt = -2 ^ 63 ∧ b.toInt = -1 := by
  have ha : a.toInt = -2 ^ 63 ↔ a = 0x8000000000000000#64 := by rw [← BitVec.toInt_inj]; rfl
  have hb : b.toInt = -1 ↔ b = 0xFFFFFFFFFFFFFFFF#64 := by rw [← BitVec.toInt_inj]; rfl
  rw [divOverflow, Bool.and_eq_true, beq_iff_eq, beq_iff_eq, ha, hb]

theorem ne_zero_of_divOverflow {a b : Word} (h : divOverflow a b = true) : b ≠ 0 := by
  rintro rfl
  simp [divOverflow] at h

theorem aluDiv_zero {b : Word} (a : Word) (h : b = 0) : aluDiv a b = BitVec.allOnes 64 := if_pos h
theorem aluRem_zero {b : Word} (a : Word) (h : b = 0) : aluRem a b = a := if_pos h
theorem aluDivu_zero {b : Word} (a : Word) (h : b = 0) : aluDivu a b = BitVec.allOnes 64 := if_pos h

theorem aluDiv_overflow {a b : Word} (h : divOverflow a b = true) : aluDiv a b = BitVec.intMin 64 := by
  rw [aluDiv, if_neg (ne_zero_of_divOverflow h), if_pos h]
  rfl

theorem aluRem_overflow {a b : Word} (h : divOverflow a b = true) : aluRem a b = 0 := by
  rw [aluRem, if_neg (ne_zero_of_divOverflow h), if_pos h]

theorem aluDiv_regular {a b : Word} (hb : b ≠ 0) (h : ¬divOverflow a b = true) : aluDiv a b = BitVec.ofInt 64 (a.toInt.tdiv b.toInt) := by
  rw [aluDiv, if_neg hb, if_neg h]

theorem aluRem_regular {a b : Word} (hb : b ≠ 0) (h : ¬divOverflow a b = true) :
    aluRem a b = BitVec.ofInt 64 (a.toInt - b.toInt * a.toInt.tdiv b.toInt) := by
  rw [aluRem, if_neg hb, if_neg h]

theorem aluDivu_regular {a b : Word} (hb : b ≠ 0) : aluDivu a b = a / b := by
  apply BitVec.eq_of_toNat_eq
  rw [aluDivu, if_neg hb, BitVec.toNat_ofNat, BitVec.toNat_udiv, Nat.mod_eq_of_lt (lt_of_le_of_lt (Nat.div_le_self _ _) a.isLt)]

/-- Whether equal keys are taken as less makes no difference where equal keys mean equal values. -/
theorem ite_le_eq_ite_lt {α β : Type} [LinearOrder β] {m n : β} {x y : α} (h : m = n → x = y) :
    (if m ≤ n then x else y) = if m < n then x else y := by
  rcases lt_trichotomy m n with hlt | heq | hgt
  · rw [if_pos hlt.le, if_pos hlt]
  · rw [h heq, ite_self, ite_self]
  · rw [if_neg hgt.not_ge, if_neg hgt.not_gt]

theorem aluMin_eq (a b : Word) : aluMin a b = if a.toInt < b.toInt then a else b := ite_le_eq_ite_lt BitVec.toInt_inj.1
theorem aluMax_eq (a b : Word) : aluMax a b = if a.toInt < b.toInt then b else a := ite_le_eq_ite_lt fun h => (BitVec.toInt_inj.1 h).symm
theorem aluMinu_eq (a b : Word) : aluMinu a b = if a < b then a else b := ite_le_eq_ite_lt BitVec.eq_of_toNat_eq
theorem aluMaxu_eq (a b : Word) : aluMaxu a b = if a < b then b else a := ite_le_eq_ite_lt fun h => (BitVec.eq_of_toNat_eq h).symm

/-- Above its leading zeros a word has no 1-bit. -/
theorem getLsbD_above_leadingZeros (a : Word) (j : Nat) (h : 63 < j + leadingZeros 64 a.toNat) : a.getLsbD j = false := by
  refine Nat.testBit_lt_two_pow ?_
  by_cases h0 : a.toNat = 0
  · rw [h0]
    exact Nat.two_pow_pos j
  · rw [leadingZeros, if_neg h0] at h
    have hlog : a.toNat.log2 < 64 := (Nat.log2_lt h0).2 a.isLt
    exact (Nat.log2_lt h0).1 (by omega)

/-- Below the leading zeros of a word that is not 0 stands its highest 1-bit. -/
theorem getLsbD_below_leadingZeros {a : Word} (h : a ≠ 0) :
    leadingZeros 64 a.toNat < 64 ∧ a.getLsbD (63 - leadingZeros 64 a.toNat) = true := by
  have h0 : a.toNat ≠ 0 := fun e => h (BitVec.eq_of_toNat_eq e)
  have hlog : a.toNat.log2 < 64 := (Nat.log2_lt h0).2 a.isLt
  have e : 63 - leadingZeros 64 a.toNat = a.toNat.log2 := by rw [leadingZeros, if_neg h0]; omega
  refine ⟨by rw [leadingZeros, if_neg h0]; omega, ?_⟩
  rw [e]
  exact Nat.testBit_log2 h0

/-- The digit count, in whichever order the digits are taken, is the number of 1-bits. -/
theorem popNat_eq (w n : Nat) : popNat w n = ((List.range w).filter fun j => n.testBit j).length := by
  induction w generalizing n with
  | zero => rfl
  | succ w ih =>
    rw [List.range_succ_eq_map, List.filter_cons, List.filter_map, popNat]
    by_cases h0 : n = 0
    · simp [h0]
    · have hs : (fun j => n.testBit j) ∘ Nat.succ = fun j => (n / 2).testBit j := funext fun j => Nat.testBit_succ n j
      rw [if_neg h0, ih, hs]
      rcases Nat.mod_two_eq_zero_or_one n with h | h <;> simp [Nat.testBit_zero, h, Nat.add_comm]

theorem pop_eq {w : Nat} (x : BitVec w) : pop x = ((List.range w).filter fun j => x.getLsbD j).length := popNat_eq w x.toNat

/-! ## Refused fields (R40, R58) -/

theorem decode_reservedField {w : Word} (h : decodeOp (sylClass w) (sylOpcode w) (sylOperands w) = some none) :
    decode w = .error .reservedField := by
  rw [decode, h]

/-- A form of class 0x0 whose operands do not read is refused. -/
theorem decode_form_none {w : Word} {α : Type} {wid : List Nat} {get : List Nat → Option α} {c : α → Instr} (hc : sylClass w = 0)
    (hop : decodeClass0 (sylOpcode w) (sylOperands w) = some (form wid get c (sylOperands w)))
    (hget : get (unpack wid (sylOperands w)) = none) : decode w = .error .reservedField := by
  refine decode_reservedField ?_
  rw [hc]
  exact hop.trans (by rw [form_none hget])

/-- A field of the operands of a guarded class stands four bits higher in its word (R47). -/
theorem sylOperands_field {w : Word} (hc : sylClass w ≤ 4) (lo n : Nat) (h : lo + n ≤ 47) :
    sylOperands w / 2 ^ lo % 2 ^ n = (w.extractLsb' (lo + 4) n).toNat := by
  apply Nat.eq_of_testBit_eq
  intro j
  rw [sylOperands, if_pos hc, show (16 : Nat) = 2 ^ 4 from rfl, Nat.testBit_mod_two_pow, Nat.testBit_div_two_pow, Nat.testBit_div_two_pow,
    Nat.testBit_mod_two_pow, BitVec.testBit_toNat, BitVec.testBit_toNat, BitVec.getLsbD_extractLsb']
  by_cases hj : j < n
  · rw [decide_eq_true hj, decide_eq_true (by omega), Bool.true_and, Bool.true_and, Bool.true_and]
    congr 1
    omega
  · rw [decide_eq_false hj, Bool.false_and, Bool.false_and]

theorem sylOperands_field_ne_zero {w : Word} (hc : sylClass w = 0) (lo n : Nat) (hl : lo + n ≤ 47) (h : w.extractLsb' (lo + 4) n ≠ 0) :
    sylOperands w / 2 ^ lo % 2 ^ n ≠ 0 := by
  rw [sylOperands_field (by omega) lo n hl]
  exact fun e => h (BitVec.eq_of_toNat_eq e)

theorem getR3_none {x : Nat} (h : x / 2 ^ 0 % 2 ^ 29 ≠ 0) : getR3 (unpack widR3 x) = none := by
  simp only [widR3, unpack, getR3, fldWidth]
  exact if_neg (by omega)

theorem getR2_none {x : Nat} (h : x / 2 ^ 0 % 2 ^ 35 ≠ 0) : getR2 (unpack widR2 x) = none := by
  simp only [widR2, unpack, getR2, fldWidth]
  exact if_neg (by omega)

theorem getRsel_none {x : Nat} (h : x / 2 ^ 0 % 2 ^ 23 ≠ 0 ∨ x / 2 ^ 27 % 2 ^ 2 ≠ 0) : getRsel (unpack widRsel x) = none := by
  simp only [widRsel, unpack, getRsel, fldWidth]
  exact if_neg (by omega)

theorem getRcmp_none {x : Nat} (h : x / 2 ^ 45 % 2 ^ 2 ≠ 0) : getRcmp (unpack widRcmp x) = none := by
  simp only [widRcmp, unpack, getRcmp, fldWidth]
  exact if_neg (by omega)

theorem getP3_none {x : Nat} (h : x / 2 ^ 45 % 2 ^ 2 ≠ 0 ∨ x / 2 ^ 39 % 2 ^ 2 ≠ 0 ∨ x / 2 ^ 33 % 2 ^ 2 ≠ 0) :
    getP3 (unpack widP3 x) = none := by
  simp only [widP3, unpack, getP3, fldWidth]
  exact if_neg (by omega)

theorem getP2_none {x : Nat} (h : x / 2 ^ 45 % 2 ^ 2 ≠ 0 ∨ x / 2 ^ 39 % 2 ^ 2 ≠ 0 ∨ x / 2 ^ 29 % 2 ^ 6 ≠ 0) :
    getP2 (unpack widP2 x) = none := by
  simp only [widP2, unpack, getP2, fldWidth]
  exact if_neg (by omega)

/-- Opcodes 0x01 to 0x13 of class 0x0 take two sources and a destination (R59). -/
theorem decodeClass0_R3 {op : Nat} (h1 : 1 ≤ op) (h2 : op ≤ 0x13) (x : Nat) :
    ∃ c, decodeClass0 op x = some (form widR3 getR3 c x) := by
  interval_cases op <;> exact ⟨_, rfl⟩

theorem decodeClass0_R2 {op : Nat} (h : op = 0x14 ∨ op = 0x15) (x : Nat) : ∃ c, decodeClass0 op x = some (form widR2 getR2 c x) := by
  rcases h with rfl | rfl <;> exact ⟨_, rfl⟩

theorem decodeClass0_Rcmp {op : Nat} (h : op ∈ [0x20, 0x21, 0x22, 0x23, 0x24, 0x25]) (x : Nat) :
    ∃ c, decodeClass0 op x = some (form widRcmp getRcmp c x) := by
  fin_cases h <;> exact ⟨_, rfl⟩

theorem decodeClass0_P3 {op : Nat} (h : op ∈ [0x28, 0x29]) (x : Nat) : ∃ c, decodeClass0 op x = some (form widP3 getP3 c x) := by
  fin_cases h <;> exact ⟨_, rfl⟩

theorem decode_R3_reserved {w : Word} (hc : sylClass w = 0) (h1 : 1 ≤ sylOpcode w) (h2 : sylOpcode w ≤ 0x13)
    (h : w.extractLsb' 4 29 ≠ 0) : decode w = .error .reservedField := by
  obtain ⟨c, hop⟩ := decodeClass0_R3 h1 h2 (sylOperands w)
  exact decode_form_none hc hop (getR3_none (sylOperands_field_ne_zero hc 0 29 (by omega) h))

theorem decode_R2_reserved {w : Word} (hc : sylClass w = 0) (h1 : sylOpcode w = 0x14 ∨ sylOpcode w = 0x15)
    (h : w.extractLsb' 4 35 ≠ 0) : decode w = .error .reservedField := by
  obtain ⟨c, hop⟩ := decodeClass0_R2 h1 (sylOperands w)
  exact decode_form_none hc hop (getR2_none (sylOperands_field_ne_zero hc 0 35 (by omega) h))

theorem decode_sel_reserved {w : Word} (hc : sylClass w = 0) (h1 : sylOpcode w = 0x16)
    (h : w.extractLsb' 4 23 ≠ 0 ∨ w.extractLsb' 31 2 ≠ 0) : decode w = .error .reservedField := by
  refine decode_form_none (c := .sel) hc (by rw [h1]; rfl) (getRsel_none ?_)
  exact h.imp (sylOperands_field_ne_zero hc 0 23 (by omega)) (sylOperands_field_ne_zero hc 27 2 (by omega))

theorem decode_compare_reserved {w : Word} (hc : sylClass w = 0) (h1 : sylOpcode w ∈ [0x20, 0x21, 0x22, 0x23, 0x24, 0x25])
    (h : w.extractLsb' 49 2 ≠ 0) : decode w = .error .reservedField := by
  obtain ⟨c, hop⟩ := decodeClass0_Rcmp h1 (sylOperands w)
  exact decode_form_none hc hop (getRcmp_none (sylOperands_field_ne_zero hc 45 2 (by omega) h))

theorem decode_P3_reserved {w : Word} (hc : sylClass w = 0) (h1 : sylOpcode w ∈ [0x28, 0x29])
    (h : w.extractLsb' 49 2 ≠ 0 ∨ w.extractLsb' 43 2 ≠ 0 ∨ w.extractLsb' 37 2 ≠ 0) : decode w = .error .reservedField := by
  obtain ⟨c, hop⟩ := decodeClass0_P3 h1 (sylOperands w)
  exact decode_form_none hc hop (getP3_none (h.imp (sylOperands_field_ne_zero hc 45 2 (by omega))
    (Or.imp (sylOperands_field_ne_zero hc 39 2 (by omega)) (sylOperands_field_ne_zero hc 33 2 (by omega)))))

theorem decode_pnot_reserved {w : Word} (hc : sylClass w = 0) (h1 : sylOpcode w = 0x2A)
    (h : w.extractLsb' 49 2 ≠ 0 ∨ w.extractLsb' 43 2 ≠ 0 ∨ w.extractLsb' 33 6 ≠ 0) : decode w = .error .reservedField := by
  refine decode_form_none (c := .pnot) hc (by rw [h1]; rfl) (getP2_none ?_)
  exact h.imp (sylOperands_field_ne_zero hc 45 2 (by omega))
    (Or.imp (sylOperands_field_ne_zero hc 39 2 (by omega)) (sylOperands_field_ne_zero hc 29 6 (by omega)))

/-! ## The scalar register forms (R113, R114) -/

/-- A register form gives sd the value that its function has at its two sources. -/
theorem gives_scalar3 {i : Instr} {s : State} {l : Nat} {d a b : Reg} {v : Word} (f : Word → Word → Word)
    (h : exec i s = .next (scalar3 l f ⟨d, a, b⟩ s)) (hv : f (s.rdS a) (s.rdS b) = v) : Gives i s l (.s d) v :=
  gives_of (by rw [h, scalar3, hv])

/-- Settles O1: each form is a `scalar3` of its function, whose value the lemmas above state, division corner by corner. -/
theorem scalarRegisterForms : Obligations.ScalarRegisterForms := by
  unfold Obligations.ScalarRegisterForms
  intro s d a b c A B n overflow
  have hover : divOverflow A B = true ↔ overflow := divOverflow_iff A B
  refine ⟨gives_scalar3 (· + ·) rfl rfl, gives_scalar3 (· - ·) rfl rfl, gives_scalar3 (· &&& ·) rfl rfl, gives_scalar3 (· ||| ·) rfl rfl,
    gives_scalar3 (· ^^^ ·) rfl rfl, gives_scalar3 (· &&& ~~~·) rfl rfl,
    gives_scalar3 (fun a b => aluShl a (shCount b)) rfl (aluShl_eq A n), gives_scalar3 (fun a b => aluShr a (shCount b)) rfl (aluShr_eq A n),
    gives_scalar3 (fun a b => aluSra a (shCount b)) rfl (aluSra_eq A n),
    gives_scalar3 aluMul rfl (aluMul_eq A B), gives_scalar3 aluMulh rfl rfl, gives_scalar3 aluMulhu rfl rfl,
    fun hB => ?_, fun ho => ?_, fun hB ho => ?_, fun hB => gives_scalar3 aluDivu rfl (aluDivu_regular hB),
    gives_scalar3 aluMin rfl (aluMin_eq A B), gives_scalar3 aluMax rfl (aluMax_eq A B),
    gives_scalar3 aluMinu rfl (aluMinu_eq A B), gives_scalar3 aluMaxu rfl (aluMaxu_eq A B),
    ⟨leadingZeros 64 A.toNat, fun h => by rw [h]; rfl, getLsbD_below_leadingZeros, getLsbD_above_leadingZeros A, gives_of rfl⟩,
    ?_, gives_of rfl,
    fun w hc => ⟨decode_R3_reserved hc, decode_R2_reserved hc, decode_sel_reserved hc⟩⟩
  · exact ⟨gives_scalar3 aluDiv rfl (aluDiv_zero A hB), gives_scalar3 aluRem rfl (aluRem_zero A hB),
      gives_scalar3 aluDivu rfl (aluDivu_zero A hB)⟩
  · exact ⟨gives_scalar3 aluDiv rfl (aluDiv_overflow (hover.2 ho)), gives_scalar3 aluRem rfl (aluRem_overflow (hover.2 ho))⟩
  · exact ⟨gives_scalar3 aluDiv rfl (aluDiv_regular hB (mt hover.1 ho)), gives_scalar3 aluRem rfl (aluRem_regular hB (mt hover.1 ho))⟩
  · rw [← pop_eq]
    exact gives_of rfl

/-! ## Compares and predicate forms (R116) -/

theorem condWord_eq (x : Bool) : condWord x = (BitVec.ofBool x).setWidth 64 := by cases x <;> rfl

theorem condNe_eq (a b : Word) : condNe a b = decide (a ≠ b) := by
  rw [condNe, bne, decide_not]
  rfl

/-- A compare gives pd the condition that its function finds in the two sources, as bit 0 of a word. -/
theorem gives_compare {i : Instr} {s : State} {p : Prd} {a b : Reg} {x : Bool} (c : Word → Word → Bool)
    (h : exec i s = .next (compare c ⟨p, a, b⟩ s)) (hx : c (s.rdS a) (s.rdS b) = x) :
    Gives i s 1 (.p p) ((BitVec.ofBool x).setWidth 64) :=
  gives_of (by rw [h, compare, hx, condWord_eq])

theorem gives_predicate {i : Instr} {s : State} {p : Prd} {x : Bool} (h : exec i s = .next (predicate p x s)) :
    Gives i s 1 (.p p) ((BitVec.ofBool x).setWidth 64) :=
  gives_of (by rw [h, predicate, condWord_eq])

/-- Settles O3: each form is a `compare` or a `predicate` of its condition, and the refused words are those whose operand fields do not read. -/
theorem comparesAndPredicates : Obligations.ComparesAndPredicates := by
  unfold Obligations.ComparesAndPredicates
  intro s p a b q r A B bit
  refine ⟨gives_compare condEq rfl rfl, gives_compare condNe rfl (condNe_eq A B), gives_compare condLt rfl rfl, gives_compare condLtu rfl rfl,
    gives_compare condLe rfl rfl, gives_compare condLeu rfl rfl, gives_predicate rfl, gives_predicate rfl, gives_predicate rfl,
    fun w hc => ⟨decode_compare_reserved hc, decode_P3_reserved hc, decode_pnot_reserved hc⟩,
    rfl, rfl, rfl, rfl, rfl, rfl, rfl, rfl⟩

end Sys2Proof.Machine
